-- ==== Sys2Proof/Word.lean ====
section
/-! DEFINITION. The plain words of the DL742: bytes, and the coil number (1.4, R183). -/

namespace Sys2Proof

/-- One byte of a frame, record or image. -/
abbrev Byte := BitVec 8

/-- A coil number station:sequence (1.4): 6 bits of station, 32 bits of sequence. -/
structure Coil where
  station : BitVec 6
  seq     : BitVec 32
deriving DecidableEq, Repr

/-- Coil number 0:0, the unknown coil (1.4). -/
def Coil.unknown : Coil := ⟨0, 0⟩

end Sys2Proof
end

