-- ==== Sys2Proof/Syntax.lean ====
section
/-! DEFINITION. The commands of the DL742: one constructor for each row of spec/opcode_table.json.
The operands are what the step carries in from the links (chapter 12) or which slot, frame or record
the step is about. -/

namespace Sys2Proof

/-- One entry of a sample set (12.5, kind 1): channel index byte and 16-bit two's complement value. -/
structure SampleEntry where
  channel : Byte
  value   : BitVec 16
deriving DecidableEq, Repr

/-- The selection of a COIL-LIST (10.4): WINDOW with t1 and t2, or LAST with n. -/
inductive ListMode where
  | window (t1 t2 : BitVec 48)
  | last (n : BitVec 16)
deriving DecidableEq, Repr

/-- One read-back of the store self-test (R29), in the slot it is made in: of a word at `address` that was written with the low
16 bits of its own address, of one that was written with the complement of that value, or of the page written back into a live
slot, where only its agreement with the saved page is told. -/
inductive TestRead where
  | address (slot : BitVec 20) (address : Nat) (read : BitVec 16)
  | complement (slot : BitVec 20) (address : Nat) (read : BitVec 16)
  | restored (slot : BitVec 20) (same : Bool)
deriving DecidableEq, Repr

/-- A command: one row of the table of operations and events. -/
inductive Instr where
  /-- A forward encoder pulse (R2). -/
  | forwardPulse
  /-- A reverse encoder pulse (R3). -/
  | reversePulse
  /-- The standstill timer stands at the standstill time (R5). -/
  | standstill
  /-- 100 ms without the next byte inside a line feed record (R36, 12.5). -/
  | lfRecordTimeout
  /-- A line feed record as bytes after its start byte: length, kind, payload, CRC (R36, 12.5). -/
  | lfCheck (record : List Byte)
  /-- A line feed record of kind 1 (R12, R36). -/
  | sampleSet (entries : List SampleEntry)
  /-- A line feed record of kind 2 (R36, R38); a declared length of 0 is no length. -/
  | declare (coil : Coil) (headFirst resumed : Bool) (declared : BitVec 32) (offset : Option (BitVec 32))
  /-- A line feed record of kind 3 (R43); `thread` is cause THREAD, otherwise WELD. -/
  | join (thread : Bool) (position : Option (BitVec 48))
  /-- A line feed record of kind 4 (R44). -/
  | tailOut (position : Option (BitVec 48))
  /-- A line feed record of kind 5, BREAK (R44). -/
  | stripBreak (position : Option (BitVec 48))
  /-- A line feed record of kind 6 (R48); `scrap` is disposition SCRAP, otherwise COIL. -/
  | cut (scrap : Bool) (sequence : BitVec 32) (lanes : Byte) (position : Option (BitVec 48))
  /-- The finalization timer of the PENDING record of `coil` has run out (R55). -/
  | finalizationExpiry (coil : Coil)
  /-- The reply timer of a length-query slot has run out (R40). -/
  | lengthQueryTimeout (slot : BitVec 3)
  /-- The flush write in transfer completes (R26). -/
  | flushWriteComplete
  /-- The page read in transfer completes (R27). -/
  | pageReadComplete
  /-- Eleven recessive bit times (R80). -/
  | lineIdle
  /-- Sixty-four dominant bit times (R89). -/
  | busStuck
  /-- The bits observed from a start bit on, up to where the receiver stopped taking them (R81 to R84). -/
  | badFrame (bits : List Bool)
  /-- A bit driven 1 and observed 0 in the arbitration field (R86). -/
  | lostArbitration
  /-- A mismatch after the arbitration field, or a 0 observed as 1 anywhere (R87). -/
  | collision
  /-- The last bit of the end field of the frame on the line (R88). -/
  | frameSent
  /-- The queue-wait timer of the frame at `place` of the transmit queue stands at the limit (R92). -/
  | txWait (place : BitVec 4)
  /-- A good TIME frame (R127). -/
  | time (source dest : BitVec 6) (tag : Byte) (payload : List Byte)
  /-- A good LINEAGE-REPLY frame (R41, R75, R131). -/
  | lineageReply (source dest : BitVec 6) (tag : Byte) (payload : List Byte)
  /-- A good SAMPLE-REPLY frame (R149). -/
  | sampleReply (source dest : BitVec 6) (tag : Byte) (payload : List Byte)
  /-- A good DESCENT-REPLY frame (R165). -/
  | descentReply (source dest : BitVec 6) (tag : Byte) (payload : List Byte)
  /-- A good LINEAGE-QUERY frame (R102). -/
  | lineageQuery (source dest : BitVec 6) (tag : Byte) (payload : List Byte)
  /-- A good SAMPLE-FETCH frame (R102). -/
  | sampleFetch (source dest : BitVec 6) (tag : Byte) (payload : List Byte)
  /-- A good DESCENT-QUERY frame (R102). -/
  | descentQuery (source dest : BitVec 6) (tag : Byte) (payload : List Byte)
  /-- A good COIL-ANNOUNCE frame (R74). -/
  | coilAnnounce (source dest : BitVec 6) (tag : Byte) (payload : List Byte)
  /-- A good PRESENCE frame (R119). -/
  | presence (source dest : BitVec 6) (tag : Byte) (payload : List Byte)
  /-- The reply timer of a lineage-query slot has run out (R130). -/
  | lineageQueryTimeout (slot : BitVec 3)
  /-- The reply timer of a REMOTE fetch slot has run out (R147). -/
  | fetchTimeout (slot : BitVec 4)
  /-- The collector's quiet timer has run out (R165). -/
  | quietTimerExpiry
  /-- The collector's overall timer has run out (R165). -/
  | overallTimerExpiry
  /-- The time-frame timer stands at 10,000 ms (R126). -/
  | timeFrameTimer
  /-- A tick finds the plant clock at 2^48 − 1 (R124). -/
  | plantClockWrap
  /-- A PLAYBACK record (R128, 12.6). -/
  | playback (coil : Coil) (quantity : Byte) (a b step : BitVec 32) (depth : Byte)
  /-- A GENEALOGY record (R159, 12.6); direction 0 is UP, 1 is DOWN. -/
  | genealogy (coil : Coil) (direction depth : Byte)
  /-- A COIL-LIST record (R167, 12.6). -/
  | coilList (mode : ListMode) (unstamped : Bool)
  /-- A STATUS record (R174). -/
  | status
  /-- An ABORT record (R175). -/
  | abort
  /-- A CLEAR-FAULT record (R175). -/
  | clearFault
  /-- A SET-TIME record (R125, R175). -/
  | setTime (clock : BitVec 48)
  /-- The bytes that arrive on the console link with a record that is no good one; `framingError`: the last of them had stop
  bit 0 (R170, R172). -/
  | consoleBadRecord (bytes : List Byte) (framingError : Bool)
  /-- The bytes `got` arrive on the console link, then 100 ms pass without a byte (R170). -/
  | consoleByteTimeout (got : List Byte)
  /-- The last byte of the head record of the output queue has been sent (R173). -/
  | outputRecordSent
  /-- The 4,096th reference period of the settle count (R177). -/
  | settleCountEnd
  /-- The words read from the configuration memory; a word that is not answered reads FFFFH (R178). -/
  | configLoad (image : List (BitVec 16))
  /-- The end of the store self-test, with its read-backs in order (R29, R30); matching ones may be left out. -/
  | selfTestComplete (reads : List TestRead)
  /-- The reset input is asserted; `testing` is the slot the self-test has in hand, if any (R31, R177). -/
  | externalResetAssert (testing : Option (BitVec 20))
  /-- The reset input is released (R177). -/
  | externalResetRelease
  /-- The supply falls below the operating threshold (R182). -/
  | supplyLow
  /-- The supply falls below the retention threshold (R182). -/
  | retentionLoss
  /-- The supply rises above the operating threshold (R182). -/
  | supplyRecovery
  /-- One tick of the 1 ms time base (R5, R8, R124 and the timers). -/
  | timeBaseTick
  /-- A good frame whose kind is not one of the nine or whose class is not its kind's (R95). -/
  | undefinedFrameKind (cls : BitVec 3) (source : BitVec 6) (kind : BitVec 4) (dest : BitVec 6) (tag : Byte)
      (payload : List Byte)
deriving DecidableEq, Repr

end Sys2Proof
end

