-- ==== Sys2Proof/Decode.lean ====
section
/-! DEFINITION. Commands spelled by a word. -/

namespace Sys2Proof

/-- The rows of the table carry no bits (every row's "fields" is empty and none has "fixed"), so no word spells a command; what
the links carry as bits is read in Machine/Operands.lean (assumption 4). -/
def decodeTableWord (_nbits _w : Nat) : Option Instr := none

end Sys2Proof
end

