-- ==== Sys2Proof/Config.lean ====
section
/-! DEFINITION. What the part fixes for every DL742 (capacities and limits, each with its rule), and the one
free value of the model. -/

namespace Sys2Proof.Config

/-- Greatest odometer, clock and event position: 2^48 − 1 (R1, R124). -/
def max48 : Nat := 281474976710655
/-- Greatest length, stop time and sequence: 2^32 − 1 (R8, R48, R61). -/
def max32 : Nat := 4294967295
/-- Greatest value of the saturating counts (R36, R84, R87, R102, R176). -/
def max16 : Nat := 65535
/-- Cap of the reverse debt in 1/256 mm (R3). -/
def maxDebt : Nat := 16777215
/-- Entries of the flush queue (R23). -/
def flushCap : Nat := 32
/-- Declarations of the declaration queue (R38). -/
def declCap : Nat := 8
/-- Entry coil records (R43). -/
def entryCap : Nat := 16
/-- Exit coil records (R52). -/
def exitCap : Nat := 1024
/-- Overlap entries of one exit record (R50). -/
def overlapCap : Nat := 8
/-- Records of the lineage cache (R76). -/
def cacheCap : Nat := 256
/-- Frames of the transmit queue (R90). -/
def txCap : Nat := 16
/-- Requests of the service queue (R102). -/
def serviceCap : Nat := 8
/-- Records of CON's output queue (R173). -/
def outCap : Nat := 16
/-- Coils of one per-depth coil list (R135). -/
def coilListCap : Nat := 64
/-- Points of one group (R140). -/
def groupCap : Nat := 14
/-- Points of one playback (R133). -/
def pointCap : Nat := 4096
/-- Places of the visited set (R163). -/
def placeCap : Nat := 256
/-- Collisions at which a frame is dropped (R87). -/
def collisionLimit : Nat := 3
/-- Children of one DESCENT-REPLY (R107). -/
def childCap : Nat := 10
/-- Quiet time of the descendant collector in ms (R164). -/
def quietTime : Nat := 100
/-- Overall time of the descendant collector in ms (R164). -/
def overallTime : Nat := 1000
/-- Period of the time-frame timer in ms (R126). -/
def timeFramePeriod : Nat := 10000
/-- Payload bytes of a G-bus frame (R84). -/
def payloadCap : Nat := 160
/-- Start byte of a request record (R185). -/
def requestStart : BitVec 8 := 0x3C
/-- Start byte of a response record (R185). -/
def responseStart : BitVec 8 := 0xC3
/-- Payload bytes of a console request (R170). -/
def requestCap : Nat := 32
/-- Milliseconds of one hour (R55). -/
def msPerHour : Nat := 3600000
/-- Words of the configuration image (R178). -/
def imageWords : Nat := 90
/-- Slots at the top of the ring that the self-test takes (R29). -/
def testSlots : Nat := 16

/-- FREE VALUE (assumption 3). The level of the G-bus line in a bit time that no row of the table fixes: STATUS-REPORT
carries the driven and the observed value of the bit in which it is assembled (R79, R174). -/
opaque freeLevel : Nat → Bool

end Sys2Proof.Config
end

