-- ==== Sys2Proof/Machine/State.lean ====
section
/-! DEFINITION. The state of the DL742, block by block (1.3): plain data, with the queue of waiting commands. A docstring
names the rule of spec/ that gives a field. Positions and times are whole millimetres and milliseconds (Nat), sample values
are Int, and what the links carry as bits stays a bit vector. -/

namespace Sys2Proof.Machine

/-! ### Trend values -/

/-- The bin flags (1.4, R15, R16). -/
structure BinFlags where
  held : Bool
  void : Bool
  stop : Bool
  sat  : Bool
deriving DecidableEq, Repr

/-- A closed bin (R18). -/
structure Bin where
  mean  : Int
  least : Int
  most  : Int
  flags : BinFlags
deriving DecidableEq, Repr

/-- A bin as a page read reports it (R27). -/
inductive BinClass where
  | expired
  | unclosed            -- OPEN: at or above the channel's open bin
  | closed (b : Bin)
deriving DecidableEq, Repr

/-- A point of a fetch result or SAMPLE-REPLY (6.1, R113, R114). -/
structure Point where
  mean    : Int
  least   : Int
  most    : Int
  flags   : BinFlags
  sparse  : Bool
  partly  : Bool        -- PARTIAL
  expired : Bool
deriving DecidableEq, Repr

/-! ### Configuration (R180) -/

/-- An enabled channel (1.3): index 0 to 31, quantity code 1 to 255, step code 0 to 7. -/
structure ChannelDef where
  index    : Nat
  quantity : Nat
  stepCode : Nat
deriving DecidableEq, Repr

/-- A subscription template (4.4). -/
structure Template where
  enable : Bool
  base   : Coil
  mask   : Coil
deriving DecidableEq, Repr

/-- The clamped values of the configuration image, in force until the next start (R180). -/
structure Settings where
  station        : BitVec 6
  busRate        : BitVec 2
  lfRate         : BitVec 2
  timeSource     : Bool
  pulseWeight    : Nat          -- 1/256 mm
  standstillTime : Nat          -- ms
  finalHours     : Nat          -- h
  replyTimeout   : Nat          -- ms
  retryLimit     : Nat
  storeCode      : Nat
  queueWait      : Nat          -- ms
  channels       : List ChannelDef   -- the enabled ones, ascending index
  tableLoaded    : Bool         -- false until this start has loaded the channel table (R174)
deriving DecidableEq, Repr

/-! ### SMP (chapter 1) -/

inductive SamplerState where
  | moving
  | standstill
deriving DecidableEq, Repr

/-- The accumulator of an open bin (R10). `extrema` is the least and greatest accepted value, none at count 0. -/
structure Acc where
  sum     : Int
  count   : Nat
  extrema : Option (Int × Int)
  stop    : Bool
  sat     : Bool
deriving DecidableEq, Repr

/-- SMP's state of one enabled channel (R10, R11). -/
structure SmpChan where
  index    : Nat
  acc      : Acc
  lastMean : Option Int
deriving DecidableEq, Repr

structure Smp where
  odometer : Nat                -- O, mm (R1)
  fraction : Nat                -- F, 1/256 mm (R1)
  debt     : Nat                -- D, 1/256 mm (R1, R3)
  sampler  : SamplerState       -- R5 to R7
  timer    : Nat                -- standstill timer, ms (R5)
  stopTime : Nat                -- segment stop time, ms (R8)
  chans    : List SmpChan       -- one per enabled channel, ascending index
deriving DecidableEq, Repr

/-! ### TSC (chapter 2) -/

/-- A page (1.4, R22): page `no` of channel `chan`, the bins received in index order from bin `first`. -/
structure Page where
  chan  : Nat
  no    : Nat
  first : Nat
  bins  : List Bin
deriving DecidableEq, Repr

/-- TSC's state of one enabled channel: directory oldest first as (page number, slot), horizon, current page
(R20, R21, R22). -/
structure TscChan where
  index   : Nat
  dir     : List (Nat × Nat)
  horizon : Nat
  cur     : Page
deriving DecidableEq, Repr

inductive Evaluator where
  | peer
  | localEval
deriving DecidableEq, Repr

/-- The page transfer the memory is in (R25, R26, R27). -/
inductive Transfer where
  | write (page : Page) (cancelled : Bool)
  | read (who : Evaluator) (bins : List BinClass)
deriving DecidableEq, Repr

structure Tsc where
  ring       : List (Nat × Page)   -- the live slots and their pages, slot numbers strictly rising (R19)
  writePtr   : Nat                 -- R19
  chans      : List TscChan
  flush      : List Page           -- flush queue, head first (R23)
  transfer   : Option Transfer
  mark       : Evaluator           -- alternation mark (R25)
  storeFault : Bool                -- store state FAULT (R30)
  intact     : Bool                -- store-intact mark (2.7)
  testMark   : Option (Nat × Page) -- test mark and test buffer (R29)
deriving DecidableEq, Repr

/-! ### LFR (chapter 3) -/

structure Lfr where
  assembler : List Byte         -- receive assembler (R36): empty between records
  errors    : Nat               -- line feed error count (R36)
  lastPos   : Nat               -- last event position (R37)
deriving DecidableEq, Repr

/-! ### CTR (chapters 3 and 4) -/

/-- Length-query state of a declaration or entry record (3.2.1). -/
inductive LengthState where
  | none
  | wanted
  | asked
deriving DecidableEq, Repr

/-- A declaration (R38). `id` is the model's own name for it, by which links refer to it; it passes to the entry record
at the JOIN. RESUMED is set exactly when a start offset is present. -/
structure Decl where
  id        : Nat
  coil      : Coil
  headFirst : Bool
  length    : Option Nat
  offset    : Option Nat
  lq        : LengthState
deriving DecidableEq, Repr

/-- An entry coil record (3.3); DONE when `eEnd` is present, otherwise RUNNING. -/
structure Entry where
  id        : Nat
  coil      : Coil
  headFirst : Bool
  length    : Option Nat
  offset    : Option Nat
  lq        : LengthState
  eStart    : Nat
  eEnd      : Option Nat
  broken    : Bool
deriving DecidableEq, Repr

/-- An overlap list entry [x0, x1) (R50); `link` names the entry record, none when there is none or it was cut (R47). -/
structure Overlap where
  coil      : Coil
  headFirst : Bool
  x0        : Nat
  x1        : Nat
  link      : Option Nat
  merged    : Bool
deriving DecidableEq, Repr

/-- A piece (R62). -/
structure Piece where
  n0       : Nat
  n1       : Nat
  source   : Coil
  sLo      : Nat
  sHi      : Nat
  reversed : Bool
  unscaled : Bool
  broken   : Bool
  merged   : Bool
deriving DecidableEq, Repr

/-- The two forms of an exit record (3.5): PENDING with overlap list and finalization timer (ms left), FINAL with pieces and
announce-pending mark. -/
inductive ExitBody where
  | pending (overlaps : List Overlap) (timer : Nat)
  | final (pieces : List Piece) (announcePending : Bool)
deriving DecidableEq, Repr

/-- An exit coil record (R49). -/
structure ExitRec where
  coil     : Coil
  oStart   : Nat
  oEnd     : Nat
  close    : Nat
  stop     : Nat
  lane     : Nat
  lanes    : Nat
  timedOut : Bool
  body     : ExitBody
deriving DecidableEq, Repr

/-- A lineage record (R61). -/
structure LineageRec where
  coil     : Coil
  length   : Nat
  close    : Nat
  stop     : Nat
  lane     : Nat
  lanes    : Nat
  timedOut : Bool
  pieces   : List Piece
deriving DecidableEq, Repr

/-- A busy length-query slot (3.2.1); `timer` is the ms left while the reply timer runs. -/
structure LengthBusy where
  coil    : Coil
  link    : Nat
  allowed : Nat
  tries   : Nat
  dropped : Bool
  timer   : Option Nat
deriving DecidableEq, Repr

structure LengthSlot where
  gen  : BitVec 2
  busy : Option LengthBusy
deriving DecidableEq, Repr

structure Ctr where
  decls    : List Decl          -- declaration queue, head first (R38)
  entries  : List Entry         -- entry coil table in JOIN order (R43)
  segStart : Nat                -- start of the open exit segment (3.4)
  exits    : List ExitRec       -- exit coil table in close order (R49)
  slots    : List LengthSlot    -- 8 length-query slots (3.2.1)
  nextId   : Nat                -- the MODEL's own counter of declaration and entry names
deriving DecidableEq, Repr

/-! ### LCH (4.4) -/

structure Lch where
  cache     : List LineageRec   -- most recently used first (R76)
  templates : List Template     -- 8 (R71)
deriving DecidableEq, Repr

/-! ### BUS (chapter 5) -/

/-- The nine message kinds (6.1). -/
inductive FrameKind where
  | time | lineageReply | sampleReply | descentReply | lineageQuery | sampleFetch | descentQuery | coilAnnounce | presence
deriving DecidableEq, Repr

/-- A frame of this station: its class is the class of its kind and its source the own station (R82). -/
structure Frame where
  kind    : FrameKind
  dest    : BitVec 6
  tag     : Byte
  payload : List Byte
deriving DecidableEq, Repr

/-- Who offered a frame (5.4), down to the slot that waits for its report. -/
inductive Owner where
  | ctrAnnounce
  | ctrQuery (slot : Nat)
  | pseReply
  | reqQuery (slot : Nat)
  | reqFetch (slot : Nat)
  | reqDescent
  | rosTime
  | rosStart
  | rosAnswer
  | busFinal
deriving DecidableEq, Repr

/-- An entry of the transmit queue (R90), or a waiting frame (R91). -/
structure TxEntry where
  frame      : Frame
  owner      : Owner
  collisions : Nat
  wait       : Nat              -- queue-wait timer (R92)
  onLine     : Bool             -- its start bit has been driven (R85)
  withdrawn  : Bool             -- withdrawn while on the line (R93)
deriving DecidableEq, Repr

inductive RxState where
  | hunt
  | idle
  | receiving
deriving DecidableEq, Repr

structure Bus where
  rx         : RxState          -- R80
  queue      : List TxEntry     -- in enqueue order (R90)
  waiting    : List TxEntry     -- waiting frames, longest waiting first (R91)
  badFrames  : Nat              -- R84
  collisions : Nat              -- R87
  stuck      : Bool             -- BUS-STUCK (R89)
  muted      : Bool             -- MUTED (R97)
  driven     : Bool             -- driven value in the bit of the last row (R79)
  observed   : Bool             -- observed value in the bit of the last row (R79)
deriving DecidableEq, Repr

/-! ### Fetch evaluation (6.6) -/

/-- A point under evaluation: the used bins kLo to kHi and what the reads so far gave (R111 to R114). -/
structure PointAcc where
  kLo     : Nat
  kHi     : Nat
  sparse  : Bool
  avail   : Nat
  unavail : Nat
  valued  : Nat
  sum     : Int
  extrema : Option (Int × Int)
  held    : Bool
  stop    : Bool
  sat     : Bool
deriving DecidableEq, Repr

/-- An evaluation in progress: the channel, CLAMPED, the points, and the page asked for (R112). -/
structure Eval where
  chan    : Nat
  clamped : Bool
  points  : List PointAcc
  page    : Nat
deriving DecidableEq, Repr

/-- Status of a SAMPLE-REPLY or evaluation (R108, R115). -/
inductive FetchStatus where
  | data | unknown | notMine | noQuantity | storeFault | badRequest
deriving DecidableEq, Repr

/-! ### PSE (chapter 6) -/

/-- A request of the service queue (R102). -/
structure ServiceReq where
  source  : BitVec 6
  tag     : Byte
  kind    : FrameKind
  payload : List Byte
deriving DecidableEq, Repr

/-- The engine that answers requests (6.3). EVALUATING lasts between steps only for a SAMPLE-FETCH; HOLDING keeps the parts
still to be offered after the held frame (R107). -/
inductive PseEngine where
  | idle
  | evaluating (req : ServiceReq) (ev : Eval)
  | holding (rest : List Frame)
deriving DecidableEq, Repr

structure Pse where
  service : List ServiceReq     -- service queue, head first (R102)
  engine  : PseEngine
  drops   : Nat                 -- service drop count (R102)
deriving DecidableEq, Repr

/-! ### ROS (chapter 7) -/

inductive RosterState where
  | absent | present | degraded | silent | self
deriving DecidableEq, Repr

/-- A roster entry (R117): `codes` is none while the quantity list is unknown. -/
structure RosterEntry where
  state : RosterState
  codes : Option (List Byte)
deriving DecidableEq, Repr

structure Ros where
  roster    : List RosterEntry  -- stations 1 to 62 in order
  clock     : Nat               -- plant clock, ms; 0 is not set (R124)
  timeTimer : Nat               -- time-frame timer, ms (R126)
deriving DecidableEq, Repr

/-! ### REQ (chapters 8 to 10) -/

/-- The outcome flags of a TRACE-POINT (R139, R151). -/
inductive Outcome where
  | unknown | origin | pending | overflow | unreachable | ended | noQuantity | storeFault | unanswered
deriving DecidableEq, Repr

/-- Why REQ or CON refuses (11.1, 12.6). -/
inductive Reason where
  | check | format | overrun | busy | notRunning | notTimeSource | unknownCoil | unreachable | range | tooMany | aborted
deriving DecidableEq, Repr

/-- An entry of a point attribution table (R134). `short` is the short-last mark. -/
inductive Attr where
  | traced (source : Coil) (ta tb : Nat) (split unscaled broken short : Bool)
  | ended (flag : Outcome) (source : Coil)
deriving DecidableEq, Repr

/-- A present entry of the result table (R151), without its depth and index, which its place gives. -/
structure Result where
  mean     : Int
  least    : Int
  most     : Int
  flags    : BinFlags
  sparse   : Bool
  partly   : Bool
  expired  : Bool
  clamped  : Bool
  split    : Bool
  unscaled : Bool
  broken   : Bool
  outcome  : Option Outcome
  source   : Coil
deriving DecidableEq, Repr

/-- The tables of one planned depth: attribution and results, P entries each (R134, R151). -/
structure DepthTable where
  attrs   : List Attr
  results : List (Option Result)
deriving DecidableEq, Repr

/-- Record state of a listed coil (R135) and the depth-0 copy (R129); a PENDING coil's carries its close time, and the length
that goes with the copy is the request's L_N. -/
inductive RecState where
  | record (r : LineageRec)
  | pending (close : Nat)
  | unknown
  | unreachable
  | looking
deriving DecidableEq, Repr

/-- The depth whose coil list is built and not yet traced (R135, R143). -/
structure Plan where
  depth : Nat
  coils : List (Coil × RecState)
deriving DecidableEq, Repr

/-- What a lineage-query slot serves (8.2.1). -/
inductive Serves where
  | resolution
  | coilList
  | place
deriving DecidableEq, Repr

/-- A busy lineage-query slot (8.2.1); `timer` is the ms left while the reply timer runs. -/
structure QueryBusy where
  coil    : Coil
  serves  : Serves
  allowed : Nat
  tries   : Nat
  dropped : Bool
  timer   : Option Nat
deriving DecidableEq, Repr

structure QuerySlot where
  gen  : BitVec 2
  busy : Option QueryBusy
deriving DecidableEq, Repr

/-- A fetch group (R140, R141); `allowed` is 0 for a local one, else the attempts allowed (R142). -/
structure Group where
  depth   : Nat
  first   : Nat
  count   : Nat
  coil    : Coil
  posFrom : Nat
  posTo   : Nat
  allowed : Nat
deriving DecidableEq, Repr

/-- A busy fetch slot (9.1): LOCAL or REMOTE, attempts, reply timer. -/
structure FetchBusy where
  group   : Group
  isLocal : Bool
  tries   : Nat
  dropped : Bool
  timer   : Option Nat
deriving DecidableEq, Repr

structure FetchSlot where
  gen  : BitVec 2
  busy : Option FetchBusy
deriving DecidableEq, Repr

/-- The local evaluator (R116): `draining` after a cancel until the read in transfer completes. -/
inductive LocalEngine where
  | idle
  | running (slot : Nat) (ev : Eval)
  | draining
deriving DecidableEq, Repr

/-- The copied fields of a PLAYBACK and what acceptance adds (R128). -/
structure PlayRequest where
  coil     : Coil
  quantity : Nat
  a        : Nat
  b        : Nat
  step     : Nat
  depth    : Nat
  length   : Nat                -- L_N
  bound    : Nat                -- b′
  points   : Nat                -- P
  copy     : RecState           -- the depth-0 copy: record, or pending
deriving DecidableEq, Repr

/-- Outcome of a place of the visited set (10.1). -/
inductive PlaceOutcome where
  | looking
  | record (r : LineageRec)
  | pending (length close stop lane : Nat)
  | unknown
  | unreachable
  | origin
  | child (lane length : Nat) (pending : Bool)
  | root                        -- place N of a downward walk: the coil alone (R166)
deriving DecidableEq, Repr

/-- A place of the visited set (10.1). -/
structure Place where
  coil    : Coil
  depth   : Nat
  parent  : Coil
  link    : Option Piece
  outcome : PlaceOutcome
deriving DecidableEq, Repr

inductive CollectorState where
  | idle | offering | collecting
deriving DecidableEq, Repr

/-- The descendant collector (10.3): `parts` holds the taken parts as (station, part index, MORE). -/
structure Collector where
  gen     : BitVec 2
  state   : CollectorState
  tries   : Nat
  quiet   : Nat                 -- ms left
  overall : Nat                 -- ms left
  parts   : List (BitVec 6 × Nat × Bool)
deriving DecidableEq, Repr

/-- The engine states (8.1, 10). -/
inductive EngineState where
  | idle | resolving | playing | walkingUp | walkingDown | listing
deriving DecidableEq, Repr

/-- The working data of a genealogy walk (10.1): N's walk depth D, the visited set, the place to be expanded next,
truncation (R163), dropped queries (R164). -/
structure Walk where
  depth     : Nat
  places    : List Place
  expanded  : Nat
  truncated : Bool
  dropped   : Nat
deriving DecidableEq, Repr

structure Req where
  engine     : EngineState
  play       : PlayRequest           -- request record
  refusal    : Option Reason         -- a REFUSE of the request waits for the output queue (R132)
  acceptDue  : Bool                  -- ACCEPT has not joined the output queue yet (R133)
  aborting   : Bool                  -- the ABORTED end record has not joined yet (R155, R169)
  depths     : List DepthTable       -- planned depths from 0 up
  plan       : Option Plan
  issue      : List Group            -- issue list (R144)
  fetches    : List FetchSlot        -- 16 fetch slots (9.1)
  lastGiven  : Nat                   -- slot given last (R144)
  localOrder : List Nat              -- LOCAL slots waiting for the local evaluator (R146)
  localEval  : LocalEngine
  emitDepth  : Nat                   -- emission position (R152)
  emitIndex  : Nat
  counts     : List Nat              -- emitted counts of depths 0 to 4 (R153)
  queries    : List QuerySlot        -- 8 lineage-query slots (8.2.1)
  walk       : Walk
  collector  : Collector
  listing    : List ExitRec          -- listing buffer (R167)
  emitted    : Nat                   -- entries of a walk or listing that joined the output queue
deriving DecidableEq, Repr

/-! ### SUP's fault record (11.3) -/

inductive FaultKind where
  | lfCheck | lfOrder | declareOverflow | entryEvict | exitEvict | renumber | badFrame | busCollision | txWait | busStuck
  | duplicateStation | serviceDrop | storeFault | flushDrop | config | supplyLow
deriving DecidableEq, Repr

inductive Block where
  | lfr | smp | tsc | ctr | lch | bus | pse | ros | req | con | sup
deriving DecidableEq, Repr

/-- The fault record's content (R176). -/
structure FaultRec where
  kind     : FaultKind
  block    : Block
  coil     : Option Coil
  odometer : Option Nat
  time     : Nat
deriving DecidableEq, Repr

/-- The part states (11.4), with the two phases of a start before LOADING (R177). -/
inductive PartState where
  | resetHeld | settling | loading | checking | configFault | run | runDegraded | supplyLow
deriving DecidableEq, Repr

/-- The supply monitor (R182). -/
inductive Monitor where
  | above | between | below
deriving DecidableEq, Repr

structure Sup where
  part        : PartState
  monitor     : Monitor
  resetPin    : Bool             -- the reset input is asserted
  retention   : Bool             -- retention mark (R182)
  checksum    : BitVec 16        -- retained-image checksum (R179)
  coldStart   : Bool             -- the kind of the last start (R179)
  fault       : Option FaultRec  -- R176
  faultCount  : Nat
  markBad     : Bool             -- first-of-kind marks: BAD-FRAME, SERVICE-DROP, LF-CHECK (R176)
  markService : Bool
  markLf      : Bool
deriving DecidableEq, Repr

/-! ### CON (chapter 11) -/

/-- A request that passed the checks of R172 rows 1 and 2. -/
inductive Request where
  | playback (coil : Coil) (quantity a b step depth : Nat)
  | genealogy (coil : Coil) (up : Bool) (depth : Nat)
  | coilList (mode : ListMode) (unstamped : Bool)
  | status
  | abort
  | clearFault
  | setTime (clock : Nat)
deriving DecidableEq, Repr

/-- A complete console record as CON judges it (R172 rows 1 and 2), with its kind byte. -/
inductive ConRecord where
  | cutShort (kind : Byte)
  | badCheck (kind : Byte)
  | badFormat (kind : Byte)
  | request (r : Request)
deriving DecidableEq, Repr

/-- The channel lines of a STATUS-REPORT (12.6). -/
structure ChannelReport where
  index    : Nat
  quantity : Nat
  stepCode : Nat
  openBin  : Nat
  horizon  : Nat
deriving DecidableEq, Repr

/-- A STATUS-REPORT (R174, 12.6). -/
structure StatusReport where
  part         : PartState
  station      : BitVec 6
  muted        : Bool
  stuck        : Bool
  driven       : Bool
  observed     : Bool
  standstill   : Bool
  storeFault   : Bool
  odometer     : Nat
  fraction     : Nat
  debt         : Nat
  clock        : Nat
  badFrames    : Nat
  collisions   : Nat
  serviceDrops : Nat
  lfErrors     : Nat
  faultCount   : Nat
  fault        : Option FaultRec
  channels     : List ChannelReport
  roster       : List RosterEntry
deriving DecidableEq, Repr

inductive EndOutcome where
  | complete | aborted | truncated
deriving DecidableEq, Repr

/-- The outcome flags of a GEN-ENTRY (12.6). -/
inductive GenFlag where
  | none | unknown | pending | unreachable | origin
deriving DecidableEq, Repr

/-- A GEN-ENTRY (R162, R166, 12.6). -/
structure GenEntry where
  depth    : Nat
  coil     : Coil
  parent   : Coil
  link     : Option Piece
  length   : Nat
  close    : Nat
  stop     : Nat
  lane     : Nat
  timedOut : Bool
  flag     : GenFlag
deriving DecidableEq, Repr

/-- The response records (11.1, 12.6). -/
inductive Response where
  | accept (points depth bound : Nat) (clamped : Bool)
  | refuse (kind : Byte) (reason : Reason)
  | tracePoint (depth index : Nat) (r : Result)
  | traceEnd (depth withData without : Nat)
  | playbackEnd (aborted : Bool) (counts : List Nat)
  | genEntry (e : GenEntry)
  | genEnd (outcome : EndOutcome) (entries dropped : Nat)
  | listEntry (r : ExitRec)
  | listEnd (aborted : Bool) (entries : Nat)
  | statusReport (r : StatusReport)
  | done (kind : Byte)
deriving DecidableEq, Repr

/-- What CON will place for the record in the complete buffer (R172); a STATUS-REPORT is assembled when it joins (R174). -/
inductive Answer where
  | report
  | place (r : Response)
deriving DecidableEq, Repr

/-- The record in the complete buffer with its answer (R171, R172). -/
structure Unprocessed where
  record : ConRecord
  answer : Answer
deriving DecidableEq, Repr

structure Con where
  assembler : Option (List Byte)   -- none HUNTING, some ASSEMBLING (R170)
  complete  : Option Unprocessed   -- complete buffer (R171)
  overrun   : Option Byte          -- overrun mark, with the kind byte its REFUSE carries (R171)
  out       : List Response        -- output queue, head first (R173)
deriving DecidableEq, Repr

/-! ### The machine -/

/-- The whole part, and the queue of commands that wait for it, first in, first out. -/
structure State where
  settings : Settings
  smp      : Smp
  tsc      : Tsc
  lfr      : Lfr
  ctr      : Ctr
  lch      : Lch
  bus      : Bus
  pse      : Pse
  ros      : Ros
  req      : Req
  con      : Con
  sup      : Sup
  freeSeq  : Nat               -- the MODEL's own: index of the next free line level (Config.freeLevel)
  pending  : List Instr        -- the MODEL's own: commands waiting
deriving DecidableEq, Repr

/-- Reasons a step can stop with a fault. No command of this part does (NOTES.md, Stops): the type has the one constructor
that the interface needs. -/
inductive Fault where
  /-- Raised by nobody: the spec gives every command an effect, or none, in every state. Safe. -/
  | neverRaised
deriving DecidableEq, Repr

/-- Reasons a command is refused. -/
inductive Refusal where
  /-- Raised by `exec` for a row whose meaning is not written; no row is in that case. Safe. -/
  | notModelled (mnemonic : String)
deriving DecidableEq, Repr

/-! ### Values at reset -/

/-- Before any image has been loaded: no station, no enabled channel (assumption 2). -/
def Settings.unloaded : Settings :=
  { station := 0, busRate := 0, lfRate := 0, timeSource := false, pulseWeight := 1, standstillTime := 100,
    finalHours := 1, replyTimeout := 10, retryLimit := 0, storeCode := 0, queueWait := 50, channels := [],
    tableLoaded := false }

def Smp.reset : Smp :=
  { odometer := 0, fraction := 0, debt := 0, sampler := .standstill, timer := 0, stopTime := 0, chans := [] }

def Tsc.reset : Tsc :=
  { ring := [], writePtr := 0, chans := [], flush := [], transfer := none, mark := .localEval, storeFault := false,
    intact := false, testMark := none }

def Lfr.reset : Lfr := { assembler := [], errors := 0, lastPos := 0 }

def Ctr.reset : Ctr :=
  { decls := [], entries := [], segStart := 0, exits := [], slots := List.replicate 8 ⟨0, none⟩, nextId := 0 }

def Lch.reset : Lch := { cache := [], templates := List.replicate 8 ⟨false, .unknown, .unknown⟩ }

def Bus.reset : Bus :=
  { rx := .hunt, queue := [], waiting := [], badFrames := 0, collisions := 0, stuck := false, muted := false,
    driven := true, observed := true }

def Pse.reset : Pse := { service := [], engine := .idle, drops := 0 }

def Ros.reset : Ros := { roster := List.replicate 62 ⟨.absent, none⟩, clock := 0, timeTimer := 0 }

def PlayRequest.empty : PlayRequest :=
  { coil := .unknown, quantity := 0, a := 0, b := 0, step := 0, depth := 0, length := 0, bound := 0, points := 0,
    copy := .unknown }

def Walk.empty : Walk := { depth := 0, places := [], expanded := 0, truncated := false, dropped := 0 }

def Req.reset : Req :=
  { engine := .idle, play := .empty, refusal := none, acceptDue := false, aborting := false, depths := [], plan := none,
    issue := [], fetches := List.replicate 16 ⟨0, none⟩, lastGiven := 15, localOrder := [], localEval := .idle,
    emitDepth := 0, emitIndex := 0, counts := [0, 0, 0, 0, 0], queries := List.replicate 8 ⟨0, none⟩, walk := .empty,
    collector := { gen := 0, state := .idle, tries := 0, quiet := 0, overall := 0, parts := [] }, listing := [],
    emitted := 0 }

def Con.reset : Con := { assembler := none, complete := none, overrun := none, out := [] }

/-- After power-on: the supply has risen above the operating threshold, the settle count runs, and the retention mark is
clear (R177, R182). -/
def Sup.reset : Sup :=
  { part := .settling, monitor := .above, resetPin := false, retention := false, checksum := 0, coldStart := true,
    fault := none, faultCount := 0, markBad := false, markService := false, markLf := false }

/-- The machine right after reset: power-on, in the settle count, with every field at the value a cold start gives it
(R1, R33, R59, R94, R117, R124, R176). -/
def State.reset : State :=
  { settings := .unloaded, smp := .reset, tsc := .reset, lfr := .reset, ctr := .reset, lch := .reset, bus := .reset,
    pse := .reset, ros := .reset, req := .reset, con := .reset, sup := .reset, freeSeq := 0, pending := [] }

end Sys2Proof.Machine
end

