-- ==== Sys2Proof/Machine/Flags.lean ====
section
/-! DEFINITION. Flags, counts and the rounding rule: bin flags, saturating counts, the fault record and its first-of-kind
marks (R176). -/

namespace Sys2Proof.Machine

/-- No bin flag. -/
def BinFlags.none : BinFlags := ⟨false, false, false, false⟩

/-- A saturating count (1.6): stops at `top`. -/
def satSucc (top n : Nat) : Nat := if n < top then n + 1 else n

/-- Rounded half away from zero (1.6, R15, R114). -/
def roundDiv (sum : Int) (n : Nat) : Int :=
  if 0 ≤ sum then ((2 * sum.toNat + n) / (2 * n) : Nat) else -(((2 * sum.natAbs + n) / (2 * n) : Nat) : Int)

/-- Least and greatest value widened by one more value (R12). -/
def widen (v : Int) : Option (Int × Int) → Option (Int × Int)
  | .none => some (v, v)
  | some (lo, hi) => some (min lo v, max hi v)

/-- The part runs (R1, R36, R79): RUN or RUN-DEGRADED. -/
def PartState.running : PartState → Bool
  | .run | .runDegraded => true
  | _ => false

/-- The part state is one in which the console link runs (R170). -/
def PartState.linkRuns : PartState → Bool
  | .loading | .checking | .configFault | .run | .runDegraded => true
  | _ => false

def State.running (s : State) : Bool := s.sup.part.running

/-- The part takes pulses, line feed bytes and bus bits: it runs, and its external reset input is not held (R1, R36, R79, R177). -/
def State.receives (s : State) : Bool := s.running && !s.sup.resetPin

/-- The part takes console bytes: the link runs, and the external reset input is not held (R170, R177). -/
def State.linkRuns (s : State) : Bool := s.sup.part.linkRuns && !s.sup.resetPin

/-- A write of the fault record (R176): the whole record is replaced and the count rises, stopping at 65,535. The time is the
plant clock at the write. -/
def State.writeFault (kind : FaultKind) (block : Block) (coil : Option Coil) (odometer : Option Nat) (s : State) : State :=
  { s with sup := { s.sup with
      fault := some { kind, block, coil, odometer, time := s.ros.clock }
      faultCount := satSucc Config.max16 s.sup.faultCount } }

/-- BAD-FRAME with its first-of-kind mark (R84, R176). -/
def State.markBadFrame (s : State) : State :=
  if s.sup.markBad then s
  else
    let t := s.writeFault .badFrame .bus .none .none
    { t with sup := { t.sup with markBad := true } }

/-- SERVICE-DROP with its first-of-kind mark (R102, R176). -/
def State.markServiceDrop (coil : Coil) (s : State) : State :=
  if s.sup.markService then s
  else
    let t := s.writeFault .serviceDrop .pse (some coil) .none
    { t with sup := { t.sup with markService := true } }

/-- LF-CHECK with its first-of-kind mark (R36, R176). -/
def State.markLfCheck (s : State) : State :=
  if s.sup.markLf then s
  else
    let t := s.writeFault .lfCheck .lfr .none .none
    { t with sup := { t.sup with markLf := true } }

/-- An emptied fault record: count 0, marks cleared (R175, R176, R178, R179). -/
def Sup.clearFaults (u : Sup) : Sup :=
  { u with fault := .none, faultCount := 0, markBad := false, markService := false, markLf := false }

/-- Class of a kind (R95, 12.2). -/
def FrameKind.cls : FrameKind → Nat
  | .time => 0
  | .lineageReply | .sampleReply | .descentReply => 1
  | .lineageQuery | .sampleFetch | .descentQuery => 2
  | .coilAnnounce => 3
  | .presence => 4

/-- Kind code of a frame (12.2). -/
def FrameKind.code : FrameKind → Nat
  | .time => 1
  | .lineageReply => 2
  | .sampleReply => 3
  | .descentReply => 4
  | .lineageQuery => 5
  | .sampleFetch => 6
  | .descentQuery => 7
  | .coilAnnounce => 8
  | .presence => 9

/-- The kind a class and a kind code name together; none when the code is not one of the nine or the class is not the
class of its kind (R95). -/
def FrameKind.ofCode (cls kind : Nat) : Option FrameKind :=
  [FrameKind.time, .lineageReply, .sampleReply, .descentReply, .lineageQuery, .sampleFetch, .descentQuery, .coilAnnounce,
    .presence].find? fun k => k.code == kind && k.cls == cls

/-- A station number of the bus: 1 to 62 (1.4). -/
def busStation (st : BitVec 6) : Bool := st != 0 && st != 63

end Sys2Proof.Machine
end

