-- ==== Sys2Proof/Machine/Operands.lean ====
section
/-! DEFINITION. What the links carry (chapter 12): numbers and coil fields as bytes, CRC-16, frames as bits with complement
bits, the payloads of the nine kinds with the checks of R99, line feed records with the checks of R36, console requests with
the checks of R172, and the response records as bytes. -/

namespace Sys2Proof.Machine

/-! ### Common encodings (R183) -/

/-- `n` bytes of a number, most significant first. -/
def beBytes : Nat → Nat → List Byte
  | 0, _ => []
  | n + 1, v => BitVec.ofNat 8 (v / 256 ^ n) :: beBytes n v

/-- The number some bytes spell, most significant first. -/
def beNat (bs : List Byte) : Nat := bs.foldl (fun a b => a * 256 + b.toNat) 0

/-- The number in the `n` bytes at offset `off`. -/
def field (bs : List Byte) (off n : Nat) : Nat := beNat ((bs.drop off).take n)

/-- 16-bit two's complement of a value. -/
def signedBytes (v : Int) : List Byte := beBytes 2 (BitVec.ofInt 16 v).toNat

/-- The 16-bit two's complement value at offset `off`. -/
def signedField (bs : List Byte) (off : Nat) : Int := (BitVec.ofNat 16 (field bs off 2)).toInt

/-- A coil field; `high` is the value of bits 7 and 6 of byte 0. -/
def coilBytes (high : Nat) (c : Coil) : List Byte :=
  BitVec.ofNat 8 (high * 64 + c.station.toNat) :: beBytes 4 c.seq.toNat

/-- The coil of the 5 bytes at offset `off`, without bits 7 and 6 of byte 0. -/
def coilAt (bs : List Byte) (off : Nat) : Coil :=
  ⟨BitVec.ofNat 6 (field bs off 1 % 64), BitVec.ofNat 32 (field bs (off + 1) 4)⟩

/-- Bits 7 and 6 of the byte at offset `off`. -/
def highBits (bs : List Byte) (off : Nat) : Nat := field bs off 1 / 64

/-- Bits of a byte, most significant first. -/
def byteBits (b : Byte) : List Bool :=
  [b.getLsbD 7, b.getLsbD 6, b.getLsbD 5, b.getLsbD 4, b.getLsbD 3, b.getLsbD 2, b.getLsbD 1, b.getLsbD 0]

/-- The `n` low bits of a number, most significant first. -/
def natBits : Nat → Nat → List Bool
  | 0, _ => []
  | n + 1, v => decide (v / 2 ^ n % 2 = 1) :: natBits n v

/-- The number some bits spell, most significant first. -/
def bitsNat (bs : List Bool) : Nat := bs.foldl (fun a b => a * 2 + b.toNat) 0

def bitOf (b : Bool) (weight : Nat) : Nat := if b then weight else 0

/-- Bit `n` of a number. -/
def bitSet (v n : Nat) : Bool := decide (v / 2 ^ n % 2 = 1)

/-! ### CRC-16 (R83) -/

/-- One bit into the remainder: shift toward the most significant end, add 1021H when the bit shifted out differs. -/
def crcBit (r : BitVec 16) (b : Bool) : BitVec 16 :=
  if r.msb != b then (r <<< 1) ^^^ 0x1021#16 else r <<< 1

def crcBits (bs : List Bool) : BitVec 16 := bs.foldl crcBit 0xFFFF#16

/-- The CRC over bytes, each taken most significant bit first (11.1, 12.5). -/
def crcBytes (bs : List Byte) : BitVec 16 := crcBits (bs.flatMap byteBits)

/-! ### Frames as bits (R81 to R84, 12.2) -/

/-- The frame bits from the first class bit to the last payload bit. -/
def frameBody (cls source kind dest tag : Nat) (payload : List Byte) : List Bool :=
  natBits 3 cls ++ natBits 6 source ++ natBits 4 kind ++ natBits 6 dest ++ natBits 8 tag ++ natBits 8 payload.length ++
    payload.flatMap byteBits

/-- Complement bits after every run of 7 equal bits, counting inserted bits (R81). `run` bits equal to `last` stand before. -/
def stuff (last : Bool) (run : Nat) : List Bool → List Bool
  | [] => []
  | b :: bs =>
    let n := if b = last then run + 1 else 1
    if n = 7 then b :: (!b) :: stuff (!b) 1 bs else b :: stuff b n bs

/-- The line bits of a frame: start bit, stuffed region to the end of the CRC, end field of eight 1s (R81, R82). -/
def lineBits (cls source kind dest tag : Nat) (payload : List Byte) : List Bool :=
  let body := frameBody cls source kind dest tag payload
  stuff true 0 (false :: (body ++ natBits 16 (crcBits body).toNat)) ++ List.replicate 8 true

/-- A frame as the receiver takes it, its fields read (R82). -/
structure RxFrame where
  cls     : Nat
  source  : BitVec 6
  kind    : Nat
  dest    : BitVec 6
  tag     : Byte
  payload : List Byte
deriving DecidableEq, Repr

/-- What a run of observed bits is to the receiver (R84). -/
inductive Verdict where
  | bad
  | incomplete
  | good (f : RxFrame)
deriving DecidableEq, Repr

/-- Outcome of taking frame bits out of the stuffed region: a stuffing violation, too few bits, or the bits taken with the
run they end in and what follows. -/
inductive Taken where
  | violation
  | short
  | got (bits : List Bool) (last : Bool) (run : Nat) (rest : List Bool)
deriving DecidableEq, Repr

/-- Take `need` frame bits, removing the complement bit after each run of 7 (R81). -/
def takeFrameBits (need : Nat) (last : Bool) (run : Nat) (acc : List Bool) : List Bool → Taken
  | [] => if need = 0 then .got acc.reverse last run [] else .short
  | b :: bs =>
    if need = 0 then .got acc.reverse last run (b :: bs)
    else if run = 7 then
      if b = last then .violation else takeFrameBits need b 1 acc bs
    else takeFrameBits (need - 1) b (if b = last then run + 1 else 1) (b :: acc) bs

/-- The complement bit that follows a run of 7 ending with the last CRC bit (R81). -/
def dropComplement (last : Bool) (run : Nat) : List Bool → Taken
  | [] => if run = 7 then .short else .got [] last run []
  | b :: bs => if run = 7 then (if b = last then .violation else .got [] b 1 bs) else .got [] last run (b :: bs)

/-- Bytes of a run of bits, eight at a time. -/
def bitsBytes : Nat → List Bool → List Byte
  | 0, _ => []
  | n + 1, bs => BitVec.ofNat 8 (bitsNat (bs.take 8)) :: bitsBytes n (bs.drop 8)

/-- The end field: eight 1s, a 0 among them is an error (R84). -/
def judgeEnd (f : RxFrame) (rest : List Bool) : Verdict :=
  if (rest.take 8).any (!·) then .bad else if rest.length < 8 then .incomplete else .good f

/-- The receiver's judgement of the bits observed from a start bit on (R81 to R84). -/
def judge (bits : List Bool) : Verdict :=
  match takeFrameBits 36 true 0 [] bits with
  | .violation => .bad
  | .short => .incomplete
  | .got head last run rest =>
    let n := bitsNat ((head.drop 28).take 8)
    if Config.payloadCap < n then .bad
    else
      match takeFrameBits (8 * n + 16) last run [] rest with
      | .violation => .bad
      | .short => .incomplete
      | .got body last run rest =>
        if bitsNat (body.drop (8 * n)) ≠ (crcBits (head.drop 1 ++ body.take (8 * n))).toNat then .bad
        else
          match dropComplement last run rest with
          | .violation => .bad
          | .short => .incomplete
          | .got _ _ _ rest =>
            judgeEnd
              { cls := bitsNat ((head.drop 1).take 3), source := BitVec.ofNat 6 (bitsNat ((head.drop 4).take 6)),
                kind := bitsNat ((head.drop 10).take 4), dest := BitVec.ofNat 6 (bitsNat ((head.drop 14).take 6)),
                tag := BitVec.ofNat 8 (bitsNat ((head.drop 20).take 8)), payload := bitsBytes n body } rest

/-! ### Tags (R100) -/

def makeTag (unit slot gen : Nat) : Byte := BitVec.ofNat 8 (unit * 64 + slot * 4 + gen)

def tagUnit (t : Byte) : Nat := t.toNat / 64
def tagSlot (t : Byte) : Nat := t.toNat / 4 % 16
def tagGen (t : Byte) : BitVec 2 := BitVec.ofNat 2 (t.toNat % 4)

/-! ### Lineage records (12.4, R184) -/

def pieceBytes (p : Piece) : List Byte :=
  beBytes 4 p.n1 ++ coilBytes 0 p.source ++ beBytes 4 p.sLo ++ beBytes 4 p.sHi ++
    [BitVec.ofNat 8 (bitOf p.reversed 1 + bitOf p.unscaled 2 + bitOf p.broken 4 + bitOf p.merged 8)]

/-- The lane byte: lane − 1, lane count − 1, TIMED-OUT. -/
def laneByte (lane lanes : Nat) (timedOut : Bool) : Byte :=
  BitVec.ofNat 8 ((lane - 1) % 8 + (lanes - 1) % 8 * 8 + bitOf timedOut 64)

/-- A lineage record as a payload; `high` is the status in bits 7 and 6 of byte 0 of a LINEAGE-REPLY. -/
def recordBytes (high : Nat) (r : LineageRec) : List Byte :=
  coilBytes high r.coil ++ beBytes 6 r.close ++ beBytes 4 r.stop ++ [laneByte r.lane r.lanes r.timedOut] ++
    r.pieces.flatMap pieceBytes

/-- The piece in the 18 bytes at `off`, its own start given by the piece before (R184); none when an undefined bit is set. -/
def pieceAt (bs : List Byte) (off n0 : Nat) : Option Piece :=
  let flags := field bs (off + 17) 1
  if highBits bs (off + 4) ≠ 0 ∨ 16 ≤ flags then none
  else some { n0, n1 := field bs off 4, source := coilAt bs (off + 4), sLo := field bs (off + 9) 4,
              sHi := field bs (off + 13) 4, reversed := bitSet flags 0, unscaled := bitSet flags 1, broken := bitSet flags 2,
              merged := bitSet flags 3 }

def piecesAt (bs : List Byte) : Nat → Nat → Nat → Option (List Piece)
  | 0, _, _ => some []
  | k + 1, off, n0 => do
    let p ← pieceAt bs off n0
    let ps ← piecesAt bs k (off + 18) p.n1
    return p :: ps

/-- The own end of the last piece: the length L (R184). -/
def lastEnd (ps : List Piece) : Nat := (ps.getLast?.map (·.n1)).getD 0

/-- A lineage record from its bytes (R184), bits 7 and 6 of byte 0 apart; none where R99 fails. -/
def parseRecord (bs : List Byte) : Option LineageRec :=
  let k := (bs.length - 16) / 18
  let lanes := field bs 15 1
  if bs.length ≠ 16 + 18 * k ∨ k < 1 ∨ 8 < k ∨ 128 ≤ lanes then none
  else do
    let ps ← piecesAt bs k 16 0
    return { coil := coilAt bs 0, length := lastEnd ps, close := field bs 5 6, stop := field bs 11 4, lane := lanes % 8 + 1,
             lanes := lanes / 8 % 8 + 1, timedOut := bitSet lanes 6, pieces := ps }

/-! ### Payloads with the checks of R99 (12.3) -/

def parseTime (bs : List Byte) : Option Nat := if bs.length = 6 then some (beNat bs) else none

/-- The coil of a LINEAGE-QUERY or DESCENT-QUERY. -/
def parseCoil (bs : List Byte) : Option Coil :=
  if bs.length = 5 ∧ highBits bs 0 = 0 then some (coilAt bs 0) else none

/-- A fetch: coil, quantity code, from, to, count. -/
structure Fetch where
  coil     : Coil
  quantity : Nat
  posFrom  : Nat
  posTo    : Nat
  count    : Nat
deriving DecidableEq, Repr

def parseFetch (bs : List Byte) : Option Fetch :=
  if bs.length = 15 ∧ highBits bs 0 = 0 then
    some { coil := coilAt bs 0, quantity := field bs 5 1, posFrom := field bs 6 4, posTo := field bs 10 4,
           count := field bs 14 1 }
  else none

def fetchBytes (f : Fetch) : List Byte :=
  coilBytes 0 f.coil ++ beBytes 1 f.quantity ++ beBytes 4 f.posFrom ++ beBytes 4 f.posTo ++ beBytes 1 f.count

/-- A LINEAGE-REPLY (R105). -/
inductive LineageAnswer where
  | record (r : LineageRec)
  | pending (coil : Coil) (length close : Nat)
  | unknown (coil : Coil)
  | notMine (coil : Coil)
deriving DecidableEq, Repr

def lineageAnswerBytes : LineageAnswer → List Byte
  | .record r => recordBytes 0 r
  | .pending c len close => coilBytes 1 c ++ beBytes 4 len ++ beBytes 6 close
  | .unknown c => coilBytes 2 c
  | .notMine c => coilBytes 3 c

def parseLineageAnswer (bs : List Byte) : Option LineageAnswer :=
  match highBits bs 0 with
  | 0 => (parseRecord bs).map .record
  | 1 => if bs.length = 15 then some (.pending (coilAt bs 0) (field bs 5 4) (field bs 9 6)) else none
  | 2 => if bs.length = 5 then some (.unknown (coilAt bs 0)) else none
  | _ => if bs.length = 5 then some (.notMine (coilAt bs 0)) else none

def FetchStatus.code : FetchStatus → Nat
  | .data => 0
  | .unknown => 1
  | .notMine => 2
  | .noQuantity => 3
  | .storeFault => 4
  | .badRequest => 5

/-- A SAMPLE-REPLY, and the result of an evaluation (R115). -/
structure FetchResult where
  status  : FetchStatus
  clamped : Bool
  points  : List Point
deriving DecidableEq, Repr

def binFlagsByte (f : BinFlags) : Nat := bitOf f.held 1 + bitOf f.void 2 + bitOf f.stop 4 + bitOf f.sat 8

def pointBytes (p : Point) : List Byte :=
  signedBytes p.mean ++ signedBytes p.least ++ signedBytes p.most ++ beBytes 1 (binFlagsByte p.flags) ++
    beBytes 1 (bitOf p.sparse 1 + bitOf p.partly 2 + bitOf p.expired 4)

def fetchResultBytes (r : FetchResult) : List Byte :=
  beBytes 1 (r.status.code * 32 + bitOf r.clamped 16 + r.points.length) ++ r.points.flatMap pointBytes

def pointAt (bs : List Byte) (off : Nat) : Option Point :=
  let bf := field bs (off + 6) 1
  let pf := field bs (off + 7) 1
  if 16 ≤ bf ∨ 8 ≤ pf then none
  else some { mean := signedField bs off, least := signedField bs (off + 2), most := signedField bs (off + 4),
              flags := ⟨bitSet bf 0, bitSet bf 1, bitSet bf 2, bitSet bf 3⟩, sparse := bitSet pf 0, partly := bitSet pf 1,
              expired := bitSet pf 2 }

def pointsAt (bs : List Byte) : Nat → Nat → Option (List Point)
  | 0, _ => some []
  | k + 1, off => do
    let p ← pointAt bs off
    let ps ← pointsAt bs k (off + 8)
    return p :: ps

def parseFetchResult (bs : List Byte) : Option FetchResult :=
  let head := field bs 0 1
  let count := head % 16
  if bs.length ≠ 1 + 8 * count then none
  else do
    let status ← [FetchStatus.data, .unknown, .notMine, .noQuantity, .storeFault, .badRequest][head / 32]?
    if status = .data ∧ (count < 1 ∨ Config.groupCap < count) ∨ status ≠ .data ∧ count ≠ 0 then none
    let ps ← pointsAt bs count 1
    return { status, clamped := bitSet head 4, points := ps }

/-- A child of a DESCENT-REPLY (R106). -/
structure Child where
  coil    : Coil
  lane    : Nat
  pending : Bool
  length  : Nat
deriving DecidableEq, Repr

/-- One part of a DESCENT-REPLY (R107). -/
structure DescentPart where
  more     : Bool
  index    : Nat
  children : List Child
deriving DecidableEq, Repr

def childBytes (c : Child) : List Byte :=
  coilBytes 0 c.coil ++ beBytes 1 ((c.lane - 1) % 8 + bitOf c.pending 128) ++ beBytes 4 c.length

def descentPartBytes (p : DescentPart) : List Byte :=
  beBytes 1 (bitOf p.more 128 + p.index % 128) ++ p.children.flatMap childBytes

def childAt (bs : List Byte) (off : Nat) : Option Child :=
  let b := field bs (off + 5) 1
  if highBits bs off ≠ 0 ∨ b % 128 / 8 ≠ 0 then none
  else some { coil := coilAt bs off, lane := b % 8 + 1, pending := bitSet b 7, length := field bs (off + 6) 4 }

def childrenAt (bs : List Byte) : Nat → Nat → Option (List Child)
  | 0, _ => some []
  | k + 1, off => do
    let c ← childAt bs off
    let cs ← childrenAt bs k (off + 10)
    return c :: cs

def parseDescentPart (bs : List Byte) : Option DescentPart :=
  let m := (bs.length - 1) / 10
  if bs.length ≠ 1 + 10 * m ∨ m < 1 ∨ Config.childCap < m then none
  else do
    let cs ← childrenAt bs m 1
    return { more := bitSet (field bs 0 1) 7, index := field bs 0 1 % 128, children := cs }

/-- A PRESENCE (R122). -/
structure Presence where
  answer : Bool
  cold   : Bool
  fault  : Bool
  codes  : List Byte
deriving DecidableEq, Repr

def presenceBytes (p : Presence) : List Byte :=
  beBytes 1 (bitOf p.answer 1 + bitOf p.cold 2 + bitOf p.fault 4) ++ p.codes

def parsePresence (bs : List Byte) : Option Presence :=
  let head := field bs 0 1
  if bs.length < 1 ∨ 33 < bs.length ∨ 8 ≤ head then none
  else some { answer := bitSet head 0, cold := bitSet head 1, fault := bitSet head 2, codes := bs.drop 1 }

/-! ### Line feed records (R36, 12.5) -/

/-- A line feed record with its fields read. -/
inductive LfRecord where
  | sampleSet (entries : List SampleEntry)
  | declare (coil : Coil) (headFirst resumed : Bool) (declared : BitVec 32) (offset : Option (BitVec 32))
  | join (thread : Bool) (position : Option (BitVec 48))
  | tailOut (position : Option (BitVec 48))
  | stripBreak (position : Option (BitVec 48))
  | cut (scrap : Bool) (sequence : BitVec 32) (lanes : Byte) (position : Option (BitVec 48))
deriving DecidableEq, Repr

/-- The range checks of R36 on a record's fields. -/
def LfRecord.inRange : LfRecord → Bool
  | .sampleSet es => decide (1 ≤ es.length ∧ es.length ≤ 32) && es.all fun e => decide (e.channel.toNat ≤ 31)
  | .declare _ _ resumed _ offset => resumed == offset.isSome
  | .cut _ _ lanes _ => decide (1 ≤ lanes.toNat ∧ lanes.toNat ≤ 8)
  | _ => true

def sampleEntries (bs : List Byte) : Nat → Nat → List SampleEntry
  | 0, _ => []
  | k + 1, off => ⟨BitVec.ofNat 8 (field bs off 1), BitVec.ofNat 16 (field bs (off + 1) 2)⟩ :: sampleEntries bs k (off + 3)

/-- The optional 6-byte position at `off`, present by the payload length (R183). -/
def lfPosition (bs : List Byte) (off : Nat) : Option (BitVec 48) :=
  if off < bs.length then some (BitVec.ofNat 48 (field bs off 6)) else none

/-- The payload of a line feed record by kind; none where the length fits no form or a named byte has another value. -/
def parseLfPayload (kind : Nat) (p : List Byte) : Option LfRecord :=
  match kind with
  | 1 => if p.length % 3 = 0 ∧ 3 ≤ p.length ∧ p.length ≤ 96 then some (.sampleSet (sampleEntries p (p.length / 3) 0)) else none
  | 2 =>
    let flags := field p 5 1
    if (p.length = 10 ∨ p.length = 14) ∧ highBits p 0 = 0 ∧ flags < 4 then
      some (.declare (coilAt p 0) (bitSet flags 0) (bitSet flags 1) (BitVec.ofNat 32 (field p 6 4))
        (if p.length = 14 then some (BitVec.ofNat 32 (field p 10 4)) else none))
    else none
  | 3 => if (p.length = 1 ∨ p.length = 7) ∧ field p 0 1 < 2 then some (.join (field p 0 1 == 1) (lfPosition p 1)) else none
  | 4 => if p.length = 0 ∨ p.length = 6 then some (.tailOut (lfPosition p 0)) else none
  | 5 => if p.length = 0 ∨ p.length = 6 then some (.stripBreak (lfPosition p 0)) else none
  | 6 =>
    if (p.length = 6 ∨ p.length = 12) ∧ field p 0 1 < 2 then
      some (.cut (field p 0 1 == 1) (BitVec.ofNat 32 (field p 1 4)) (BitVec.ofNat 8 (field p 5 1)) (lfPosition p 6))
    else none
  | _ => none

/-- A line feed record from the bytes after its start byte: length, kind, payload, CRC; none where a check of R36 fails. -/
def parseLf (bs : List Byte) : Option LfRecord :=
  let n := field bs 0 1
  if bs.length ≠ n + 4 ∨ field bs (n + 2) 2 ≠ (crcBytes (bs.take (n + 2))).toNat then none
  else (parseLfPayload (field bs 1 1) ((bs.drop 2).take n)).filter LfRecord.inRange

/-! ### Console requests (R170, R172, 12.6) -/

def Request.kind : Request → Byte
  | .playback .. => 0x01
  | .genealogy .. => 0x02
  | .coilList .. => 0x03
  | .status => 0x04
  | .abort => 0x05
  | .clearFault => 0x06
  | .setTime .. => 0x07

/-- The range checks of R172 row 2 on a request's fields. -/
def Request.inRange : Request → Bool
  | .playback _ _ _ _ step depth => decide (1 ≤ step ∧ step ≤ 1000000 ∧ depth ≤ 4)
  | .genealogy _ _ depth => decide (1 ≤ depth ∧ depth ≤ 8)
  | .coilList (.last n) _ => decide (1 ≤ n.toNat ∧ n.toNat ≤ 1024)
  | .setTime clock => decide (clock ≤ Config.max48)
  | _ => true

/-- The payload of a request by kind; none where the length, a field's value or an undefined bit makes it malformed. -/
def parseRequest (kind : Nat) (p : List Byte) : Option Request :=
  match kind with
  | 1 =>
    if p.length = 19 ∧ highBits p 0 = 0 then
      some (.playback (coilAt p 0) (field p 5 1) (field p 6 4) (field p 10 4) (field p 14 4) (field p 18 1))
    else none
  | 2 => if p.length = 7 ∧ highBits p 0 = 0 ∧ field p 5 1 < 2 then
      some (.genealogy (coilAt p 0) (field p 5 1 == 0) (field p 6 1)) else none
  | 3 =>
    let mode := field p 0 1
    if 4 ≤ mode then none
    else if mode % 2 = 0 then
      if p.length = 13 then
        some (.coilList (.window (BitVec.ofNat 48 (field p 1 6)) (BitVec.ofNat 48 (field p 7 6))) (bitSet mode 1))
      else none
    else if p.length = 3 then some (.coilList (.last (BitVec.ofNat 16 (field p 1 2))) (bitSet mode 1)) else none
  | 4 => if p.length = 0 then some .status else none
  | 5 => if p.length = 0 then some .abort else none
  | 6 => if p.length = 0 then some .clearFault else none
  | 7 => if p.length = 6 then some (.setTime (beNat p)) else none
  | _ => none

/-- The kind byte of a record, 00H where it was cut short before its kind byte (R172). -/
def recordKind (bs : List Byte) : Byte := bs.getD 1 0

/-- A request judged by its ranges (R172 row 2). -/
def judgeRequest (kind : Byte) (r : Option Request) : ConRecord :=
  match r.filter Request.inRange with
  | some q => .request q
  | none => .badFormat kind

/-- The payload of a request (R185). -/
def Request.payload : Request → List Byte
  | .playback c quantity a b step depth =>
    coilBytes 0 c ++ beBytes 1 quantity ++ beBytes 4 a ++ beBytes 4 b ++ beBytes 4 step ++ beBytes 1 depth
  | .genealogy c up depth => coilBytes 0 c ++ beBytes 1 (bitOf (!up) 1) ++ beBytes 1 depth
  | .coilList (.window t1 t2) unstamped => beBytes 1 (bitOf unstamped 2) ++ beBytes 6 t1.toNat ++ beBytes 6 t2.toNat
  | .coilList (.last n) unstamped => beBytes 1 (1 + bitOf unstamped 2) ++ beBytes 2 n.toNat
  | .status | .abort | .clearFault => []
  | .setTime clock => beBytes 6 clock

/-- A request record on the link: 3CH, length, kind, payload, CRC (R185). -/
def requestBytes (kind : Byte) (payload : List Byte) : List Byte :=
  let body := BitVec.ofNat 8 payload.length :: kind :: payload
  Config.requestStart :: (body ++ beBytes 2 (crcBytes body).toNat)

/-- The bytes taken after a start byte complete a record (R170): a length above 32, or the last CRC byte. -/
def recordComplete (bs : List Byte) : Bool :=
  decide (1 ≤ bs.length ∧ (Config.requestCap < field bs 0 1 ∨ field bs 0 1 + 4 ≤ bs.length))

/-- A complete console record from the bytes after its start byte; `cut` marks it cut short (R170, R172 rows 1 and 2). A
length above 32 completes the record at once, cut short, so no kind byte has arrived. -/
def judgeConsole (bs : List Byte) (cut : Bool) : ConRecord :=
  let n := field bs 0 1
  if Config.requestCap < n ∧ 1 ≤ bs.length then .cutShort 0
  else if cut ∨ bs.length < n + 4 then .cutShort (recordKind bs)
  else if field bs (n + 2) 2 ≠ (crcBytes (bs.take (n + 2))).toNat then .badCheck (recordKind bs)
  else judgeRequest (recordKind bs) (parseRequest (field bs 1 1) ((bs.drop 2).take n))

/-! ### Response records as bytes (12.6) -/

def Reason.code : Reason → Nat
  | .check => 1
  | .format => 2
  | .overrun => 3
  | .busy => 4
  | .notRunning => 5
  | .notTimeSource => 6
  | .unknownCoil => 7
  | .unreachable => 8
  | .range => 9
  | .tooMany => 10
  | .aborted => 11

def Outcome.code : Outcome → Nat
  | .unknown => 1
  | .origin => 2
  | .pending => 3
  | .overflow => 4
  | .unreachable => 5
  | .ended => 6
  | .noQuantity => 7
  | .storeFault => 8
  | .unanswered => 9

def GenFlag.code : GenFlag → Nat
  | .none => 0
  | .unknown => 1
  | .pending => 2
  | .unreachable => 3
  | .origin => 4

def EndOutcome.code : EndOutcome → Nat
  | .complete => 0
  | .aborted => 1
  | .truncated => 2

def FaultKind.code : FaultKind → Nat
  | .lfCheck => 1
  | .lfOrder => 2
  | .declareOverflow => 3
  | .entryEvict => 4
  | .exitEvict => 5
  | .renumber => 6
  | .badFrame => 7
  | .busCollision => 8
  | .txWait => 9
  | .busStuck => 10
  | .duplicateStation => 11
  | .serviceDrop => 12
  | .storeFault => 13
  | .flushDrop => 14
  | .config => 15
  | .supplyLow => 16

def Block.code : Block → Nat
  | .lfr => 1
  | .smp => 2
  | .tsc => 3
  | .ctr => 4
  | .lch => 5
  | .bus => 6
  | .pse => 7
  | .ros => 8
  | .req => 9
  | .con => 10
  | .sup => 11

def PartState.code : PartState → Nat
  | .loading => 1
  | .checking => 2
  | .configFault => 3
  | .run => 4
  | .runDegraded => 5
  | _ => 0

def RosterState.code : RosterState → Nat
  | .absent => 0
  | .present => 1
  | .degraded => 2
  | .silent => 3
  | .self => 4

/-- The 20 bytes of the fault record (R185); the bytes of an absent coil or odometer, and those after kind 0 of an empty record,
are 0 (assumption 48). -/
def faultBytes : Option FaultRec → List Byte
  | none => beBytes 20 0
  | some f =>
    beBytes 1 f.kind.code ++ beBytes 1 f.block.code ++ beBytes 1 (bitOf f.coil.isSome 1 + bitOf f.odometer.isSome 2) ++
      coilBytes 0 (f.coil.getD .unknown) ++ beBytes 6 (f.odometer.getD 0) ++ beBytes 6 f.time

def rosterBytes (e : RosterEntry) : List Byte :=
  beBytes 1 e.state.code ++
    (if e.state = .self then beBytes 1 0
     else match e.codes with
      | none => beBytes 1 0xFF
      | some cs => beBytes 1 cs.length ++ cs)

def channelBytes (c : ChannelReport) : List Byte :=
  beBytes 1 c.index ++ beBytes 1 c.quantity ++ beBytes 1 c.stepCode ++ beBytes 6 c.openBin ++ beBytes 6 c.horizon

def statusBytes (r : StatusReport) : List Byte :=
  beBytes 1 r.part.code ++ beBytes 1 r.station.toNat ++
    beBytes 1 (bitOf r.muted 1 + bitOf r.stuck 2 + bitOf r.driven 4 + bitOf r.observed 8 + bitOf r.standstill 16 +
      bitOf r.storeFault 32) ++
    beBytes 6 r.odometer ++ beBytes 1 r.fraction ++ beBytes 3 r.debt ++ beBytes 6 r.clock ++ beBytes 2 r.badFrames ++
    beBytes 2 r.collisions ++ beBytes 2 r.serviceDrops ++ beBytes 2 r.lfErrors ++ beBytes 2 r.faultCount ++
    faultBytes r.fault ++ beBytes 1 r.channels.length ++ r.channels.flatMap channelBytes ++ r.roster.flatMap rosterBytes

def pieceFlagByte (p : Piece) : Nat :=
  bitOf p.reversed 1 + bitOf p.unscaled 2 + bitOf p.broken 4 + bitOf p.merged 8

def tracePointFlags (r : Result) : Nat :=
  bitOf r.sparse 1 + bitOf r.partly 2 + bitOf r.expired 4 + bitOf r.clamped 8 + bitOf r.split 16 + bitOf r.unscaled 32 +
    bitOf r.broken 64 + ((r.outcome.map Outcome.code).getD 0) * 256

/-- The payload of a GEN-ENTRY (R185); the bytes of an absent link are 0 (assumption 47). -/
def genEntryBytes (e : GenEntry) : List Byte :=
  beBytes 1 e.depth ++ coilBytes 0 e.coil ++ coilBytes 0 e.parent ++
    (match e.link with
     | none => beBytes 17 0
     | some p => beBytes 4 p.n0 ++ beBytes 4 p.n1 ++ beBytes 4 p.sLo ++ beBytes 4 p.sHi ++ beBytes 1 (pieceFlagByte p)) ++
    beBytes 4 e.length ++ beBytes 6 e.close ++ beBytes 4 e.stop ++ beBytes 1 e.lane ++
    beBytes 1 (bitOf e.timedOut 1 + e.flag.code * 16)

/-- Pieces of a FINAL record, overlap entries of a PENDING one (R168). -/
def ExitBody.parts : ExitBody → Nat
  | .pending os _ => os.length
  | .final ps _ => ps.length

def ExitBody.isFinal : ExitBody → Bool
  | .pending .. => false
  | .final .. => true

/-- Kind byte and payload of a response record. -/
def Response.payload : Response → Nat × List Byte
  | .accept p d b c => (0x81, beBytes 2 p ++ beBytes 1 d ++ beBytes 4 b ++ beBytes 1 (bitOf c 1))
  | .refuse k r => (0x82, k :: beBytes 1 r.code)
  | .tracePoint d i r =>
    (0x83, beBytes 1 d ++ beBytes 2 i ++ signedBytes r.mean ++ signedBytes r.least ++ signedBytes r.most ++
      beBytes 1 (binFlagsByte r.flags) ++ beBytes 2 (tracePointFlags r) ++ coilBytes 0 r.source)
  | .traceEnd d w n => (0x84, beBytes 1 d ++ beBytes 2 w ++ beBytes 2 n)
  | .playbackEnd a cs => (0x85, beBytes 1 (bitOf a 1) ++ cs.flatMap (beBytes 2))
  | .genEntry e => (0x86, genEntryBytes e)
  | .genEnd o n d => (0x87, beBytes 1 o.code ++ beBytes 2 n ++ beBytes 2 d)
  | .listEntry r =>
    (0x88, coilBytes 0 r.coil ++ beBytes 1 (bitOf r.body.isFinal 1 + bitOf r.timedOut 2) ++ beBytes 4 (r.oEnd - r.oStart) ++
      beBytes 6 r.close ++ beBytes 4 r.stop ++ [laneByte r.lane r.lanes false] ++ beBytes 1 r.body.parts)
  | .listEnd a n => (0x89, beBytes 1 (bitOf a 1) ++ beBytes 2 n)
  | .statusReport r => (0x8A, statusBytes r)
  | .done k => (0x8B, [k])

/-- A response record on the link: C3H, two-byte length, kind, payload, CRC (R185). -/
def Response.bytes (r : Response) : List Byte :=
  let body := beBytes 2 r.payload.2.length ++ beBytes 1 r.payload.1 ++ r.payload.2
  Config.responseStart :: (body ++ beBytes 2 (crcBytes body).toNat)

end Sys2Proof.Machine
end

