-- ==== Sys2Proof/Machine/Ops.lean ====
section
/-! DEFINITION. The operations several blocks share: channel arithmetic, lookups in the exit table and the lineage cache, the
roster, and the transmit queue. -/

namespace Sys2Proof.Machine

/-! ### Channels (1.3) -/

/-- Step in mm of a step code (1.3). -/
def stepOf (code : Nat) : Nat := [50, 100, 200, 250, 500, 1000, 2000].getD code 5000

def ChannelDef.step (d : ChannelDef) : Nat := stepOf d.stepCode

/-- Open bin of a channel at an odometer (R10). -/
def ChannelDef.openBin (d : ChannelDef) (odometer : Nat) : Nat := odometer / d.step

def Settings.channel (g : Settings) (index : Nat) : Option ChannelDef := g.channels.find? fun d => d.index == index

/-- The enabled channel with a quantity code, of which there is at most one (R108). -/
def Settings.channelOf (g : Settings) (quantity : Nat) : Option ChannelDef :=
  g.channels.find? fun d => d.quantity == quantity

/-! ### Exit records (R49, R58, R61) -/

/-- Length L of an exit record (R49). -/
def ExitRec.length (r : ExitRec) : Nat := r.oEnd - r.oStart

def ExitRec.isFinal (r : ExitRec) : Bool := r.body.isFinal

/-- The lineage record of a FINAL exit record (R61). -/
def ExitRec.lineage (r : ExitRec) : Option LineageRec :=
  match r.body with
  | .pending .. => none
  | .final ps _ =>
    some { coil := r.coil, length := r.length, close := r.close, stop := r.stop, lane := r.lane, lanes := r.lanes,
           timedOut := r.timedOut, pieces := ps }

/-- What an exit record gives a request of this station: its lineage record, or PENDING with its close time (R129, R136). -/
def ExitRec.recState (r : ExitRec) : RecState :=
  match r.lineage with
  | some l => .record l
  | none => .pending r.close

/-- The lookup of R58: the record as it stands. -/
def State.findExit (s : State) (c : Coil) : Option ExitRec := s.ctr.exits.find? fun r => r.coil == c

/-! ### Lineage cache (R72 to R77) -/

/-- A coil number matches a template (R72). -/
def Template.selects (t : Template) (c : Coil) : Bool :=
  t.enable && (c.station &&& t.mask.station == t.base.station &&& t.mask.station) &&
    (c.seq &&& t.mask.seq == t.base.seq &&& t.mask.seq)

/-- Own ranges start at `n0`, meet end to start and ascend; source ranges do not descend (R73). -/
def piecesMeet : Nat → List Piece → Bool
  | _, [] => true
  | n0, p :: ps => p.n0 == n0 && decide (p.n0 < p.n1) && decide (p.sLo ≤ p.sHi) && piecesMeet p.n1 ps

/-- The checks of R73 on a record heard from station `source` at station `own`. -/
def LineageRec.passes (own source : BitVec 6) (r : LineageRec) : Bool :=
  r.coil.station != 0 && r.coil.station != own && r.coil.station == source && decide (0 < r.length) &&
    decide (1 ≤ r.lane ∧ r.lane ≤ r.lanes) && decide (1 ≤ r.pieces.length ∧ r.pieces.length ≤ 8) &&
    piecesMeet 0 r.pieces && lastEnd r.pieces == r.length

/-- Insertion (R76): replaced whole or added at the most recent place, the least recent leaving a full cache. -/
def cacheInsert (cache : List LineageRec) (r : LineageRec) : List LineageRec :=
  (r :: cache.filter fun x => x.coil != r.coil).take Config.cacheCap

/-- Lookup (R77): a hit moves to the most recent place. -/
def cacheTouch (cache : List LineageRec) (c : Coil) : Option (LineageRec × List LineageRec) :=
  (cache.find? fun x => x.coil == c).map fun r => (r, r :: cache.filter fun x => x.coil != c)

/-- R77 on the state: the record found, and the state with the use noted. -/
def State.lookupCache (s : State) (c : Coil) : Option LineageRec × State :=
  match cacheTouch s.lch.cache c with
  | none => (none, s)
  | some (r, cache) => (some r, { s with lch := { s.lch with cache } })

/-- A record is kept where it passes R73 (R74, R75). -/
def State.keepRecord (source : BitVec 6) (r : LineageRec) (s : State) : State :=
  if r.passes s.settings.station source then { s with lch := { s.lch with cache := cacheInsert s.lch.cache r } } else s

/-! ### Roster (R117 to R121) -/

def State.rosterEntry (s : State) (st : BitVec 6) : RosterEntry :=
  (s.ros.roster[st.toNat - 1]?).getD ⟨.absent, none⟩

/-- A change of another station's entry; the SELF entry and stations off the bus stay as they are (R117). -/
def State.updateRoster (st : BitVec 6) (f : RosterEntry → RosterEntry) (s : State) : State :=
  if busStation st && st != s.settings.station then
    { s with ros := { s.ros with roster := s.ros.roster.set (st.toNat - 1) (f (s.rosterEntry st)) } }
  else s

/-- A frame heard that is not a PRESENCE (R118). -/
def RosterEntry.heard (e : RosterEntry) : RosterEntry :=
  match e.state with
  | .absent | .silent => { e with state := .present }
  | _ => e

/-- An exhausted request, every attempt timed out (R120). -/
def State.reportSilent (st : BitVec 6) (s : State) : State := s.updateRoster st fun e => { e with state := .silent }

/-- Attempts allowed for a lineage or length query (R40, R130). -/
def State.attemptsAllowed (s : State) (st : BitVec 6) : Nat :=
  if (s.rosterEntry st).state = .silent then 1 else 1 + s.settings.retryLimit

/-! ### Transmit queue (5.4) -/

def Frame.cls (f : Frame) : Nat := f.kind.cls

/-- The line bits of a frame as station `own` sends it (R81, R82): its class is the class of its kind and its source is the own
station. -/
def Frame.bits (own : BitVec 6) (f : Frame) : List Bool :=
  lineBits f.cls own.toNat f.kind.code f.dest.toNat f.tag.toNat f.payload

/-- A fresh entry (R90). -/
def TxEntry.fresh (f : Frame) (o : Owner) : TxEntry :=
  { frame := f, owner := o, collisions := 0, wait := 0, onLine := false, withdrawn := false }

/-- Place and class of the first entry of lowest class (R90, R91). -/
def lowestClass : List TxEntry → Option (Nat × Nat)
  | [] => none
  | e :: es =>
    match lowestClass es with
    | none => some (0, e.frame.cls)
    | some (j, k) => if k < e.frame.cls then some (j + 1, k) else some (0, e.frame.cls)

/-- The transmitter is allowed to start the frame of `e` (R85); while the reset input is held the line is driven recessive (R177). -/
def State.mayStart (s : State) (e : TxEntry) : Bool :=
  s.receives && !s.bus.stuck && (!s.bus.muted || e.owner == .busFinal)

/-- On an idle line an allowed transmitter drives the start bit of the head frame (R85, R90): the start bit 0 is driven and
observed, and the receiver takes the frame. -/
def State.startHead (s : State) : State :=
  if s.bus.rx = .idle then
    match lowestClass s.bus.queue with
    | none => s
    | some (j, _) =>
      match s.bus.queue[j]? with
      | none => s
      | some e =>
        if s.mayStart e then
          { s with bus := { s.bus with
              queue := s.bus.queue.set j { e with onLine := true }, rx := .receiving, driven := false, observed := false } }
        else s
  else s

/-- A frame joins the queue (R90); on an idle line the head starts (R85). -/
def State.join (f : Frame) (o : Owner) (s : State) : State :=
  State.startHead { s with bus := { s.bus with queue := s.bus.queue ++ [.fresh f o] } }

/-- An owner offers a frame; it waits, and `fillStep` gives it an entry as R91 states. -/
def State.offer (f : Frame) (o : Owner) (s : State) : State :=
  { s with bus := { s.bus with waiting := s.bus.waiting ++ [.fresh f o] } }

/-- Withdrawal of an owner's frames (R93): off the line they leave at once, on the line they are marked, and waiting frames are
given up. -/
def State.withdraw (mine : Owner → Bool) (s : State) : State :=
  { s with bus := { s.bus with
      queue := (s.bus.queue.filter fun e => !mine e.owner || e.onLine).map fun e =>
        if mine e.owner then { e with withdrawn := true } else e
      waiting := s.bus.waiting.filter fun e => !mine e.owner } }

/-- Place of the frame on the line (R85). -/
def onLinePlace (q : List TxEntry) : Option Nat := q.findIdx? (·.onLine)

/-- The bits this station drives for its frame on the line, from the start bit to the end field (R82, R85). -/
def State.lineFrame (s : State) : Option (List Bool) :=
  ((onLinePlace s.bus.queue).bind fun j => s.bus.queue[j]?).map fun e => e.frame.bits s.settings.station

/-- An entry leaves the queue. -/
def State.removeTx (place : Nat) (s : State) : State :=
  { s with bus := { s.bus with queue := s.bus.queue.eraseIdx place } }

def ServiceReq.coil (r : ServiceReq) : Coil := coilAt r.payload 0

end Sys2Proof.Machine
end

