-- ==== Sys2Proof/Machine/Store.lean ====
section
/-! DEFINITION. TSC, the trend store (chapter 2): the page ring as a canonical list of live slots, current pages, the flush queue,
eviction, FLUSH-DROP, and what a page read reports. -/

namespace Sys2Proof.Machine

/-! ### The page ring (R19) -/

/-- Page slots N of a store size code (2.1). -/
def slotCount (code : Nat) : Nat := [262144, 524288].getD code 1048576

/-- Write of one slot: the slot is live with the page; slot numbers stay strictly rising. -/
def ringWrite (slot : Nat) (p : Page) : List (Nat × Page) → List (Nat × Page)
  | [] => [(slot, p)]
  | (t, q) :: r =>
    if slot < t then (slot, p) :: (t, q) :: r
    else if slot = t then (slot, p) :: r
    else (t, q) :: ringWrite slot p r

/-- Slots become free. -/
def ringFree (gone : Nat × Page → Bool) (r : List (Nat × Page)) : List (Nat × Page) := r.filter fun e => !gone e

/-- The page of a live slot, none for a free one. -/
def ringAt (r : List (Nat × Page)) (slot : Nat) : Option Page := (r.find? fun e => e.1 == slot).map (·.2)

/-- The canonical form of the ring: slot numbers strictly rising. -/
def ringWf : List (Nat × Page) → Bool
  | [] => true
  | [_] => true
  | e :: f :: r => decide (e.1 < f.1) && ringWf (f :: r)

/-- The content of every slot lost or overwritten while its slot state is kept (R29, R35). -/
def Page.blank (p : Page) : Page := { p with bins := [] }

/-! ### Channels of the store -/

def Tsc.updateChan (i : Nat) (f : TscChan → TscChan) (t : Tsc) : Tsc :=
  { t with chans := t.chans.map fun c => if c.index = i then f c else c }

def Tsc.chan (t : Tsc) (i : Nat) : Option TscChan := t.chans.find? fun c => c.index == i

/-- The current page of a channel that holds no bin: the page of the open bin, fill 0 (R24, R32, R35). -/
def emptyPage (i openBin : Nat) : Page := { chan := i, no := openBin / 64, first := openBin, bins := [] }

/-- The page after page `j` completes: fill 0 (R22). -/
def pageAfter (i j : Nat) : Page := { chan := i, no := j + 1, first := 64 * (j + 1), bins := [] }

/-- A channel without held bins: empty directory, horizon and current page at the open bin (R21). -/
def TscChan.fresh (i openBin : Nat) : TscChan :=
  { index := i, dir := [], horizon := openBin, cur := emptyPage i openBin }

/-- FLUSH-DROP of channel `i` with the open bin the advance establishes (R24). -/
def flushDrop (i openBin : Nat) (s : State) : State :=
  let t := s.tsc
  let cancel : Transfer → Transfer
    | .write p c => .write p (c || p.chan == i)
    | r => r
  let t := { t with ring := ringFree (fun e => e.2.chan == i) t.ring, flush := t.flush.filter (fun p => p.chan != i),
                    transfer := t.transfer.map cancel }
  { s with tsc := t.updateChan i fun _ => .fresh i openBin }.writeFault .flushDrop .tsc none (some s.smp.odometer)

/-- TSC takes closed bin `k` of channel `i` (R22 to R24); `openBin` is the open bin after the advance. -/
def takeBin (i openBin k : Nat) (b : Bin) (s : State) : State :=
  if s.sup.part = .runDegraded then s
  else
    match s.tsc.chan i with
    | none => s
    | some c =>
      if k < c.horizon then s
      else
        let page := { c.cur with bins := c.cur.bins ++ [b] }
        if k % 64 = 63 then
          if s.tsc.flush.length < Config.flushCap then
            let t := s.tsc.updateChan i fun c => { c with cur := pageAfter i (k / 64) }
            { s with tsc := { t with flush := s.tsc.flush ++ [page] } }
          else flushDrop i openBin s
        else { s with tsc := s.tsc.updateChan i fun c => { c with cur := page } }

/-- A channel's store state when its horizon is its open bin (R32). -/
def TscChan.atOpenBin (g : Settings) (odometer : Nat) (c : TscChan) : TscChan :=
  match g.channel c.index with
  | none => c
  | some d => .fresh c.index (d.openBin odometer)

/-- In RUN-DEGRADED each horizon follows its open bin (R32). -/
def followOpenBins (s : State) : State :=
  if s.sup.part = .runDegraded then
    { s with tsc := { s.tsc with chans := s.tsc.chans.map (.atOpenBin s.settings s.smp.odometer) } }
  else s

/-- The store of a start that keeps no page: no live slot, write pointer 0, each enabled channel at its open bin (R33, R35). -/
def Tsc.emptied (g : Settings) (odometer : Nat) (t : Tsc) : Tsc :=
  { t with ring := [], writePtr := 0, flush := [], transfer := none,
           chans := g.channels.map fun d => .fresh d.index (d.openBin odometer) }

/-! ### Flush writes (R26) -/

/-- Eviction at the grant: the live slot at the write pointer gives up its page, its directory entry leaves and the channel's
horizon advances to the next page (R26). -/
def evictAt (slot : Nat) (t : Tsc) : Tsc :=
  match ringAt t.ring slot with
  | none => t
  | some old =>
    { t with ring := ringFree (fun e => e.1 == slot) t.ring }.updateChan old.chan fun c =>
      { c with dir := c.dir.filter (fun e => e.2 != slot), horizon := 64 * (old.no + 1) }

/-- Grant of the flush writer for the page `p` at the head of the flush queue (R25, R26). -/
def grantWrite (p : Page) (t : Tsc) : Tsc := { evictAt t.writePtr t with transfer := some (.write p false) }

/-- The write pointer after a completed write (R19). -/
def nextSlot (code slot : Nat) : Nat := (slot + 1) % slotCount code

/-- Completion of a flush write (R26); one whose page a FLUSH-DROP removed only moves the pointer (R24). -/
def completeWrite (code : Nat) (p : Page) (cancelled : Bool) (t : Tsc) : Tsc :=
  let moved := { t with transfer := none, writePtr := nextSlot code t.writePtr }
  if cancelled then moved
  else
    { moved with ring := ringWrite t.writePtr p t.ring, flush := t.flush.tail }.updateChan p.chan fun c =>
      { c with dir := c.dir ++ [(p.no, t.writePtr)] }

/-! ### Page reads (R27) -/

/-- Where page `j` of a channel stands: current page, flush queue, or ring slot (R27); `true` when it takes a transfer. -/
def pageOf (t : Tsc) (c : TscChan) (j : Nat) : Option (Page × Bool) :=
  if c.cur.no = j then some (c.cur, false)
  else
    match t.flush.find? fun p => p.chan == c.index && p.no == j with
    | some p => some (p, false)
    | none =>
      match c.dir.find? fun e => e.1 == j with
      | none => none
      | some e => (ringAt t.ring e.2).map fun p => (p, true)

/-- The bin of index `k` in a page. -/
def Page.binAt (p : Page) (k : Nat) : Option Bin := if k < p.first then none else p.bins[k - p.first]?

/-- Classification of bin `k` at the grant (R27). -/
def classifyBin (horizon openBin : Nat) (page : Option Page) (k : Nat) : BinClass :=
  if k < horizon then .expired
  else if openBin ≤ k then .unclosed
  else
    match page.bind fun p => p.binAt k with
    | some b => .closed b
    | none => .expired

/-- A read that reports all 64 bins EXPIRED and takes no transfer (R27). -/
def expiredPage : List BinClass × Bool := (List.replicate 64 .expired, false)

/-- The 64 reported bins of page `j` of channel `i` (R27), and whether the read takes a transfer of the memory. In RUN-DEGRADED
and on a channel that is not enabled every bin is EXPIRED (R27, R32). -/
def readPage (s : State) (i j : Nat) : List BinClass × Bool :=
  if s.sup.part = .runDegraded then expiredPage
  else match s.tsc.chan i, s.settings.channel i with
  | some c, some d =>
    let openBin := d.openBin s.smp.odometer
    let src := pageOf s.tsc c j
    let bins := (List.range 64).map fun n => classifyBin c.horizon openBin (src.map (·.1)) (64 * j + n)
    let held := decide (max c.horizon (64 * j) < min openBin (64 * j + 64))
    (bins, held && (src.map (·.2)).getD false)
  | _, _ => expiredPage

end Sys2Proof.Machine
end

