-- ==== Sys2Proof/Machine/Evaluation.lean ====
section
/-! DEFINITION. Fetch evaluation (6.6), the same for the peer evaluator and the local evaluator: the checks, the division into
points, the used bins, and what the page reads make of them. -/

namespace Sys2Proof.Machine

/-- Boundary b_i of a fetch (R110). -/
def boundary (posFrom posTo count i : Nat) : Nat :=
  if posFrom < posTo then posFrom + i * (posTo - posFrom) / count else posFrom - i * (posFrom - posTo) / count

/-- The used bins of a point on odometer interval [x0, x1) at step `s` (R111): the selected bins, or its one SPARSE bin. -/
def usedBins (s x0 x1 : Nat) : PointAcc :=
  let lo := (2 * x0 + s - 1) / (2 * s)
  let hi := (2 * x1 + s - 1) / (2 * s)
  let bins : Nat × Nat × Bool := if lo < hi then (lo, hi - 1, false) else ((x0 + x1) / 2 / s, (x0 + x1) / 2 / s, true)
  { kLo := bins.1, kHi := bins.2.1, sparse := bins.2.2, avail := 0, unavail := 0, valued := 0, sum := 0, extrema := none,
    held := false, stop := false, sat := false }

/-- Point `i` of a fetch of `count` points (R110, R111). -/
def evalPoint (s oStart posFrom posTo count i : Nat) : PointAcc :=
  let b := boundary posFrom posTo count i
  let c := boundary posFrom posTo count (i + 1)
  usedBins s (oStart + min b c) (oStart + max b c)

/-- The first page above which a point still has used bins, from page `p` on (R112). -/
def PointAcc.pageFrom (p : Nat) (a : PointAcc) : Option Nat :=
  if a.kHi / 64 < p then none else some (max (a.kLo / 64) p)

/-- The least page from `p` on that holds a used bin of any point (R112). -/
def pageFrom (points : List PointAcc) (p : Nat) : Option Nat :=
  points.foldl (fun best a =>
    match best, a.pageFrom p with
    | none, q => q
    | some b, none => some b
    | some b, some q => some (min b q)) none

/-- What the checks of R108 give: a status at once, or an evaluation that wants its first page. -/
inductive EvalStart where
  | stop (status : FetchStatus)
  | go (ev : Eval)
deriving DecidableEq, Repr

/-- The beginning of an evaluation (R108 to R111). -/
def startEval (s : State) (f : Fetch) : EvalStart :=
  if f.coil.station ≠ s.settings.station then .stop .notMine
  else
    match s.findExit f.coil with
    | none => .stop .unknown
    | some r =>
      if f.count < 1 ∨ Config.groupCap < f.count then .stop .badRequest
      else
        match s.settings.channelOf f.quantity with
        | none => .stop .noQuantity
        | some d =>
          if s.tsc.storeFault then .stop .storeFault
          else
            let a := min f.posFrom r.length
            let b := min f.posTo r.length
            let points := (List.range f.count).map (evalPoint d.step r.oStart a b f.count)
            .go { chan := d.index, clamped := decide (r.length < f.posFrom ∨ r.length < f.posTo), points,
                  page := (pageFrom points 0).getD 0 }

/-- One used bin of a point as a read reported it (R113, R114). -/
def PointAcc.add (a : PointAcc) : BinClass → PointAcc
  | .expired | .unclosed => { a with unavail := a.unavail + 1 }
  | .closed b =>
    let a := { a with avail := a.avail + 1, held := a.held || b.flags.held, stop := a.stop || b.flags.stop,
                      sat := a.sat || b.flags.sat }
    if b.flags.void then a
    else { a with valued := a.valued + 1, sum := a.sum + b.mean, extrema := widen b.most (widen b.least a.extrema) }

/-- The bins of page `j` into a point that uses them. -/
def PointAcc.feed (j : Nat) (bins : List BinClass) (a : PointAcc) : PointAcc :=
  bins.zipIdx.foldl (fun a x => if a.kLo ≤ 64 * j + x.2 ∧ 64 * j + x.2 ≤ a.kHi then a.add x.1 else a) a

/-- The point an accumulation ends as (R113, R114). -/
def PointAcc.point (a : PointAcc) : Point :=
  if a.avail = 0 then
    { mean := 0, least := 0, most := 0, flags := .none, sparse := a.sparse, partly := false, expired := true }
  else
    let partly := decide (0 < a.unavail)
    if a.valued = 0 then
      { mean := 0, least := 0, most := 0, flags := ⟨false, true, a.stop, false⟩, sparse := a.sparse, partly, expired := false }
    else
      let ext := a.extrema.getD (0, 0)
      { mean := roundDiv a.sum a.valued, least := ext.1, most := ext.2, flags := ⟨a.held, false, a.stop, a.sat⟩,
        sparse := a.sparse, partly, expired := false }

/-- What a completed page read leaves: an evaluation that wants its next page, or the result DATA (R112, R115). -/
inductive EvalNext where
  | more (ev : Eval)
  | finished (r : FetchResult)
deriving DecidableEq, Repr

/-- The 64 bins of the page asked for are handed to the evaluator (R27, R112). -/
def Eval.feed (bins : List BinClass) (ev : Eval) : EvalNext :=
  let points := ev.points.map (PointAcc.feed ev.page bins)
  match pageFrom points (ev.page + 1) with
  | some j => .more { ev with points, page := j }
  | none => .finished { status := .data, clamped := ev.clamped, points := points.map PointAcc.point }

/-- The result of a fetch stopped by a check (R115). -/
def FetchResult.stopped (st : FetchStatus) : FetchResult := { status := st, clamped := false, points := [] }

end Sys2Proof.Machine
end

