-- ==== Sys2Proof/Machine/Lineage.lean ====
section
/-! DEFINITION. Lineage arithmetic (chapter 4): building a piece from an overlap entry, and the boundary map of a piece. -/

namespace Sys2Proof.Machine

def findEntry (es : List Entry) (id : Nat) : Option Entry := es.find? fun e => e.id == id

/-- A piece from the images of its two ends (R64, R66). -/
def pieceOf (oStart : Nat) (v : Overlap) (i0 i1 : Nat) (unscaled broken : Bool) : Piece :=
  { n0 := v.x0 - oStart, n1 := v.x1 - oStart, source := v.coil, sLo := min i0 i1, sHi := max i0 i1,
    reversed := !v.headFirst, unscaled, broken, merged := false }

/-- A gap or merged piece (R68). -/
def gapPiece (oStart : Nat) (v : Overlap) : Piece :=
  { n0 := v.x0 - oStart, n1 := v.x1 - oStart, source := .unknown, sLo := 0, sHi := 0, reversed := false, unscaled := false,
    broken := false, merged := v.merged }

/-- The image of boundary `x` in a scaled piece (R64). -/
def scaledImage (headFirst : Bool) (length eStart span x : Nat) : Nat :=
  let q := (x - eStart) * length / span
  if headFirst then q else length - q

/-- The length used by an UNSCALED piece, L_U (R65). -/
def unscaledLength (length offset : Option Nat) (span : Nat) : Nat :=
  min (length.getD (span + offset.getD 0)) Config.max32

/-- The image of boundary `x` in an UNSCALED piece (R65, R66). -/
def unscaledImage (headFirst : Bool) (length offset : Option Nat) (eRef span x : Nat) : Nat :=
  let lu := unscaledLength length offset span
  let start := match offset with
    | some o => min o lu
    | none => if headFirst then 0 else lu
  if headFirst then min (start + (x - eRef)) lu else min (start - (x - eRef)) lu

/-- An UNSCALED piece (R65, R66). -/
def unscaledPiece (oStart : Nat) (v : Overlap) (length offset : Option Nat) (eRef span : Nat) (broken : Bool) : Piece :=
  pieceOf oStart v (unscaledImage v.headFirst length offset eRef span v.x0)
    (unscaledImage v.headFirst length offset eRef span v.x1) true broken

/-- A scaled piece (R64). -/
def scaledPiece (oStart : Nat) (v : Overlap) (length eStart span : Nat) : Piece :=
  pieceOf oStart v (scaledImage v.headFirst length eStart span v.x0) (scaledImage v.headFirst length eStart span v.x1)
    false false

/-- The piece of an overlap entry linked to a DONE record that ended at `eEnd` (R63 rows 5 to 9). -/
def donePiece (oStart : Nat) (v : Overlap) (e : Entry) (eEnd : Nat) : Piece :=
  let span := eEnd - e.eStart
  match e.length with
  | some len =>
    if e.broken ∨ e.offset.isSome ∨ Config.max32 < span then unscaledPiece oStart v (some len) e.offset e.eStart span e.broken
    else scaledPiece oStart v len e.eStart span
  | none => unscaledPiece oStart v none e.offset e.eStart span e.broken

/-- The construction of one piece (R63). -/
def buildPiece (es : List Entry) (oStart : Nat) (v : Overlap) : Piece :=
  if v.coil = .unknown then gapPiece oStart v
  else
    match v.link.bind (findEntry es) with
    | none => unscaledPiece oStart v none none v.x0 (v.x1 - v.x0) false
    | some e =>
      match e.eEnd with
      | none => unscaledPiece oStart v e.length e.offset e.eStart (v.x1 - e.eStart) false
      | some eEnd => donePiece oStart v e eEnd

/-- The map of a boundary through a piece (R69). -/
def Piece.image (p : Piece) (t : Nat) : Nat :=
  let q := (t - p.n0) * (p.sHi - p.sLo) / (p.n1 - p.n0)
  if p.reversed then p.sHi - q else p.sLo + q

/-- The piece of a record for an anchor (R138): the one whose own range holds it, the last one beyond the length. -/
def LineageRec.pieceFor (r : LineageRec) (anchor : Nat) : Option Piece :=
  if r.length ≤ anchor then r.pieces.getLast? else r.pieces.find? fun p => decide (p.n0 ≤ anchor ∧ anchor < p.n1)

end Sys2Proof.Machine
end

