-- ==== Sys2Proof/Machine/Tracking.lean ====
section
/-! DEFINITION. CTR and the event positions of LFR (chapter 3): the declaration queue, length queries, the entry and exit coil
tables, the cut, finalization and announcing. -/

namespace Sys2Proof.Machine

/-! ### Event positions (R37) -/

/-- The event position, whether it was clamped, and the new last event position (R37). -/
def settlePosition (odometer lastPos : Nat) (position : Option (BitVec 48)) : Nat × Bool :=
  match position with
  | none => (odometer, false)
  | some p =>
    if odometer < p.toNat then (odometer, true)
    else if p.toNat < lastPos then (lastPos, true)
    else (p.toNat, false)

/-- LFR settles the position of an event; a clamp writes LF-ORDER (R37). -/
def takePosition (position : Option (BitVec 48)) (s : State) : Nat × State :=
  let x := settlePosition s.smp.odometer s.lfr.lastPos position
  let s := { s with lfr := { s.lfr with lastPos := x.1 } }
  (x.1, if x.2 then s.writeFault .lfOrder .lfr none (some s.smp.odometer) else s)

/-- A line feed record that fails its check (R36). -/
def lfFail (s : State) : State :=
  let s := { s with lfr := { s.lfr with assembler := [], errors := satSucc Config.max16 s.lfr.errors } }
  s.markLfCheck

/-! ### Release of entry records (R46) -/

/-- A PENDING exit coil is linked to the entry record (R46, R50). -/
def ExitRec.linksTo (r : ExitRec) (id : Nat) : Bool :=
  match r.body with
  | .pending os _ => os.any fun v => v.link == some id
  | .final .. => false

/-- An entry record is still needed: RUNNING, or overlapped by the open segment or a PENDING exit coil (R46). -/
def Ctr.needs (c : Ctr) (e : Entry) : Bool :=
  match e.eEnd with
  | none => true
  | some x => decide (c.segStart < x) || c.exits.any fun r => r.linksTo e.id

/-- The release check (R46). -/
def Ctr.release (c : Ctr) : Ctr := { c with entries := c.entries.filter c.needs }

def State.release (s : State) : State := { s with ctr := s.ctr.release }

/-! ### Announcing (R56) -/

def announceFrame (r : LineageRec) : Frame := { kind := .coilAnnounce, dest := 63, tag := 0, payload := recordBytes 0 r }

/-- The announce-pending mark of one exit record. -/
def setAnnounce (mark : Bool) (c : Coil) (r : ExitRec) : ExitRec :=
  if r.coil = c then
    match r.body with
    | .pending .. => r
    | .final ps _ => { r with body := .final ps mark }
  else r

/-- A finalized record is announced, or marked announce-pending (R56). -/
def State.announce (r : ExitRec) (s : State) : State :=
  match r.lineage with
  | none => s
  | some l =>
    if !s.bus.muted && decide (s.bus.queue.length < Config.txCap) then s.join (announceFrame l) .ctrAnnounce
    else { s with ctr := { s.ctr with exits := s.ctr.exits.map (setAnnounce true r.coil) } }

/-- The announce-pending record that stands first in close order (R56). -/
def Ctr.firstPending (c : Ctr) : Option LineageRec :=
  (c.exits.find? fun r => match r.body with
    | .final _ mark => mark
    | .pending .. => false).bind ExitRec.lineage

/-! ### Finalization (R53 to R55) -/

/-- An overlap entry no longer holds its record back (R53). -/
def Overlap.ready (es : List Entry) (v : Overlap) : Bool :=
  v.coil == .unknown ||
    match v.link.bind (findEntry es) with
    | none => true
    | some e => e.eEnd.isSome

/-- A PENDING record is ready (R53). -/
def ExitRec.ready (es : List Entry) (r : ExitRec) : Bool :=
  match r.body with
  | .pending os _ => os.all (Overlap.ready es)
  | .final .. => false

/-- The FINAL form of a record (R54, R63); a FINAL record stays as it is. -/
def ExitRec.finalized (es : List Entry) (expiry : Bool) (r : ExitRec) : ExitRec :=
  match r.body with
  | .pending os _ => { r with timedOut := r.timedOut || expiry, body := .final (os.map (buildPiece es r.oStart)) false }
  | .final .. => r

/-- Finalization of one record and its announcement (R54, R56). -/
def finalizeCoil (expiry : Bool) (s : State) (c : Coil) : State :=
  match s.findExit c with
  | none => s
  | some r =>
    let r' := r.finalized s.ctr.entries expiry
    State.announce r' { s with ctr := { s.ctr with exits := s.ctr.exits.map fun x : ExitRec => if x.coil = c then r' else x } }

/-- The records of a check that are found ready are finalized in close order (R53). -/
def finalizeReady (checked : Coil → Bool) (s : State) : State :=
  ((s.ctr.exits.filter fun r => checked r.coil && r.ready s.ctr.entries).map (·.coil)).foldl (finalizeCoil false) s

/-- The finalization check over every PENDING record (R53). -/
def finalizationCheck (s : State) : State := finalizeReady (fun _ => true) s

/-! ### Entry records (R43 to R47) -/

def Ctr.running (c : Ctr) : Option Entry := c.entries.find? fun e => e.eEnd.isNone

/-- The RUNNING record becomes DONE at `x` (R43, R44). -/
def Entry.endAt (x : Nat) (broken : Bool) (e : Entry) : Entry :=
  match e.eEnd with
  | none => { e with eEnd := some x, broken := e.broken || broken }
  | some _ => e

/-- The RUNNING record ends; the finalization check and the release check follow (R43, R44). -/
def endRunning (x : Nat) (broken : Bool) (s : State) : State :=
  if s.ctr.running.isSome then
    (finalizationCheck { s with ctr := { s.ctr with entries := s.ctr.entries.map (Entry.endAt x broken) } }).release
  else s

/-- Overlap entries linked to an evicted record lose the link (R47). -/
def Overlap.cutLink (id : Nat) (v : Overlap) : Overlap := if v.link = some id then { v with link := none } else v

def ExitRec.cutLink (id : Nat) (r : ExitRec) : ExitRec :=
  match r.body with
  | .pending os t => { r with body := .pending (os.map (Overlap.cutLink id)) t }
  | .final .. => r

/-- ENTRY-EVICT of the oldest DONE record where the table is full (R47). -/
def evictEntry (s : State) : State :=
  if s.ctr.entries.length < Config.entryCap then s
  else
    match s.ctr.entries.find? fun e => e.eEnd.isSome with
    | none => s
    | some e =>
      let c := s.ctr
      { s with ctr := { c with entries := c.entries.filter (fun x => x.id != e.id),
                               exits := c.exits.map (ExitRec.cutLink e.id) } }.writeFault .entryEvict .ctr (some e.coil) none

/-- The RUNNING record a JOIN adds (R43 step 3): from the head declaration, or for coil 0:0. -/
def addRunning (x : Nat) (c : Ctr) : Ctr :=
  match c.decls with
  | d :: ds =>
    { c with decls := ds, entries := c.entries ++ [{ id := d.id, coil := d.coil, headFirst := d.headFirst, length := d.length,
                                                     offset := d.offset, lq := d.lq, eStart := x, eEnd := none, broken := false }] }
  | [] =>
    { c with nextId := c.nextId + 1,
             entries := c.entries ++ [{ id := c.nextId, coil := .unknown, headFirst := false, length := none, offset := none,
                                        lq := .none, eStart := x, eEnd := none, broken := false }] }

/-- LF-ORDER of CTR at an event position (R45, R48). -/
def misfit (x : Nat) (s : State) : State := s.writeFault .lfOrder .ctr none (some x)

/-- A JOIN at its settled position (R43, R45). -/
def joinAt (thread : Bool) (x : Nat) (s : State) : State :=
  let s := if thread = s.ctr.running.isSome then misfit x s else s
  let s := evictEntry (endRunning x false s)
  { s with ctr := addRunning x s.ctr }

/-- TAIL-OUT or BREAK at its settled position (R44, R45). -/
def tailAt (broken : Bool) (x : Nat) (s : State) : State :=
  if s.ctr.running.isSome then endRunning x broken s else misfit x s

/-! ### The cut (R48 to R52) -/

/-- The overlap entries of [cur, oEnd) with the entry records in order, gaps for coil 0:0 between (R50). -/
def coverSegment (oEnd : Nat) : Nat → List Entry → List Overlap
  | cur, [] => if cur < oEnd then [{ coil := .unknown, headFirst := false, x0 := cur, x1 := oEnd, link := none, merged := false }]
               else []
  | cur, e :: es =>
    let x0 := max cur e.eStart
    let x1 := min oEnd (e.eEnd.getD oEnd)
    if x0 < x1 then
      (if cur < x0 then [{ coil := .unknown, headFirst := false, x0 := cur, x1 := x0, link := none, merged := false }] else []) ++
        { coil := e.coil, headFirst := e.headFirst, x0, x1, link := some e.id, merged := false } :: coverSegment oEnd x1 es
    else coverSegment oEnd cur es

/-- More than 8 entries: the first 7, and one MERGED entry for the rest (R50). -/
def mergeTail (oEnd : Nat) (vs : List Overlap) : List Overlap :=
  if vs.length ≤ Config.overlapCap then vs
  else
    vs.take 7 ++ [{ coil := .unknown, headFirst := false, x0 := ((vs.drop 7).head?.map (·.x0)).getD oEnd, x1 := oEnd, link := none,
                    merged := true }]

/-- The overlap list of a cut segment (R50). -/
def overlapList (es : List Entry) (oStart oEnd : Nat) : List Overlap := mergeTail oEnd (coverSegment oEnd oStart es)

/-- Removal of an exit record and the release check (R51, R52). -/
def removeExit (c : Coil) (s : State) : State :=
  State.release { s with ctr := { s.ctr with exits := s.ctr.exits.filter fun r => r.coil != c } }

/-- RENUMBER (R51). -/
def renumber (c : Coil) (s : State) : State :=
  if (s.findExit c).isSome then (removeExit c s).writeFault .renumber .ctr (some c) none else s

/-- EXIT-EVICT where the exit table is full (R52). -/
def evictExit (s : State) : State :=
  if s.ctr.exits.length < Config.exitCap then s
  else
    match s.ctr.exits.head? with
    | none => s
    | some r => (removeExit r.coil s).writeFault .exitEvict .ctr (some r.coil) none

/-- A new exit record is placed (R51, R52). -/
def placeExit (s : State) (r : ExitRec) : State :=
  let s := evictExit (renumber r.coil s)
  { s with ctr := { s.ctr with exits := s.ctr.exits ++ [r] } }

/-- The exit record of lane `i + 1` (R49). -/
def laneRecord (s : State) (oStart oEnd stop lanes : Nat) (sequence : BitVec 32) (i : Nat) : ExitRec :=
  { coil := ⟨s.settings.station, sequence + BitVec.ofNat 32 i⟩, oStart, oEnd, close := s.ros.clock, stop, lane := i + 1, lanes,
    timedOut := false,
    body := .pending (overlapList s.ctr.entries oStart oEnd) (s.settings.finalHours * Config.msPerHour) }

/-- The exit records of a CUT with COIL (R49), finalized where ready (R53). -/
def createExits (oStart oEnd stop lanes : Nat) (sequence : BitVec 32) (s : State) : State :=
  let records := (List.range lanes).map (laneRecord s oStart oEnd stop lanes sequence)
  finalizeReady (fun c => records.any fun r => r.coil == c) (records.foldl placeExit s)

/-- A CUT at its settled position (R9, R48). -/
def cutAt (scrap : Bool) (sequence : BitVec 32) (lanes x : Nat) (s : State) : State :=
  let stop := s.smp.stopTime
  let oStart := s.ctr.segStart
  let s := { s with smp := { s.smp with stopTime := 0 } }
  let s := if scrap then s
           else if x ≤ oStart ∨ Config.max32 < x - oStart then misfit x s
           else createExits oStart x stop lanes sequence s
  State.release { s with ctr := { s.ctr with segStart := x } }

/-! ### Declarations and length queries (R38 to R42) -/

/-- A length of 0 is no length (R38, R183). -/
def lengthOf (n : Nat) : Option Nat := if n = 0 then none else some n

/-- The lookup of a declaration without a length (R39). -/
def lookupLength (c : Coil) (s : State) : Option Nat × LengthState × State :=
  if !busStation c.station then (none, .none, s)
  else if c.station = s.settings.station then ((s.findExit c).map ExitRec.length, .none, s)
  else
    let hit := s.lookupCache c
    match hit.1 with
    | some r => (some r.length, .none, hit.2)
    | none => (none, .wanted, s)

/-- A DECLARE (R38, R39). -/
def declareCoil (coil : Coil) (headFirst : Bool) (declared : Nat) (offset : Option Nat) (s : State) : State :=
  if Config.declCap ≤ s.ctr.decls.length then s.writeFault .declareOverflow .ctr (some coil) none
  else
    let found := match lengthOf declared with
      | some n => (some n, LengthState.none, s)
      | none => lookupLength coil s
    let s := found.2.2
    { s with ctr := { s.ctr with
        nextId := s.ctr.nextId + 1
        decls := s.ctr.decls ++ [{ id := s.ctr.nextId, coil, headFirst, length := found.1, offset, lq := found.2.1 }] } }

/-- Change of a declaration or entry record by its name, wherever it now stands (R41). -/
def Ctr.updateLength (c : Ctr) (id : Nat) (lq : LengthState) (length : Option Nat) : Ctr :=
  { c with decls := c.decls.map fun d => if d.id = id then { d with lq, length := d.length <|> length } else d
           entries := c.entries.map fun e => if e.id = id then { e with lq, length := e.length <|> length } else e }

/-- The oldest record in state WANTED: entry records by JOIN, then declarations by place (R42). -/
def Ctr.oldestWanted (c : Ctr) : Option (Nat × Coil) :=
  ((c.entries.find? fun e => e.lq == .wanted).map fun e => (e.id, e.coil)) <|>
    ((c.decls.find? fun d => d.lq == .wanted).map fun d => (d.id, d.coil))

def queryFrame (unit slot : Nat) (gen : BitVec 2) (c : Coil) : Frame :=
  { kind := .lineageQuery, dest := c.station, tag := makeTag unit slot gen.toNat, payload := coilBytes 0 c }

def Ctr.setSlot (c : Ctr) (i : Nat) (x : LengthSlot) : Ctr := { c with slots := c.slots.set i x }

/-- A length query for the oldest WANTED record, where a slot is idle (R40, R42); MUTED gives it up. -/
def startLengthQuery (s : State) : Option State :=
  if !s.running then none
  else
    match s.ctr.oldestWanted, s.ctr.slots.findIdx? fun x => x.busy.isNone with
    | some (id, c), some i =>
      if s.bus.muted then some { s with ctr := s.ctr.updateLength id .none none }
      else
        let gen := ((s.ctr.slots[i]?).getD ⟨0, none⟩).gen + 1
        let busy : LengthBusy := { coil := c, link := id, allowed := s.attemptsAllowed c.station, tries := 1, dropped := false,
                                   timer := none }
        some (State.offer (queryFrame 2 i gen c) (.ctrQuery i)
          { s with ctr := (s.ctr.updateLength id .asked none).setSlot i ⟨gen, some busy⟩ })
    | _, _ => none

/-- The query of slot `i` ends (R40, R41): the slot is idle and an attempt held in it is gone. A retry already in the transmit
queue stays there, since CTR withdraws nothing (assumption 12). -/
def endLengthQuery (i : Nat) (b : LengthBusy) (length : Option Nat) (s : State) : State :=
  let gen := ((s.ctr.slots[i]?).getD ⟨0, none⟩).gen
  { s with ctr := (s.ctr.updateLength b.link .none length).setSlot i ⟨gen, none⟩
           bus := { s.bus with waiting := s.bus.waiting.filter fun e => e.owner != .ctrQuery i } }

/-- BUS reports an attempt of a length-query slot sent: its reply timer starts (R40). -/
def sentLengthQuery (i : Nat) (tag : Byte) (s : State) : State :=
  match s.ctr.slots[i]? with
  | some ⟨gen, some b⟩ =>
    if gen = tagGen tag then
      { s with ctr := s.ctr.setSlot i ⟨gen, some { b with timer := some s.settings.replyTimeout }⟩ }
    else s
  | _ => s

/-- An attempt of length-query slot `i` fails, by its timer or because it was dropped (R40, R98). -/
def failLengthQuery (i : Nat) (dropped : Bool) (s : State) : State :=
  match s.ctr.slots[i]? with
  | some ⟨gen, some b⟩ =>
    let dropped := b.dropped || dropped
    if b.tries < b.allowed ∧ !s.bus.muted then
      State.offer (queryFrame 2 i gen b.coil) (.ctrQuery i)
        { s with ctr := s.ctr.setSlot i ⟨gen, some { b with tries := b.tries + 1, dropped, timer := none }⟩ }
    else
      let s := endLengthQuery i b none s
      if dropped || decide (b.tries < b.allowed) then s else s.reportSilent b.coil.station
  | _ => s

/-- The length a LINEAGE-REPLY gives the tracker (R41). -/
def replyLength (own source : BitVec 6) (c : Coil) : LineageAnswer → Option Nat
  | .record r => if r.coil = c ∧ r.passes own source then some r.length else none
  | .pending _ len _ => lengthOf len
  | .unknown _ | .notMine _ => none

/-- A LINEAGE-REPLY of tag unit 2 (R41, R101). -/
def lengthReply (source : BitVec 6) (tag : Byte) (a : LineageAnswer) (s : State) : State :=
  match s.ctr.slots[tagSlot tag]? with
  | some ⟨gen, some b⟩ =>
    if gen = tagGen tag ∧ b.coil.station = source then
      endLengthQuery (tagSlot tag) b (replyLength s.settings.station source b.coil a) s
    else s
  | _ => s

/-! ### Ticks and starts -/

def tickLeft (t : Option Nat) : Option Nat := t.map (· - 1)

/-- One tick of a finalization timer (R55). -/
def ExitRec.tick (r : ExitRec) : ExitRec :=
  match r.body with
  | .pending os t => { r with body := .pending os (t - 1) }
  | .final .. => r

def LengthSlot.tick (x : LengthSlot) : LengthSlot :=
  { x with busy := x.busy.map fun b => { b with timer := tickLeft b.timer } }

def Ctr.tick (c : Ctr) : Ctr := { c with exits := c.exits.map ExitRec.tick, slots := c.slots.map LengthSlot.tick }

/-- The length state of a record looked up again at a warm start (R60): the cache is empty. -/
def restartLength (own : BitVec 6) (exits : List ExitRec) (c : Coil) (length : Option Nat) : Option Nat × LengthState :=
  match length with
  | some n => (some n, .none)
  | none =>
    if !busStation c.station then (none, .none)
    else if c.station = own then ((exits.find? fun r => r.coil == c).map ExitRec.length, .none)
    else (none, .wanted)

def ExitRec.restart (limit : Nat) (r : ExitRec) : ExitRec :=
  match r.body with
  | .pending os _ => { r with body := .pending os limit }
  | .final .. => r

/-- CTR at a start (R59, R60). -/
def Ctr.start (cold : Bool) (g : Settings) (c : Ctr) : Ctr :=
  if cold then { Ctr.reset with nextId := c.nextId }
  else
    { c with
        slots := c.slots.map fun x => { x with busy := none }
        exits := c.exits.map (ExitRec.restart (g.finalHours * Config.msPerHour))
        decls := c.decls.map fun d =>
          { d with length := (restartLength g.station c.exits d.coil d.length).1
                   lq := (restartLength g.station c.exits d.coil d.length).2 }
        entries := c.entries.map fun e =>
          { e with length := (restartLength g.station c.exits e.coil e.length).1
                   lq := (restartLength g.station c.exits e.coil e.length).2 } }

end Sys2Proof.Machine
end

