-- ==== Sys2Proof/Machine/Planning.lean ====
section
/-! DEFINITION. REQ, playback planning (chapter 8): acceptance and the grid, lineage-query slots, attribution depth by depth,
fetch groups. -/

namespace Sys2Proof.Machine

def State.setReq (s : State) (f : Req → Req) : State := { s with req := f s.req }

/-! ### Results (R151) -/

/-- The result of a point from its attribution and what the fetch or the plan gave. -/
def Attr.result (a : Attr) (p : Option Point) (clamped : Bool) (outcome : Option Outcome) : Result :=
  let q := p.getD { mean := 0, least := 0, most := 0, flags := .none, sparse := false, partly := false, expired := false }
  match a with
  | .traced src _ _ split unscaled broken _ =>
    { mean := q.mean, least := q.least, most := q.most, flags := q.flags, sparse := q.sparse, partly := q.partly,
      expired := q.expired, clamped, split, unscaled, broken, outcome, source := src }
  | .ended flag src =>
    { mean := 0, least := 0, most := 0, flags := .none, sparse := false, partly := false, expired := false, clamped := false,
      split := false, unscaled := false, broken := false, outcome := some flag, source := src }

/-- The point has data: its result holds values and is not EXPIRED (R151). -/
def Result.hasData (r : Result) : Bool := r.outcome.isNone && !r.expired

/-- An absent result becomes present; a present one does not change (R151). -/
def presentOnce (r : Result) : Option Result → Option Result
  | none => some r
  | some old => some old

/-- Results of grid indices first, first + 1, … of one depth (R149, R151). -/
def DepthTable.fill (t : DepthTable) (first : Nat) (make : Nat → Attr → Result) (count : Nat) : DepthTable :=
  { t with results := t.results.zipIdx.map fun x =>
      if first ≤ x.2 ∧ x.2 < first + count then
        match t.attrs[x.2]? with
        | some a => presentOnce (make (x.2 - first) a) x.1
        | none => x.1
      else x.1 }

def Req.fill (depth first count : Nat) (make : Nat → Attr → Result) (r : Req) : Req :=
  { r with depths := r.depths.modify depth fun t => t.fill first make count }

/-- The table of a depth just planned: ended entries are present at once (R151). -/
def DepthTable.ofAttrs (as : List Attr) : DepthTable :=
  { attrs := as, results := as.map fun a => match a with
      | .ended .. => some (a.result none false none)
      | .traced .. => none }

/-! ### Fetch groups (R140 to R142) -/

/-- Entry `b` follows entry `a` (R140). -/
def Attr.follows (a b : Attr) : Bool :=
  match a, b with
  | .traced s1 a1 b1 sp1 _ _ sh1, .traced s2 a2 b2 sp2 _ _ sh2 =>
    s1 == s2 && !sp1 && !sp2 && !sh1 && !sh2 && (decide (a1 < b1) && decide (a2 < b2) || decide (b1 < a1) && decide (b2 < a2)) &&
      a2 == b1
  | _, _ => false

/-- The groups of a depth in ascending grid index (R140, R141): a run is cut into groups of 14 from its lowest index. `cur` is
the group being built with its last entry. -/
def groupsFrom (depth : Nat) : Nat → Option (Group × Attr) → List Attr → List Group
  | _, none, [] => []
  | _, some (g, _), [] => [g]
  | i, cur, a :: as =>
    let closed := match cur with
      | some (g, _) => [g]
      | none => []
    match a with
    | .ended .. => closed ++ groupsFrom depth (i + 1) none as
    | .traced src ta tb _ _ _ _ =>
      let single : Group := { depth, first := i, count := 1, coil := src, posFrom := ta, posTo := tb, allowed := 0 }
      match cur with
      | some (g, prev) =>
        if prev.follows a ∧ g.count < Config.groupCap then
          groupsFrom depth (i + 1) (some ({ g with count := g.count + 1, posTo := tb }, a)) as
        else g :: groupsFrom depth (i + 1) (some (single, a)) as
      | none => groupsFrom depth (i + 1) (some (single, a)) as

/-- What R142 makes of a group: sent with its attempts, or not sent with its points' outcome. A local group reads no roster
entry. -/
def decideGroup (s : State) (g : Group) : Group ⊕ Outcome :=
  if g.coil.station = s.settings.station then .inl g
  else if s.bus.muted then .inr .unreachable
  else
    let e := s.rosterEntry g.coil.station
    if e.state = .degraded then .inr .storeFault
    else if (e.codes.map fun cs => !cs.contains (BitVec.ofNat 8 s.req.play.quantity)).getD false then .inr .noQuantity
    else .inl { g with allowed := s.attemptsAllowed g.coil.station }

/-- A group is handed to the fetch window, or its results are set (R142, R143, R144). -/
def handGroup (s : State) (g : Group) : State :=
  match decideGroup s g with
  | .inl g => s.setReq fun r => { r with issue := r.issue ++ [g] }
  | .inr o => s.setReq (Req.fill g.depth g.first g.count fun _ a => a.result none false (some o))

/-- A planned depth: its table is added and its groups handed on (R143). -/
def addDepth (as : List Attr) (s : State) : State :=
  let depth := s.req.depths.length
  (groupsFrom depth 0 none as).foldl handGroup (s.setReq fun r => { r with depths := r.depths ++ [.ofAttrs as] })

/-! ### Acceptance (R133, R134) -/

def ceilDiv (a b : Nat) : Nat := (a + b - 1) / b

/-- The depth-0 entries: the grid on N by the identity map (R134). -/
def gridAttrs (p : PlayRequest) : List Attr :=
  (List.range p.points).map fun i =>
    .traced p.coil (p.a + i * p.step) (min (p.a + (i + 1) * p.step) p.bound) false false false
      (i + 1 == p.points && (p.bound - p.a) % p.step != 0)

/-- The request is refused; the engine leaves RESOLVING when the REFUSE has joined the output queue (R132). -/
def refuse (why : Reason) (s : State) : State := s.setReq fun r => { r with refusal := some why }

/-- Acceptance with L_N resolved and the depth-0 copy had (R133, R134). -/
def acceptPlayback (length : Nat) (copy : RecState) (s : State) : State :=
  let p := s.req.play
  let bound := min p.b length
  if bound ≤ p.a then refuse .range s
  else
    let points := ceilDiv (bound - p.a) p.step
    if Config.pointCap < points then refuse .tooMany s
    else
      let p := { p with length, bound, points, copy }
      addDepth (gridAttrs p) (s.setReq fun r =>
        { r with engine := .playing, play := p, acceptDue := true, depths := [],
                 plan := if p.depth = 0 then none else some { depth := 1, coils := [(p.coil, copy)] } })

/-! ### Lineage-query slots (R130 to R132) -/

/-- What a lineage query comes to (R131). -/
inductive QueryOutcome where
  | had (r : LineageRec)
  | pending (length close : Nat)
  | unknown
  | unreachable
deriving DecidableEq, Repr

/-- The outcome as a record state of a listed coil (R136). -/
def QueryOutcome.recState : QueryOutcome → RecState
  | .had r => .record r
  | .pending _ close => .pending close
  | .unknown => .unknown
  | .unreachable => .unreachable

/-- The outcome as the outcome of a place (R160): a PENDING reply gives stop time and lane 0. -/
def QueryOutcome.place : QueryOutcome → PlaceOutcome
  | .had r => .record r
  | .pending len close => .pending len close 0 0
  | .unknown => .unknown
  | .unreachable => .unreachable

/-- What a LINEAGE-REPLY makes of a slot's coil (R131). -/
def answerOutcome (own source : BitVec 6) (c : Coil) : LineageAnswer → QueryOutcome
  | .record r => if r.coil = c ∧ r.passes own source then .had r else .unknown
  | .pending _ len close => .pending len close
  | .unknown _ | .notMine _ => .unknown

/-- Resolution ends with the query's outcome (R132). -/
def resolveWith (o : QueryOutcome) (s : State) : State :=
  match o with
  | .had r => acceptPlayback r.length (.record r) s
  | .pending len close => acceptPlayback len (.pending close) s
  | .unknown => refuse .unknownCoil s
  | .unreachable => refuse .unreachable s

/-- A query's outcome reaches what it serves (R131, R136, R160). -/
def settleQuery (b : QueryBusy) (o : QueryOutcome) (s : State) : State :=
  match b.serves with
  | .resolution => resolveWith o s
  | .coilList => s.setReq fun r => { r with plan := r.plan.map fun p =>
      { p with coils := p.coils.map fun x => if x.1 = b.coil ∧ x.2 = .looking then (x.1, o.recState) else x } }
  | .place => s.setReq fun r => { r with walk := { r.walk with places := r.walk.places.map fun p =>
      if p.coil = b.coil ∧ p.outcome = .looking then { p with outcome := o.place } else p } }

def Req.setQuery (r : Req) (i : Nat) (x : QuerySlot) : Req := { r with queries := r.queries.set i x }

/-- Slot `i` becomes idle with the outcome of its query; an attempt of it still queued is withdrawn (R131, R150, R153). -/
def endQuery (i : Nat) (gen : BitVec 2) (b : QueryBusy) (o : QueryOutcome) (s : State) : State :=
  settleQuery b o ((s.withdraw fun w => w == .reqQuery i).setReq fun r => r.setQuery i ⟨gen, none⟩)

/-- An attempt of lineage-query slot `i` fails, by its timer or because it was dropped or refused (R130). -/
def failQuery (i : Nat) (dropped : Bool) (s : State) : State :=
  match s.req.queries[i]? with
  | some ⟨gen, some b⟩ =>
    let dropped := b.dropped || dropped
    if b.tries < b.allowed ∧ !s.bus.muted then
      State.offer (queryFrame 1 i gen b.coil) (.reqQuery i)
        (s.setReq fun r => r.setQuery i ⟨gen, some { b with tries := b.tries + 1, dropped, timer := none }⟩)
    else
      endQuery i gen b .unreachable
        (if dropped || decide (b.tries < b.allowed) then s else s.reportSilent b.coil.station)
  | _ => s

/-- BUS reports an attempt sent: the reply timer starts (R130). -/
def sentQuery (i : Nat) (tag : Byte) (s : State) : State :=
  match s.req.queries[i]? with
  | some ⟨gen, some b⟩ =>
    if gen = tagGen tag then
      s.setReq fun r => r.setQuery i ⟨gen, some { b with timer := some s.settings.replyTimeout }⟩
    else s
  | _ => s

/-- A lineage query through idle slot `i` (R130). -/
def startQuery (i : Nat) (c : Coil) (serves : Serves) (s : State) : State :=
  let gen := ((s.req.queries[i]?).getD ⟨0, none⟩).gen + 1
  let b : QueryBusy := { coil := c, serves, allowed := s.attemptsAllowed c.station, tries := 1, dropped := false, timer := none }
  let s := s.setReq fun r => r.setQuery i ⟨gen, some b⟩
  if s.bus.muted then failQuery i true s else s.offer (queryFrame 1 i gen c) (.reqQuery i)

/-- A LINEAGE-REPLY of tag unit 1 (R131, R101). -/
def queryReply (source : BitVec 6) (tag : Byte) (a : LineageAnswer) (s : State) : State :=
  match s.req.queries[tagSlot tag]? with
  | some ⟨gen, some b⟩ =>
    if gen = tagGen tag ∧ b.coil.station = source then
      endQuery (tagSlot tag) gen b (answerOutcome s.settings.station source b.coil a) s
    else s
  | _ => s

def idleQuery (r : Req) : Option Nat := r.queries.findIdx? fun x => x.busy.isNone

/-- A slot is busy for a coil. -/
def queried (r : Req) (c : Coil) : Bool := r.queries.any fun x => (x.busy.map fun b => b.coil == c).getD false

/-- The coils in state LOOKING in list or place order (R136, R160). -/
def lookingCoils (r : Req) : List (Coil × Serves) :=
  match r.engine with
  | .playing => ((r.plan.map (·.coils)).getD []).filterMap fun x => if x.2 = .looking then some (x.1, .coilList) else none
  | .walkingUp => r.walk.places.filterMap fun p => if p.outcome = .looking then some (p.coil, .place) else none
  | _ => []

/-- The next LOOKING coil takes an idle lineage-query slot (R136, R160). -/
def queryStep (s : State) : Option State :=
  match (lookingCoils s.req).find? fun x => !queried s.req x.1, idleQuery s.req with
  | some (c, w), some i => some (startQuery i c w s)
  | _, _ => none

/-! ### The PLAYBACK request (R128, R129) -/

/-- The case of R129 that applies to N, the engine RESOLVING. -/
def resolve (c : Coil) (s : State) : State :=
  if !busStation c.station then refuse .unknownCoil s
  else if c.station = s.settings.station then
    match s.findExit c with
    | none => refuse .unknownCoil s
    | some r => acceptPlayback r.length r.recState s
  else
    let hit := s.lookupCache c
    match hit.1 with
    | some r => acceptPlayback r.length (.record r) hit.2
    | none =>
      if s.bus.muted then refuse .unreachable s
      else
        match idleQuery s.req with
        | some i => startQuery i c .resolution s
        | none => refuse .unreachable s

/-- The idle engine takes a PLAYBACK (R128). -/
def takePlayback (c : Coil) (q a b step depth : Nat) (s : State) : State :=
  resolve c (s.setReq fun r =>
    { r with engine := .resolving,
             play := { PlayRequest.empty with coil := c, quantity := q, a, b, step, depth } })

/-! ### Attribution (R135 to R139) -/

/-- Record state of a listed coil (R136). -/
def lookupRecord (c : Coil) (s : State) : RecState × State :=
  if c.station = s.settings.station then
    match s.findExit c with
    | none => (.unknown, s)
    | some r => (r.recState, s)
  else
    let hit := s.lookupCache c
    match hit.1 with
    | some r => (.record r, hit.2)
    | none => (if s.bus.muted then .unreachable else .looking, s)

/-- The coil list of the next depth, built over the entries of the depth before (R135). -/
def listCoils : List Attr → List (Coil × RecState) → State → List (Coil × RecState) × State
  | [], l, s => (l, s)
  | .ended .. :: as, l, s => listCoils as l s
  | .traced c _ _ _ _ _ _ :: as, l, s =>
    if (l.any fun x => x.1 == c) ∨ Config.coilListCap ≤ l.length then listCoils as l s
    else
      let x := lookupRecord c s
      listCoils as (l ++ [(c, x.1)]) x.2

/-- A boundary clamped to the own range of a piece (R138). -/
def clampTo (p : Piece) (t : Nat) : Nat := min (max t p.n0) p.n1

/-- The entry a traced entry gives through the piece chosen on M's record (R138, R139). -/
def traceThrough (r : LineageRec) (ta tb : Nat) (split unscaled broken short : Bool) : Attr :=
  match r.pieceFor ((ta + tb) / 2) with
  | none => .ended .unknown r.coil
  | some p =>
    if p.source = .unknown ∨ p.source.station = 63 then .ended .unknown p.source
    else if p.source.station = 0 then .ended .origin p.source
    else
      let ca := clampTo p ta
      let cb := clampTo p tb
      .traced p.source (p.image ca) (p.image cb) (split || ca != ta || cb != tb) (unscaled || p.unscaled) (broken || p.broken) short

/-- One entry of depth d from the entry of depth d − 1 (R137, R139). -/
def traceEntry (coils : List (Coil × RecState)) : Attr → Attr
  | .ended .. => .ended .ended .unknown
  | .traced m ta tb split unscaled broken short =>
    match (coils.find? fun x : Coil × RecState => x.1 == m).map Prod.snd with
    | none => .ended .overflow m
    | some (.pending _) => .ended .pending m
    | some .unknown => .ended .unknown m
    | some .unreachable | some .looking => .ended .unreachable m
    | some (.record r) => traceThrough r ta tb split unscaled broken short

/-- The attribution table of the deepest planned depth. -/
def Req.lastAttrs (r : Req) : List Attr := (r.depths.getLast?.map (·.attrs)).getD []

/-- A settled depth is traced, its groups are handed on, and planning of the next depth begins (R137, R143). -/
def planStep (s : State) : Option State :=
  match s.req.plan with
  | none => none
  | some p =>
    if p.coils.any fun x => x.2 == .looking then none
    else
      let as := s.req.lastAttrs.map (traceEntry p.coils)
      let s := addDepth as s
      if p.depth < s.req.play.depth then
        let l := listCoils as [] s
        some (l.2.setReq fun r => { r with plan := some { depth := p.depth + 1, coils := l.1 } })
      else some (s.setReq fun r => { r with plan := none })

end Sys2Proof.Machine
end

