-- ==== Sys2Proof/Machine/Fetching.lean ====
section
/-! DEFINITION. REQ, the fetch window (chapter 9): slots in rotation, local evaluation, remote attempts, replies, and what a
slot's end makes of its points. -/

namespace Sys2Proof.Machine

/-- The next idle slot after the slot given last, counting round (R144). -/
def nextFetchSlot (r : Req) : Option Nat :=
  ((List.range 16).map fun n => (r.lastGiven + 1 + n) % 16).find? fun i =>
    ((r.fetches[i]?).map fun x => x.busy.isNone).getD false

def Req.setFetch (r : Req) (i : Nat) (x : FetchSlot) : Req := { r with fetches := r.fetches.set i x }

def fetchOf (r : Req) (g : Group) : Fetch :=
  { coil := g.coil, quantity := r.play.quantity, posFrom := g.posFrom, posTo := g.posTo, count := g.count }

/-- A SAMPLE-FETCH of a REMOTE slot (R147). -/
def fetchFrame (r : Req) (i : Nat) (gen : BitVec 2) (g : Group) : Frame :=
  { kind := .sampleFetch, dest := g.coil.station, tag := makeTag 0 i gen.toNat, payload := fetchBytes (fetchOf r g) }

/-- A slot ends with a result or an outcome for its points (R148, R149); an attempt still queued is withdrawn (R150). -/
def endFetch (i : Nat) (gen : BitVec 2) (g : Group) (make : Nat → Attr → Result) (s : State) : State :=
  (s.withdraw fun w => w == .reqFetch i).setReq fun r => (r.setFetch i ⟨gen, none⟩).fill g.depth g.first g.count make

/-- Results without values (R148, R149), with CLAMPED where a reply carries it. -/
def outcomeResult (o : Outcome) (clamped : Bool) : Nat → Attr → Result := fun _ a => a.result none clamped (some o)

/-- The outcome a SAMPLE-REPLY without values for a group's points gives them, by its status (R149). -/
def FetchStatus.outcome : FetchStatus → Outcome
  | .unknown | .notMine => .unknown
  | .noQuantity => .noQuantity
  | .storeFault => .storeFault
  | .data | .badRequest => .unanswered

/-- What a SAMPLE-REPLY or a local result makes of a group's points (R149): values where it is DATA with the group's count, otherwise
the outcome of its status; every point takes CLAMPED of the reply, whatever its status. -/
def resultOf (count : Nat) (x : FetchResult) : Nat → Attr → Result :=
  if x.status = .data ∧ x.points.length = count then fun n a => a.result x.points[n]? x.clamped none
  else outcomeResult x.status.outcome x.clamped

/-- An attempt of REMOTE slot `i` fails (R147, R148). -/
def failFetch (i : Nat) (dropped : Bool) (s : State) : State :=
  match s.req.fetches[i]? with
  | some ⟨gen, some b⟩ =>
    let dropped := b.dropped || dropped
    if b.tries < b.group.allowed ∧ !s.bus.muted then
      State.offer (fetchFrame s.req i gen b.group) (.reqFetch i)
        (s.setReq fun r => r.setFetch i ⟨gen, some { b with tries := b.tries + 1, dropped, timer := none }⟩)
    else if s.bus.muted then endFetch i gen b.group (outcomeResult .unreachable false) s
    else
      endFetch i gen b.group (outcomeResult .unanswered false) (if dropped then s else s.reportSilent b.group.coil.station)
  | _ => s

/-- BUS reports an attempt sent: the reply timer starts (R147). -/
def sentFetch (i : Nat) (tag : Byte) (s : State) : State :=
  match s.req.fetches[i]? with
  | some ⟨gen, some b⟩ =>
    if gen = tagGen tag then
      s.setReq fun r => r.setFetch i ⟨gen, some { b with timer := some s.settings.replyTimeout }⟩
    else s
  | _ => s

/-- A SAMPLE-REPLY that passed R99 (R149, R101): a LOCAL slot is not busy for the matching (R146). -/
def fetchReply (source : BitVec 6) (tag : Byte) (x : FetchResult) (s : State) : State :=
  match s.req.fetches[tagSlot tag]? with
  | some ⟨gen, some b⟩ =>
    if tagUnit tag = 0 ∧ gen = tagGen tag ∧ !b.isLocal ∧ b.group.coil.station = source then
      endFetch (tagSlot tag) gen b.group (resultOf b.group.count x) s
    else s
  | _ => s

/-- The head of the issue list takes the next slot (R144, R145, R147). -/
def assignStep (s : State) : Option State :=
  match s.req.issue, nextFetchSlot s.req with
  | g :: rest, some i =>
    let gen := ((s.req.fetches[i]?).getD ⟨0, none⟩).gen + 1
    let isLocal := g.coil.station == s.settings.station
    let b : FetchBusy := { group := g, isLocal, tries := if isLocal then 0 else 1, dropped := false, timer := none }
    let s := s.setReq fun r =>
      { r.setFetch i ⟨gen, some b⟩ with issue := rest, lastGiven := i,
                                        localOrder := if isLocal then r.localOrder ++ [i] else r.localOrder }
    if isLocal then some s
    else if s.bus.muted then some (failFetch i true s)
    else some (s.offer (fetchFrame s.req i gen g) (.reqFetch i))
  | _, _ => none

/-- A LOCAL slot ends with the local evaluator's result (R146). -/
def endLocal (i : Nat) (x : FetchResult) (s : State) : State :=
  let s := s.setReq fun r => { r with localEval := .idle }
  match s.req.fetches[i]? with
  | some ⟨gen, some b⟩ => endFetch i gen b.group (resultOf b.group.count x) s
  | _ => s

/-- The next LOCAL fetch is handed to the idle local evaluator (R116, R146). -/
def localStep (s : State) : Option State :=
  match s.req.localEval, s.req.localOrder with
  | .idle, i :: rest =>
    let s := s.setReq fun r => { r with localOrder := rest }
    match s.req.fetches[i]? with
    | some ⟨_, some b⟩ =>
      match startEval s (fetchOf s.req b.group) with
      | .stop st => some (endLocal i (.stopped st) s)
      | .go ev => some (s.setReq fun r => { r with localEval := .running i ev })
    | _ => some s
  | _, _ => none

/-- The bins of a page read reach the local evaluator; a cancelled evaluation ends and they are discarded (R116). -/
def deliverLocal (bins : List BinClass) (s : State) : State :=
  match s.req.localEval with
  | .idle => s
  | .draining => s.setReq fun r => { r with localEval := .idle }
  | .running i ev =>
    match ev.feed bins with
    | .more ev => s.setReq fun r => { r with localEval := .running i ev }
    | .finished x => endLocal i x s

/-- Cancel of the local evaluation in hand (R116): it drains while its page read is in transfer. -/
def cancelLocal (t : Option Transfer) (r : Req) : Req :=
  { r with localOrder := [],
           localEval := match r.localEval, t with
             | .idle, _ => .idle
             | _, some (.read .localEval _) => .draining
             | _, _ => .idle }

end Sys2Proof.Machine
end

