-- ==== Sys2Proof/Machine/Genealogy.lean ====
section
/-! DEFINITION. REQ, the genealogy walks and the coil listing (chapter 10). -/

namespace Sys2Proof.Machine

def State.setWalk (s : State) (f : Walk → Walk) : State := s.setReq fun r => { r with walk := f r.walk }

/-! ### The visited set (R159, R163) -/

/-- The collector steps its generation and becomes idle, its timers stopped (R169 step 2). -/
def Collector.abandon (c : Collector) : Collector :=
  { gen := c.gen + 1, state := .idle, tries := 0, quiet := 0, overall := 0, parts := [] }

/-- A new place (R159, R161, R166): a coil already in the set is dropped, 0:0 apart; the 257th place truncates the walk and
ends a collection in progress (R163). -/
def addPlace (s : State) (p : Place) : State :=
  let w := s.req.walk
  if w.truncated ∨ p.coil ≠ .unknown ∧ w.places.any (fun x => x.coil == p.coil) then s
  else if Config.placeCap ≤ w.places.length then
    s.setReq fun r =>
      { r with walk := { r.walk with truncated := true, expanded := if r.collector.state = .idle then r.walk.expanded
                                                                    else r.walk.expanded + 1 },
               collector := if r.collector.state = .idle then r.collector else r.collector.abandon }
  else s.setWalk fun w => { w with places := w.places ++ [p] }

/-! ### Upward (R160 to R162) -/

/-- The outcome of a coil that enters a place of an upward walk (R160). -/
def upOutcome (c : Coil) (s : State) : PlaceOutcome × State :=
  if c = .unknown ∨ c.station = 63 then (.unknown, s)
  else if c.station = 0 then (.origin, s)
  else if c.station = s.settings.station then
    match s.findExit c with
    | none => (.unknown, s)
    | some r =>
      match r.lineage with
      | some l => (.record l, s)
      | none => (.pending r.length r.close r.stop r.lane, s)
  else
    let hit := s.lookupCache c
    match hit.1 with
    | some r => (.record r, hit.2)
    | none => (if s.bus.muted then .unreachable else .looking, s)

/-- The place one piece gives (R161). -/
def expandPiece (depth : Nat) (parent : Coil) (s : State) (p : Piece) : State :=
  if s.req.walk.truncated ∨ p.source ≠ .unknown ∧ s.req.walk.places.any (fun x => x.coil == p.source) then s
  else
    let x := if Config.placeCap ≤ s.req.walk.places.length then (.unknown, s) else upOutcome p.source s
    addPlace x.2 { coil := p.source, depth, parent, link := some p, outcome := x.1 }

/-- One place of an upward walk is expanded or passed over (R161); a LOOKING place holds back the rest. -/
def upStep (s : State) : Option State :=
  let w := s.req.walk
  match w.places[w.expanded]? with
  | none => none
  | some p =>
    let next := s.setWalk fun w => { w with expanded := w.expanded + 1 }
    match p.outcome with
    | .looking => none
    | .record r =>
      if p.depth < w.depth ∧ !w.truncated then some (r.pieces.foldl (expandPiece (p.depth + 1) p.coil) next) else some next
    | _ => some next

/-! ### Downward (R164 to R166) -/

/-- The exit record was made from coil `c` (R106). -/
def ExitRec.madeFrom (c : Coil) (r : ExitRec) : Bool :=
  c != .unknown &&
    match r.body with
    | .pending os _ => os.any fun v => v.coil == c
    | .final ps _ => ps.any fun p => p.source == c

/-- The child an exit record gives (R106). -/
def ExitRec.child (r : ExitRec) : Child := { coil := r.coil, lane := r.lane, pending := !r.isFinal, length := r.length }

/-- The child list of a coil from the own exit table, in close order (R106). -/
def ownChildren (s : State) (c : Coil) : List Child := (s.ctr.exits.filter (ExitRec.madeFrom c)).map ExitRec.child

/-- A child as a place (R166). -/
def placeChild (depth : Nat) (parent : Coil) (s : State) (c : Child) : State :=
  addPlace s { coil := c.coil, depth, parent, link := none, outcome := .child c.lane c.length c.pending }

def collectorTag (c : Collector) : Byte := makeTag 3 0 c.gen.toNat

def descentFrame (tag : Byte) (c : Coil) : Frame := { kind := .descentQuery, dest := 63, tag, payload := coilBytes 0 c }

def State.setCollector (s : State) (f : Collector → Collector) : State :=
  s.setReq fun r => { r with collector := f r.collector }

def Walk.place (w : Walk) : Option Place := w.places[w.expanded]?

/-- The collector is idle again and the walk passes to the next place (R164, R165). -/
def endDescent (dropped : Nat) (s : State) : State :=
  s.setReq fun r =>
    { r with collector := { r.collector with state := .idle, tries := 0, quiet := 0, overall := 0, parts := [] },
             walk := { r.walk with expanded := r.walk.expanded + 1, dropped := r.walk.dropped + dropped } }

/-- An attempt of the descent query is dropped or refused (R164). -/
def failDescent (s : State) : State :=
  match s.req.walk.place with
  | none => s
  | some p =>
    if s.req.collector.tries < 1 + s.settings.retryLimit ∧ !s.bus.muted then
      State.offer (descentFrame (collectorTag s.req.collector) p.coil) .reqDescent
        (s.setCollector fun c => { c with tries := c.tries + 1 })
    else endDescent 1 s

/-- BUS reports an attempt sent: collecting begins (R164). -/
def sentDescent (tag : Byte) (s : State) : State :=
  if s.req.collector.state = .offering ∧ tag = collectorTag s.req.collector then
    s.setCollector fun c => { c with state := .collecting, quiet := Config.quietTime, overall := Config.overallTime }
  else s

/-- Expansion of place `p`: own search, then the descent query (R164); a walk the own search truncates makes none (R163). -/
def startDescent (p : Place) (s : State) : State :=
  let s := (ownChildren s p.coil).foldl (placeChild (p.depth + 1) p.coil) s
  if s.req.walk.truncated then s.setWalk fun w => { w with expanded := w.expanded + 1 }
  else
    let s := s.setCollector fun c => { c with gen := c.gen + 1, state := .offering, tries := 1, parts := [] }
    if s.bus.muted then endDescent 1 s
    else s.offer (descentFrame (collectorTag s.req.collector) p.coil) .reqDescent

/-- The next place of a downward walk is expanded or passed over (R164). -/
def downStep (s : State) : Option State :=
  let w := s.req.walk
  if s.req.collector.state ≠ .idle then none
  else
    match w.place with
    | none => none
    | some p =>
      if p.depth < w.depth ∧ !w.truncated ∧ p.coil ≠ .unknown then some (startDescent p s)
      else some (s.setWalk fun w => { w with expanded := w.expanded + 1 })

/-- A station is incomplete: its highest part carries MORE, or a lower part is missing (R165). -/
def incomplete (parts : List (BitVec 6 × Nat × Bool)) (st : BitVec 6) : Bool :=
  let mine := parts.filter fun x => x.1 == st
  let top := mine.foldl (fun m x => max m x.2.1) 0
  (mine.any fun x => x.2.1 == top && x.2.2) || decide (mine.length < top + 1)

def anyIncomplete (parts : List (BitVec 6 × Nat × Bool)) : Bool := parts.any fun x => incomplete parts x.1

/-- A DESCENT-REPLY that passed R99 (R165, R166). -/
def descentReply (source : BitVec 6) (tag : Byte) (x : DescentPart) (s : State) : State :=
  let c := s.req.collector
  if c.state = .collecting ∧ tag = collectorTag c ∧ source ≠ s.settings.station ∧
      !c.parts.any (fun y => y.1 == source && y.2.1 == x.index) then
    match s.req.walk.place with
    | none => s
    | some p =>
      let s := s.setCollector fun c => { c with quiet := Config.quietTime, parts := c.parts ++ [(source, x.index, x.more)] }
      (x.children.filter fun y => y.coil.station == source && y.coil.station != s.settings.station).foldl
        (placeChild (p.depth + 1) p.coil) s
  else s

/-! ### Taking the requests (R159, R167) -/

/-- The idle engine takes a GENEALOGY (R159). -/
def takeGenealogy (c : Coil) (up : Bool) (depth : Nat) (s : State) : State :=
  let x := if up then upOutcome c s else (.root, s)
  x.2.setReq fun r =>
    { r with engine := if up then .walkingUp else .walkingDown, emitted := 0,
             play := { PlayRequest.empty with coil := c, depth },
             walk := { Walk.empty with depth, places := [{ coil := c, depth := 0, parent := .unknown, link := none, outcome := x.1 }] } }

/-- The records a COIL-LIST admits and selects (10.4). -/
def selectRecords (mode : ListMode) (unstamped : Bool) (rs : List ExitRec) : List ExitRec :=
  match mode with
  | .window t1 t2 => rs.filter fun r =>
      if r.close = 0 then unstamped else decide (t1.toNat ≤ r.close ∧ r.close ≤ t2.toNat)
  | .last n =>
    let admitted := rs.filter fun r => decide (r.close ≠ 0) || unstamped
    admitted.drop (admitted.length - n.toNat)

/-- The idle engine takes a COIL-LIST (R167). -/
def takeCoilList (mode : ListMode) (unstamped : Bool) (s : State) : State :=
  s.setReq fun r => { r with engine := .listing, listing := selectRecords mode unstamped s.ctr.exits, emitted := 0 }

end Sys2Proof.Machine
end

