-- ==== Sys2Proof/Machine/PeerService.lean ====
section
/-! DEFINITION. PSE, the peer service engine (chapter 6): the service queue and the answers. -/

namespace Sys2Proof.Machine

def State.setPse (s : State) (f : Pse → Pse) : State := { s with pse := f s.pse }

/-- R99 for the three request kinds. -/
def requestParses (kind : FrameKind) (payload : List Byte) : Bool :=
  match kind with
  | .lineageQuery | .descentQuery => (parseCoil payload).isSome
  | .sampleFetch => (parseFetch payload).isSome
  | _ => false

/-- The destination suits the kind (R102). -/
def destSuits (own : BitVec 6) (kind : FrameKind) (dest : BitVec 6) : Bool :=
  dest == own || (kind == .descentQuery && dest == 63)

/-- A request that joins the service queue, or is dropped from a full one (R102). -/
def serviceArrive (r : ServiceReq) (s : State) : State :=
  if s.pse.service.length < Config.serviceCap then s.setPse fun p => { p with service := p.service ++ [r] }
  else (s.setPse fun p => { p with drops := satSucc Config.max16 p.drops }).markServiceDrop r.coil

/-- A dispatched request frame (R102). -/
def takeRequest (kind : FrameKind) (source dest : BitVec 6) (tag : Byte) (payload : List Byte) (s : State) : State :=
  if requestParses kind payload && !s.bus.muted && source != s.settings.station && destSuits s.settings.station kind dest then
    serviceArrive { source, tag, kind, payload } s
  else s

/-- The reply to a LINEAGE-QUERY (R105). -/
def lineageAnswer (s : State) (c : Coil) : LineageAnswer :=
  if c.station ≠ s.settings.station then .notMine c
  else
    match s.findExit c with
    | none => .unknown c
    | some r =>
      match r.lineage with
      | some l => .record l
      | none => .pending c r.length r.close

/-- The parts of a child list (R107): ten children a part, MORE in every part but the last. `n` is fuel of at least the number
of parts. -/
def descentParts : Nat → Nat → List Child → List DescentPart
  | 0, _, _ => []
  | _, _, [] => []
  | n + 1, i, cs =>
    { more := decide (Config.childCap < cs.length), index := i, children := cs.take Config.childCap } ::
      descentParts n (i + 1) (cs.drop Config.childCap)

/-- A reply frame: class 1, to the request's source, under its tag (R100). -/
def replyFrame (r : ServiceReq) (kind : FrameKind) (payload : List Byte) : Frame :=
  { kind, dest := r.source, tag := r.tag, payload }

/-- PSE offers a reply and holds it until it has joined the transmit queue, then the parts `rest` (R103, R107); a refusal under
MUTED ends the reply (R104). -/
def pseOffer (rest : List Frame) (f : Frame) (s : State) : State :=
  if s.bus.muted then s.setPse fun p => { p with engine := .idle }
  else (s.setPse fun p => { p with engine := .holding rest }).offer f .pseReply

/-- Frames offered one at a time; none leaves the engine IDLE (R106). -/
def pseOfferAll (fs : List Frame) (s : State) : State :=
  match fs with
  | [] => s.setPse fun p => { p with engine := .idle }
  | f :: rest => pseOffer rest f s

/-- The SAMPLE-REPLY of an evaluation (R115). -/
def pseResult (r : ServiceReq) (x : FetchResult) (s : State) : State :=
  pseOffer [] (replyFrame r .sampleReply (fetchResultBytes x)) s

/-- The engine answers the request it has taken (R105, R106, R108). -/
def answerRequest (r : ServiceReq) (s : State) : State :=
  match r.kind with
  | .lineageQuery => pseOffer [] (replyFrame r .lineageReply (lineageAnswerBytes (lineageAnswer s r.coil))) s
  | .descentQuery =>
    let cs := ownChildren s r.coil
    pseOfferAll ((descentParts cs.length 0 cs).map fun p => replyFrame r .descentReply (descentPartBytes p)) s
  | .sampleFetch =>
    match parseFetch r.payload with
    | none => s
    | some f =>
      match startEval s f with
      | .stop st => pseResult r (.stopped st) s
      | .go ev => s.setPse fun p => { p with engine := .evaluating r ev }
  | _ => s

/-- In IDLE the engine takes the head request (R103). -/
def pseStep (s : State) : Option State :=
  match s.pse.engine, s.pse.service with
  | .idle, r :: rest => if s.running then some (answerRequest r (s.setPse fun p => { p with service := rest })) else none
  | _, _ => none

/-- The held reply has joined the transmit queue (R103, R107). -/
def pseJoined (s : State) : State :=
  match s.pse.engine with
  | .holding rest => pseOfferAll rest s
  | _ => s

/-- The bins of a page read reach the peer evaluator; without an evaluation they are discarded (R104, R112). -/
def deliverPeer (bins : List BinClass) (s : State) : State :=
  match s.pse.engine with
  | .evaluating r ev =>
    match ev.feed bins with
    | .more ev => s.setPse fun p => { p with engine := .evaluating r ev }
    | .finished x => pseResult r x s
  | _ => s

/-- PSE empties its queue and returns to IDLE (R104). -/
def Pse.cleared (p : Pse) : Pse := { p with service := [], engine := .idle }

end Sys2Proof.Machine
end

