-- ==== Sys2Proof/Machine/Roster.lean ====
section
/-! DEFINITION. ROS (chapter 7): PRESENCE and its answer, the plant clock and TIME frames. -/

namespace Sys2Proof.Machine

/-! ### Roll-call (R119, R122, R123) -/

/-- The own PRESENCE (R122, R123): the quantity list is the code of each enabled channel in ascending index. -/
def ownPresence (s : State) (answer cold : Bool) : Frame :=
  { kind := .presence, dest := 63, tag := 0,
    payload := presenceBytes { answer, cold, fault := s.tsc.storeFault,
                               codes := s.settings.channels.map fun d => BitVec.ofNat 8 d.quantity } }

/-- An entry after a PRESENCE whose payload passed R99 (R119). -/
def RosterEntry.presence (p : Presence) (_ : RosterEntry) : RosterEntry :=
  { state := if p.fault then .degraded else .present, codes := some p.codes }

def Owner.rosPresence : Owner → Bool
  | .rosStart | .rosAnswer => true
  | _ => false

/-- A PRESENCE of ROS stands in the transmit queue or waits for an entry (R123). -/
def State.presenceWaits (s : State) : Bool :=
  s.bus.queue.any (fun e => e.owner.rosPresence) || s.bus.waiting.any (fun e => e.owner.rosPresence)

/-- A START is answered unless MUTED is set or a PRESENCE of ROS already waits (R123). -/
def answerStart (s : State) : State :=
  if s.bus.muted || s.presenceWaits then s else s.offer (ownPresence s true false) .rosAnswer

/-- LCH drops every record of a station that has started cold (R78). -/
def dropStation (st : BitVec 6) (s : State) : State :=
  { s with lch := { s.lch with cache := s.lch.cache.filter fun r => r.coil.station != st } }

/-- The content of a dispatched PRESENCE of another station (R78, R119, R123). -/
def takePresence (source : BitVec 6) (p : Presence) (s : State) : State :=
  let s := s.updateRoster source (RosterEntry.presence p)
  if p.answer then s else answerStart (if p.cold then dropStation source s else s)

/-! ### Plant time (R124 to R127) -/

/-- One tick of the plant clock: 0 stays, the top wraps to 0 (R124). -/
def clockTick (c : Nat) : Nat := if c = 0 then 0 else if Config.max48 ≤ c then 0 else c + 1

/-- One tick of ROS (R124, R126): the time-frame timer counts at the time source while the clock is set and the part runs. -/
def Ros.tick (counts : Bool) (r : Ros) : Ros :=
  let clock := clockTick r.clock
  { r with clock, timeTimer := if r.clock ≠ 0 ∧ clock = 0 then 0
                               else if counts && decide (r.clock ≠ 0) then satSucc Config.timeFramePeriod r.timeTimer
                               else r.timeTimer }

def timeFrame (clock : Nat) : Frame := { kind := .time, dest := 63, tag := 0, payload := beBytes 6 clock }

/-- ROS sends a TIME with the clock at the offer and sets the timer to 0; it replaces an older TIME not yet sent (R126). -/
def sendTime (s : State) : State :=
  let s := { s with ros := { s.ros with timeTimer := 0 } }
  if s.bus.muted then s
  else (s.withdraw fun w => w == .rosTime).offer (timeFrame s.ros.clock) .rosTime

/-- SET-TIME at the time source (R125, R126). -/
def setClock (clock : Nat) (s : State) : State :=
  if clock = 0 then { s with ros := { s.ros with clock := 0, timeTimer := 0 } }
  else sendTime { s with ros := { s.ros with clock } }

/-- A dispatched TIME (R127). -/
def takeTime (payload : List Byte) (s : State) : State :=
  match parseTime payload with
  | none => s
  | some v => if s.settings.timeSource || v == 0 then s else { s with ros := { s.ros with clock := v } }

/-- ROS at a start (R117, R124, R126). -/
def Ros.start (own : BitVec 6) : Ros :=
  { Ros.reset with roster := Ros.reset.roster.set (own.toNat - 1) ⟨.self, none⟩ }

end Sys2Proof.Machine
end

