-- ==== Sys2Proof/Machine/BusControl.lean ====
section
/-! DEFINITION. BUS (chapter 5): reports to owners, freed entries, lost arbitration and collisions, MUTED, and the dispatch of
good frames. -/

namespace Sys2Proof.Machine

/-! ### Reports to owners (R87, R88, R92) -/

/-- The slot of an attempt still runs under the attempt's generation. -/
def sameGen (gen : Option (BitVec 2)) (tag : Byte) : Bool := gen == some (tagGen tag)

/-- BUS reports a frame sent (R88); the report of a withdrawn frame is disregarded (R93). -/
def reportSent (e : TxEntry) (s : State) : State :=
  if e.withdrawn then s
  else
    match e.owner with
    | .ctrQuery i => sentLengthQuery i e.frame.tag s
    | .reqQuery i => sentQuery i e.frame.tag s
    | .reqFetch i => sentFetch i e.frame.tag s
    | .reqDescent => sentDescent e.frame.tag s
    | .ctrAnnounce | .pseReply | .rosTime | .rosStart | .rosAnswer | .busFinal => s

/-- BUS reports a frame dropped (R87, R92, R97): a failed attempt for the slots, a new copy for a START (R122), nothing for the
others (R57, R103, R123, R126). -/
def reportDropped (e : TxEntry) (s : State) : State :=
  if e.withdrawn then s
  else
    match e.owner with
    | .ctrQuery i => if sameGen ((s.ctr.slots[i]?).map (·.gen)) e.frame.tag then failLengthQuery i true s else s
    | .reqQuery i => if sameGen ((s.req.queries[i]?).map (·.gen)) e.frame.tag then failQuery i true s else s
    | .reqFetch i => if sameGen ((s.req.fetches[i]?).map (·.gen)) e.frame.tag then failFetch i true s else s
    | .reqDescent =>
      if s.req.collector.state = .offering ∧ e.frame.tag = collectorTag s.req.collector then failDescent s else s
    | .rosStart => if s.bus.muted then s else s.offer e.frame .rosStart
    | .ctrAnnounce | .pseReply | .rosTime | .rosAnswer | .busFinal => s

/-! ### Freed entries (R91) -/

/-- A waiting frame joins the queue; PSE goes on after its reply (R103). -/
def joinWaiting (j : Nat) (e : TxEntry) (s : State) : State :=
  let s := State.join e.frame e.owner { s with bus := { s.bus with waiting := s.bus.waiting.eraseIdx j } }
  if e.owner = .pseReply then pseJoined s else s

/-- The announce-pending record `r` joins the queue and its mark is cleared (R56). -/
def joinAnnounce (r : LineageRec) (s : State) : State :=
  State.join (announceFrame r) .ctrAnnounce
    { s with ctr := { s.ctr with exits := s.ctr.exits.map (setAnnounce false r.coil) } }

/-- The announce-pending record CTR offers, if the part is not MUTED (R56). -/
def State.pendingAnnounce (s : State) : Option LineageRec := if s.bus.muted then none else s.ctr.firstPending

/-- An entry is free: it goes to the waiting frame of lowest class that has waited longest, the announce-pending offer being of
class 3 (R91). -/
def fillStep (s : State) : Option State :=
  if !s.running || decide (Config.txCap ≤ s.bus.queue.length) then none
  else
    match lowestClass s.bus.waiting, s.pendingAnnounce with
    | some (j, k), some r =>
      if k ≤ 3 then (s.bus.waiting[j]?).map fun e => joinWaiting j e s else some (joinAnnounce r s)
    | some (j, _), none => (s.bus.waiting[j]?).map fun e => joinWaiting j e s
    | none, some r => some (joinAnnounce r s)
    | none, none => none

/-! ### The frame on the line (R85 to R88) -/

/-- The frame on the line leaves it and stays queued where it stood. -/
def offLine (place : Nat) (e : TxEntry) (s : State) : State :=
  { s with bus := { s.bus with queue := s.bus.queue.set place { e with onLine := false } } }

/-- A frame leaves the queue as dropped with a fault of BUS (R87, R92). -/
def dropFrame (place : Nat) (e : TxEntry) (kind : FaultKind) (s : State) : State :=
  reportDropped e ((s.removeTx place).writeFault kind .bus none none)

/-- A frame that has lost arbitration or collided without reaching its collision limit returns to the queue, unless its queue-wait
limit has passed (R92) or it was withdrawn (R93): a withdrawn one leaves without a report and without a fault, past its limit too
(assumption 44). -/
def returnToQueue (place : Nat) (e : TxEntry) (s : State) : State :=
  if e.withdrawn then s.removeTx place
  else if s.settings.queueWait ≤ e.wait then dropFrame place e .txWait s
  else offLine place e s

/-- Lost arbitration (R86): this station drives 1 and goes on receiving. -/
def loseArbitration (place : Nat) (e : TxEntry) (s : State) : State :=
  returnToQueue place e { s with bus := { s.bus with driven := true, observed := false } }

/-- A collision (R87). A third one drops the frame with BUS-COLLISION, past its queue-wait limit too (assumption 45); a withdrawn
frame leaves by R93, without a fault (assumption 44). -/
def collide (place : Nat) (e : TxEntry) (s : State) : State :=
  let s := { s with bus := { s.bus with collisions := satSucc Config.max16 s.bus.collisions, driven := true } }
  let e := { e with collisions := e.collisions + 1 }
  if !e.withdrawn && decide (Config.collisionLimit ≤ e.collisions) then dropFrame place e .busCollision s
  else returnToQueue place e s

/-- The frame has been driven to the end of its end field (R88); the receiver has the end field too and hunts (R80). -/
def sendFrame (place : Nat) (e : TxEntry) (s : State) : State :=
  let s := { s with bus := { s.bus with rx := .hunt, driven := true, observed := true } }
  reportSent e (s.removeTx place)

/-- Eleven recessive bit times (R80, R85, R89). -/
def becomeIdle (s : State) : State :=
  State.startHead { s with bus := { s.bus with rx := .idle, stuck := false, driven := true, observed := true } }

/-- Sixty-four dominant bit times (R89). -/
def becomeStuck (s : State) : State :=
  State.writeFault .busStuck .bus none none { s with bus := { s.bus with rx := .hunt, stuck := true, driven := true, observed := false } }

/-- A bad frame (R84). -/
def discardBadFrame (s : State) : State :=
  State.markBadFrame { s with bus := { s.bus with rx := .hunt, badFrames := satSucc Config.max16 s.bus.badFrames } }

/-! ### Duplicate station numbers (R96, R97) -/

/-- MUTED is set: every queued and waiting frame is discarded and reported dropped, PSE is cleared (R104), and the final
PRESENCE is enqueued (R97). -/
def becomeMuted (s : State) : State :=
  let gone := s.bus.queue ++ s.bus.waiting
  let s := s.writeFault .duplicateStation .bus none none
  let s := { s with bus := { s.bus with muted := true, queue := [], waiting := [] }, pse := s.pse.cleared }
  let s := gone.foldl (fun s e => reportDropped e s) s
  s.join (ownPresence s true false) .busFinal

/-! ### Reception (R95) -/

/-- A LINEAGE-REPLY goes to LCH when its status is RECORD (R75), then to the owner of its tag's unit (R95). -/
def takeLineageReply (source : BitVec 6) (tag : Byte) (payload : List Byte) (s : State) : State :=
  match parseLineageAnswer payload with
  | none => s
  | some a =>
    let s := match a with
      | .record r => s.keepRecord source r
      | _ => s
    if tagUnit tag = 1 then queryReply source tag a s else if tagUnit tag = 2 then lengthReply source tag a s else s

/-- A COIL-ANNOUNCE is kept when a template selects it or its coil is held (R73, R74). -/
def takeAnnounce (source : BitVec 6) (payload : List Byte) (s : State) : State :=
  match if highBits payload 0 = 0 then parseRecord payload else none with
  | none => s
  | some r =>
    if s.lch.templates.any (fun t => t.selects r.coil) || s.lch.cache.any (fun x => x.coil == r.coil) then s.keepRecord source r
    else s

/-- A good frame addressed to this station or to all goes to the blocks of its kind (R95), which check its payload (R99). -/
def dispatch (kind : FrameKind) (source dest : BitVec 6) (tag : Byte) (payload : List Byte) (s : State) : State :=
  match kind with
  | .time => takeTime payload s
  | .lineageReply => takeLineageReply source tag payload s
  | .sampleReply =>
    match parseFetchResult payload with
    | none => s
    | some x => fetchReply source tag x s
  | .descentReply =>
    match parseDescentPart payload with
    | none => s
    | some x => descentReply source tag x s
  | .lineageQuery | .sampleFetch | .descentQuery => takeRequest kind source dest tag payload s
  | .coilAnnounce => takeAnnounce source payload s
  | .presence =>
    match parsePresence payload with
    | none => s
    | some p => if source = s.settings.station then s else takePresence source p s

/-- A good frame this station did not send (R88, R95 to R97). `kind` is none for an undefined kind or class. -/
def receiveFrame (kind : Option FrameKind) (source dest : BitVec 6) (tag : Byte) (payload : List Byte) (s : State) : State :=
  let s := { s with bus := { s.bus with rx := .hunt, driven := true, observed := true } }
  if !busStation source then s
  else if source = s.settings.station ∧ kind = some .presence then (if s.bus.muted then s else becomeMuted s)
  else
    let s := s.updateRoster source RosterEntry.heard
    match kind with
    | none => s
    | some k => if dest = s.settings.station ∨ dest = 63 then dispatch k source dest tag payload s else s

/-- The receiver's judgement of observed bits (R84, R95): a bad frame is counted, an unfinished one leaves the receiver
RECEIVING, a good one is taken. -/
def receiveBits (bits : List Bool) (s : State) : State :=
  match judge bits with
  | .bad => discardBadFrame s
  | .incomplete => { s with bus := { s.bus with rx := .receiving } }
  | .good f => receiveFrame (FrameKind.ofCode f.cls f.kind) f.source f.dest f.tag f.payload s

/-- BUS leaves the line (R79, R94): frames queued, waiting and under way are gone. -/
def Bus.abandoned (b : Bus) : Bus := { b with rx := .hunt, queue := [], waiting := [], driven := true }

end Sys2Proof.Machine
end

