-- ==== Sys2Proof/Machine/Console.lean ====
section
/-! DEFINITION. CON, and REQ's output and ABORT (R132, R152 to R155, R162, R166, R168, R169, R170 to R175). -/

namespace Sys2Proof.Machine

/-! ### STATUS-REPORT (R174) -/

/-- The line of an enabled channel in a report (R4, R21, R174). -/
def channelReport (s : State) (d : ChannelDef) : ChannelReport :=
  { index := d.index, quantity := d.quantity, stepCode := d.stepCode, openBin := d.openBin s.smp.odometer,
    horizon := ((s.tsc.chan d.index).map (·.horizon)).getD 0 }

/-- A frame of this station is on the line (R85). -/
def State.sending (s : State) : Bool := (onLinePlace s.bus.queue).isSome

/-- The line was last seen recessive and this station has driven nothing since (R79, R80). -/
def State.lineRests (s : State) : Bool := s.running && decide (s.bus.rx = .idle) && !s.sending

/-- The driven value in the bit of the report (R79): 1 without a frame on the line, a free level within a frame
(assumption 3). -/
def State.drivenNow (s : State) : Bool := if s.sending then Config.freeLevel s.freeSeq else s.bus.driven

/-- The observed value in the bit of the report (R79): free where the line is not at rest (assumption 3). -/
def State.observedNow (s : State) : Bool := if s.lineRests then s.bus.observed else Config.freeLevel (s.freeSeq + 1)

/-- A STATUS-REPORT with the values current now (R174); a channel table not yet loaded shows no enabled channel. -/
def assembleStatus (s : State) : StatusReport :=
  { part := s.sup.part, station := s.settings.station, muted := s.bus.muted, stuck := s.bus.stuck, driven := s.drivenNow,
    observed := s.observedNow, standstill := decide (s.smp.sampler = .standstill), storeFault := s.tsc.storeFault,
    odometer := s.smp.odometer, fraction := s.smp.fraction, debt := s.smp.debt, clock := s.ros.clock,
    badFrames := s.bus.badFrames, collisions := s.bus.collisions, serviceDrops := s.pse.drops, lfErrors := s.lfr.errors,
    faultCount := s.sup.faultCount, fault := s.sup.fault,
    channels := if s.settings.tableLoaded then s.settings.channels.map (channelReport s) else [], roster := s.ros.roster }

/-! ### The output queue (R171, R173) -/

def State.setCon (s : State) (f : Con → Con) : State := { s with con := f s.con }

def State.outFree (s : State) : Bool := decide (s.con.out.length < Config.outCap)

/-- A record joins the output queue (R173). -/
def State.emit (r : Response) (s : State) : State := s.setCon fun c => { c with out := c.out ++ [r] }

/-- CON's record joins the output queue: a pending REFUSE OVERRUN ahead of the answer of the complete buffer (R173). -/
def conStep (s : State) : Option State :=
  if !s.outFree then none
  else
    match s.con.overrun, s.con.complete with
    | some k, _ => some ((s.setCon fun c => { c with overrun := none }).emit (.refuse k .overrun))
    | none, some ⟨_, .place r⟩ => some ((s.setCon fun c => { c with complete := none }).emit r)
    | none, some ⟨_, .report⟩ =>
      let r := assembleStatus s
      let s := { s with freeSeq := s.freeSeq + 2 }
      some ((s.setCon fun c => { c with complete := none }).emit (.statusReport r))
    | none, none => none

/-! ### REQ's records (R132, R133, R152 to R154, R162, R166, R168) -/

/-- The engine is IDLE and the request's working data is empty; slots keep their generations (R128, R153). -/
def Req.idled (r : Req) : Req :=
  { r with engine := .idle, play := .empty, refusal := none, acceptDue := false, aborting := false, depths := [],
           plan := none, issue := [], emitDepth := 0, emitIndex := 0, counts := [0, 0, 0, 0, 0], walk := .empty,
           listing := [], emitted := 0 }

/-- A record REQ offers, and REQ once it has joined the output queue. -/
abbrev Offered := Response × Req

/-- TRACE-END with its two counts (R153). -/
def traceEnd (depth : Nat) (t : DepthTable) : Response :=
  let withData := (t.results.filter fun x => (x.map Result.hasData).getD false).length
  .traceEnd depth withData (t.results.length - withData)

/-- The next record of a playback (R152, R153). -/
def nextTrace (r : Req) : Option Offered :=
  if r.acceptDue then
    some (.accept r.play.points r.play.depth r.play.bound (decide (r.play.bound < r.play.b)), { r with acceptDue := false })
  else if r.aborting then some (.playbackEnd true r.counts, r.idled)
  else if r.play.depth < r.emitDepth then some (.playbackEnd false r.counts, r.idled)
  else
    match r.depths[r.emitDepth]? with
    | none => none
    | some t =>
      match t.results[r.emitIndex]? with
      | none => some (traceEnd r.emitDepth t, { r with emitDepth := r.emitDepth + 1, emitIndex := 0 })
      | some none => none
      | some (some x) =>
        some (.tracePoint r.emitDepth r.emitIndex x,
          { r with emitIndex := r.emitIndex + 1, counts := r.counts.modify r.emitDepth (· + 1) })

/-- A GEN-ENTRY whose place gives only coil, depth, parent and link. -/
def bareEntry (p : Place) (flag : GenFlag) : GenEntry :=
  { depth := p.depth, coil := p.coil, parent := p.parent, link := p.link, length := 0, close := 0, stop := 0, lane := 0,
    timedOut := false, flag }

/-- The GEN-ENTRY of a settled place (R162, R166); none while it is LOOKING. -/
def Place.entry (p : Place) : Option GenEntry :=
  match p.outcome with
  | .looking => none
  | .record r => some { bareEntry p .none with length := r.length, close := r.close, stop := r.stop, lane := r.lane,
                                               timedOut := r.timedOut }
  | .pending length close stop lane => some { bareEntry p .pending with length, close, stop, lane }
  | .unknown => some (bareEntry p .unknown)
  | .unreachable => some (bareEntry p .unreachable)
  | .origin => some (bareEntry p .origin)
  | .child lane length pending => some { bareEntry p (if pending then .pending else .none) with length, lane }
  | .root => some (bareEntry p .none)

/-- The next record of a walk (R162, R166, R169): GEN-END when every place is emitted and none is due. -/
def nextGen (r : Req) : Option Offered :=
  if r.aborting then some (.genEnd .aborted r.emitted r.walk.dropped, r.idled)
  else
    match r.walk.places[r.emitted]? with
    | some p => p.entry.map fun e => (.genEntry e, { r with emitted := r.emitted + 1 })
    | none =>
      if r.walk.places.length ≤ r.walk.expanded ∧ r.collector.state = .idle then
        some (.genEnd (if r.walk.truncated then .truncated else .complete) r.emitted r.walk.dropped, r.idled)
      else none

/-- The next record of a listing (R168, R169). -/
def nextList (r : Req) : Option Offered :=
  if r.aborting then some (.listEnd true r.emitted, r.idled)
  else
    match r.listing[r.emitted]? with
    | some x => some (.listEntry x, { r with emitted := r.emitted + 1 })
    | none => some (.listEnd false r.emitted, r.idled)

/-- REQ's next record, if one is ready (R132, R152, R162, R166, R168). -/
def nextRecord (r : Req) : Option Offered :=
  match r.engine with
  | .idle => none
  | .resolving => r.refusal.map fun why => (.refuse 0x01 why, r.idled)
  | .playing => nextTrace r
  | .walkingUp | .walkingDown => nextGen r
  | .listing => nextList r

/-- REQ's record joins the output queue where an entry is free and CON does not want it (R154, R173). -/
def emitStep (s : State) : Option State :=
  if s.outFree && s.con.overrun.isNone && s.con.complete.isNone then
    (nextRecord s.req).map fun x => (s.setReq fun _ => x.2).emit x.1
  else none

/-! ### ABORT (R132, R155, R169) -/

def Owner.query : Owner → Bool
  | .reqQuery _ => true
  | _ => false

def Owner.fetch : Owner → Bool
  | .reqFetch _ => true
  | _ => false

/-- A busy slot steps its generation and becomes idle. -/
def QuerySlot.abandon (x : QuerySlot) : QuerySlot := if x.busy.isSome then ⟨x.gen + 1, none⟩ else x

def FetchSlot.abandon (x : FetchSlot) : FetchSlot := if x.busy.isSome then ⟨x.gen + 1, none⟩ else x

/-- ABORT in RESOLVING (R132). -/
def abortResolving (s : State) : State :=
  if s.req.refusal = some .aborted then s
  else
    (s.withdraw Owner.query).setReq fun r =>
      { r with queries := r.queries.map QuerySlot.abandon, refusal := some .aborted }

/-- ABORT in PLAYING (R155). -/
def abortPlaying (s : State) : State :=
  if s.req.aborting then s
  else
    (s.withdraw fun w => w.query || w.fetch).setReq fun r =>
      cancelLocal s.tsc.transfer
        { r with aborting := true, acceptDue := false, plan := none, issue := [],
                 queries := r.queries.map QuerySlot.abandon, fetches := r.fetches.map FetchSlot.abandon }

/-- ABORT in WALKING-UP, WALKING-DOWN or LISTING (R169). -/
def abortWalk (s : State) : State :=
  if s.req.aborting then s
  else
    (s.withdraw fun w => w.query || w == .reqDescent).setReq fun r =>
      { r with aborting := true, queries := r.queries.map QuerySlot.abandon, collector := r.collector.abandon,
               walk := { r.walk with places := [] }, listing := [] }

/-- ABORT passed to REQ with a request in hand (R175). -/
def abortRequest (s : State) : State :=
  match s.req.engine with
  | .idle => s
  | .resolving => abortResolving s
  | .playing => abortPlaying s
  | .walkingUp | .walkingDown | .listing => abortWalk s

/-! ### Requests (R171, R172, R175) -/

def ConRecord.kind : ConRecord → Byte
  | .cutShort k | .badCheck k | .badFormat k => k
  | .request r => r.kind

/-- The record takes the complete buffer until its answer joins the output queue, at once where an entry is free (R172, R173).
The row of R172 is chosen, and acts, as the record arrives, also where its answer must wait (assumption 46). -/
def State.answer (rec : ConRecord) (a : Answer) (s : State) : State :=
  let s := s.setCon fun c => { c with complete := some ⟨rec, a⟩ }
  (conStep s).getD s

def State.refuseCon (rec : ConRecord) (why : Reason) (s : State) : State := s.answer rec (.place (.refuse rec.kind why))

/-- A request of REQ's, in RUN or RUN-DEGRADED (R172 rows 5 and 6). -/
def passToReq (q : Request) (take : State → State) (s : State) : State :=
  if s.req.engine = .idle then take s else s.refuseCon (.request q) .busy

/-- DONE with the request's kind (R175). -/
def placeDone (q : Request) (s : State) : State := s.answer (.request q) (.place (.done q.kind))

/-- ABORT (R175). -/
def takeAbort (s : State) : State :=
  if s.req.engine = .idle then placeDone .abort s else abortRequest s

/-- CLEAR-FAULT (R175). -/
def takeClearFault (s : State) : State := placeDone .clearFault { s with sup := s.sup.clearFaults }

/-- SET-TIME (R125, R175). -/
def takeSetTime (clock : Nat) (s : State) : State :=
  if s.settings.timeSource then placeDone (.setTime clock) (setClock clock s)
  else s.refuseCon (.request (.setTime clock)) .notTimeSource

/-- A well-formed request, the link running (R172 rows 3 to 7). -/
def takeRequestRecord (q : Request) (s : State) : State :=
  if q = .status then s.answer (.request q) .report
  else if !s.running then s.refuseCon (.request q) .notRunning
  else
    match q with
    | .status => s.answer (.request q) .report
    | .playback c quantity a b step depth => passToReq q (takePlayback c quantity a b step depth) s
    | .genealogy c up depth => passToReq q (takeGenealogy c up depth) s
    | .coilList mode unstamped => passToReq q (takeCoilList mode unstamped) s
    | .abort => takeAbort s
    | .clearFault => takeClearFault s
    | .setTime clock => takeSetTime clock s

/-- The record in the complete buffer by the first row of R172 that applies. -/
def processRecord (rec : ConRecord) (s : State) : State :=
  match rec with
  | .cutShort _ => s.refuseCon rec .format
  | .badCheck _ => s.refuseCon rec .check
  | .badFormat _ => s.refuseCon rec .format
  | .request q => takeRequestRecord q s

/-- A record completes while the complete buffer is occupied (R171). -/
def overrunRecord (kind : Byte) (s : State) : State :=
  if s.con.overrun.isSome then s
  else if s.outFree then s.emit (.refuse kind .overrun)
  else s.setCon fun c => { c with overrun := some kind }

/-- A console record is complete (R170 to R172); where the link does not run, or the reset input is held, it is ignored (R177). -/
def conReceive (rec : ConRecord) (s : State) : State :=
  if !s.linkRuns then s
  else if s.con.complete.isSome then overrunRecord rec.kind s
  else processRecord rec s

/-! ### The receive assembler (R170, R185) -/

/-- The assembler's record is complete: it is handed on, and the assembler hunts (R170). -/
def conComplete (rec : ConRecord) (s : State) : State := conReceive rec (s.setCon fun c => { c with assembler := none })

/-- One byte of the console link (R170, R185): in HUNTING anything but 3CH is discarded, in ASSEMBLING every byte is taken. -/
def conByte (s : State) (b : Byte) : State :=
  if !s.linkRuns then s
  else
    match s.con.assembler with
    | none => if b = Config.requestStart then s.setCon fun c => { c with assembler := some [] } else s
    | some got =>
      if recordComplete (got ++ [b]) then conComplete (judgeConsole (got ++ [b]) false) s
      else s.setCon fun c => { c with assembler := some (got ++ [b]) }

/-- A byte with a framing error (R170): it cuts the record in hand short; in HUNTING it is no start byte (assumption 26). -/
def conBadByte (b : Byte) (s : State) : State :=
  if !s.linkRuns then s
  else
    match s.con.assembler with
    | none => s
    | some got => conComplete (judgeConsole (got ++ [b]) true) s

/-- 100 ms without a byte (R170): a record in hand is cut short. -/
def conSilence (s : State) : State :=
  if !s.linkRuns then s
  else
    match s.con.assembler with
    | none => s
    | some got => conComplete (judgeConsole got true) s

/-- The bytes of a console record that is no good one, the last of them with a framing error where `framingError` says so. -/
def conBytes (bytes : List Byte) (framingError : Bool) (s : State) : State :=
  match framingError, bytes.getLast? with
  | true, some b => conBadByte b (bytes.dropLast.foldl conByte s)
  | _, _ => bytes.foldl conByte s

/-- A whole record with a good CRC: `rec` for an assembler that hunts; one that has a record in hand takes its bytes into that
(R170). -/
def conWhole (rec : ConRecord) (kind : Byte) (payload : List Byte) (s : State) : State :=
  match s.con.assembler with
  | none => conReceive rec s
  | some _ => (requestBytes kind payload).foldl conByte s

/-- The head record's last byte has been sent (R173). -/
def recordSent (s : State) : State := s.setCon fun c => { c with out := c.out.tail }

/-- CON at a start or in SUPPLY-LOW: HUNTING, both buffers and the output queue empty, mark clear (R170, R171, R173). -/
def Con.emptied : Con := Con.reset

end Sys2Proof.Machine
end

