-- ==== Sys2Proof/Machine/Sampling.lean ====
section
/-! DEFINITION. SMP (chapter 1): the strip odometer, standstill, sample accumulation and bin closing. -/

namespace Sys2Proof.Machine

/-! ### Accumulators (R10 to R13) -/

/-- An open bin without samples or flags (R14 step 3). -/
def Acc.empty : Acc := { sum := 0, count := 0, extrema := none, stop := false, sat := false }

/-- One accepted value (R12, R13). -/
def Acc.accept (v : Int) (a : Acc) : Acc :=
  if a.count < Config.max16 then { a with sum := a.sum + v, count := a.count + 1, extrema := widen v a.extrema }
  else { a with extrema := widen v a.extrema, sat := true }

/-- A channel at a start: no samples, STOP, last mean absent (R7, R11, R17). -/
def SmpChan.fresh (i : Nat) : SmpChan := { index := i, acc := { Acc.empty with stop := true }, lastMean := none }

/-- STOP on the open bin (R17). -/
def SmpChan.stopped (c : SmpChan) : SmpChan := { c with acc := { c.acc with stop := true } }

/-- The value of a sample entry; −32,768 is "no reading" (R12). -/
def sampleReading (e : SampleEntry) : Option Int :=
  if e.value.toInt = -32768 then none else some e.value.toInt

/-- One entry of a sample set into the open bins (R12). -/
def takeSample (chans : List SmpChan) (e : SampleEntry) : List SmpChan :=
  match sampleReading e with
  | none => chans
  | some v => chans.map fun c => if c.index = e.channel.toNat then { c with acc := c.acc.accept v } else c

/-- SMP takes a sample set (R12); in STANDSTILL it is discarded. -/
def Smp.takeSamples (es : List SampleEntry) (m : Smp) : Smp :=
  match m.sampler with
  | .standstill => m
  | .moving => { m with chans := es.foldl takeSample m.chans }

/-! ### Closing bins (R14 to R16) -/

/-- A bin closed without samples: HELD with the last mean, VOID without one (R16). -/
def unsampledBin (last : Option Int) (stop : Bool) : Bin :=
  match last with
  | some m => { mean := m, least := m, most := m, flags := ⟨true, false, stop, false⟩ }
  | none => { mean := 0, least := 0, most := 0, flags := ⟨false, true, stop, false⟩ }

/-- The bin an accumulator closes as, and the last mean after it (R11, R15, R16). -/
def Acc.close (last : Option Int) (a : Acc) : Bin × Option Int :=
  if 0 < a.count then
    let mean := roundDiv a.sum a.count
    let ext := a.extrema.getD (0, 0)
    ({ mean, least := ext.1, most := ext.2, flags := ⟨false, false, a.stop, a.sat⟩ }, some mean)
  else (unsampledBin last a.stop, last)

/-- One channel at a whole-mm advance from `oa` to `ob` (R14): its state after, and the bins closed with their indices. -/
def closeChannel (d : ChannelDef) (oa ob : Nat) (c : SmpChan) : SmpChan × List (Nat × Bin) :=
  let ka := d.openBin oa
  let kb := d.openBin ob
  if ka < kb then
    let closed := c.acc.close c.lastMean
    ({ c with acc := .empty, lastMean := closed.2 },
      (ka, closed.1) :: (List.range (kb - ka - 1)).map fun n => (ka + 1 + n, unsampledBin closed.2 false))
  else (c, [])

/-- `closeChannel` with the channel's definition looked up. -/
def advanceChannel (g : Settings) (oa ob : Nat) (c : SmpChan) : SmpChan × List (Nat × Bin) :=
  match g.channel c.index with
  | none => (c, [])
  | some d => closeChannel d oa ob c

/-- TSC takes the bins one channel closed (R18). -/
def handBins (g : Settings) (ob : Nat) (s : State) (x : SmpChan × List (Nat × Bin)) : State :=
  match g.channel x.1.index with
  | none => s
  | some d => x.2.foldl (fun s kb => takeBin x.1.index (d.openBin ob) kb.1 kb.2 s) s

/-- A whole-mm advance to `ob` (R5, R6, R14, R18): MOVING, standstill timer 0, bins closed channel by channel in ascending
index and handed to TSC. The fields O, F and D are set by the caller. -/
def wholeAdvance (oa ob : Nat) (s : State) : State :=
  let closed := s.smp.chans.map (advanceChannel s.settings oa ob)
  let s := { s with smp := { s.smp with sampler := .moving, timer := 0, chans := closed.map (·.1) } }
  followOpenBins (closed.foldl (handBins s.settings ob) s)

/-- A forward pulse (R1, R2). At the top of the odometer a carry is discarded and F is 255; a carry that would pass the top
stops there. -/
def forwardPulse (s : State) : State :=
  let m := s.smp
  let w := s.settings.pulseWeight
  if w ≤ m.debt then { s with smp := { m with debt := m.debt - w } }
  else
    let t := m.fraction + (w - m.debt)
    let carry := t / 256
    let ob := min (m.odometer + carry) Config.max48
    let frac := if Config.max48 < m.odometer + carry then 255 else t % 256
    let moved := { s with smp := { m with odometer := ob, fraction := frac, debt := 0 } }
    if m.odometer < ob then wholeAdvance m.odometer ob moved else moved

/-- A reverse pulse (R3). -/
def reversePulse (s : State) : State :=
  { s with smp := { s.smp with debt := min (s.smp.debt + s.settings.pulseWeight) Config.maxDebt } }

/-- The sampler enters STANDSTILL: every open bin takes STOP (R5, R17). -/
def Smp.enterStandstill (m : Smp) : Smp := { m with sampler := .standstill, chans := m.chans.map SmpChan.stopped }

/-- SMP at a start (R1, R7, R9, R11): a cold start zeroes the odometer, fraction, debt and segment stop time. -/
def Smp.start (cold : Bool) (g : Settings) (m : Smp) : Smp :=
  { odometer := if cold then 0 else m.odometer, fraction := if cold then 0 else m.fraction,
    debt := if cold then 0 else m.debt, sampler := .standstill, timer := 0, stopTime := if cold then 0 else m.stopTime,
    chans := g.channels.map fun d => .fresh d.index }

/-- SMP's part of a tick (R5, R8): the tick that brings the timer of a MOVING sampler to the standstill time enters
STANDSTILL. -/
def Smp.tick (standstillTime : Nat) (m : Smp) : Smp :=
  match m.sampler with
  | .moving =>
    let m := { m with timer := satSucc standstillTime m.timer }
    if standstillTime ≤ m.timer then m.enterStandstill else m
  | .standstill => { m with stopTime := satSucc Config.max32 m.stopTime }

end Sys2Proof.Machine
end

