-- ==== Sys2Proof/Machine/Startup.lean ====
section
/-! DEFINITION. SUP: the configuration image, starts, the store self-test and the supply (11.4, 11.5, 12.7, 2.5, 2.7). -/

namespace Sys2Proof.Machine

/-! ### The configuration image (R178, R180, 12.7) -/

/-- Word `i` of an image; a word that is not answered reads as all ones (R178). -/
def imageWord (image : List (BitVec 16)) (i : Nat) : Nat := (image.getD i 0xFFFF).toNat

/-- Ones' complement addition with end-around carry (R178). -/
def onesAdd (a b : Nat) : Nat := if 65536 ≤ a + b then a + b - 65535 else a + b

/-- Ones' complement sum of the 90 words (R178). -/
def imageSum (image : List (BitVec 16)) : Nat := ((List.range Config.imageWords).map (imageWord image)).foldl onesAdd 0

/-- A fatal image (R178). -/
def imageFatal (image : List (BitVec 16)) : Bool :=
  imageWord image 0 != 0x0742 || imageSum image != 0xFFFF || imageWord image 1 == 0 || decide (63 ≤ imageWord image 1)

/-- The image checksum over the 180 bytes, most significant byte first (R179, 12.7). -/
def imageChecksum (image : List (BitVec 16)) : BitVec 16 :=
  crcBytes ((List.range Config.imageWords).flatMap fun i => beBytes 2 (imageWord image i))

/-- A field clamped to its range, and the CONFIG faults that writes (R180). -/
def clampField (lo hi v : Nat) : Nat × Nat := (min (max v lo) hi, if v < lo ∨ hi < v then 1 else 0)

/-- The channels taken so far, ascending, and the CONFIG faults they wrote (R180). -/
abbrev ChannelTable := List ChannelDef × Nat

/-- Channel `i` from its word (R180): unused, disabled with a fault, or enabled. -/
def takeChannel (image : List (BitVec 16)) (t : ChannelTable) (i : Nat) : ChannelTable :=
  let w := imageWord image (9 + i)
  let q := w / 256
  if q = 0 then t
  else if 7 < w % 256 ∨ t.1.any (fun d => d.quantity == q) then (t.1, t.2 + 1)
  else (t.1 ++ [{ index := i, quantity := q, stepCode := w % 256 }], t.2)

def channelTable (image : List (BitVec 16)) : ChannelTable := (List.range 32).foldl (takeChannel image) ([], 0)

/-- Two words as a 32-bit sequence, the first the more significant (12.7). -/
def wordPair (image : List (BitVec 16)) (i : Nat) : BitVec 32 :=
  BitVec.ofNat 32 (imageWord image i * 65536 + imageWord image (i + 1))

/-- Template `t` (12.7, R71). -/
def imageTemplate (image : List (BitVec 16)) (t : Nat) : Template :=
  { enable := decide (32768 ≤ imageWord image (41 + 6 * t)),
    base := ⟨BitVec.ofNat 6 (imageWord image (41 + 6 * t)), wordPair image (42 + 6 * t)⟩,
    mask := ⟨BitVec.ofNat 6 (imageWord image (44 + 6 * t)), wordPair image (45 + 6 * t)⟩ }

/-- The settings of a non-fatal image (R180). -/
def imageSettings (image : List (BitVec 16)) : Settings :=
  { station := BitVec.ofNat 6 (imageWord image 1)
    busRate := BitVec.ofNat 2 (imageWord image 2)
    lfRate := BitVec.ofNat 2 (imageWord image 2 / 4)
    timeSource := decide (imageWord image 2 / 16 % 2 = 1)
    pulseWeight := (clampField 1 65535 (imageWord image 3)).1
    standstillTime := (clampField 100 60000 (imageWord image 4)).1
    finalHours := (clampField 1 24 (imageWord image 5)).1
    replyTimeout := (clampField 10 1000 (imageWord image 6)).1
    retryLimit := imageWord image 7 % 4
    storeCode := (clampField 0 2 (imageWord image 7 / 256 % 4)).1
    queueWait := (clampField 50 2000 (imageWord image 8)).1
    channels := (channelTable image).1
    tableLoaded := true }

/-- The CONFIG faults of a non-fatal image: one for each field clamped and each channel disabled (R180, 12.7). -/
def imageFaults (image : List (BitVec 16)) : Nat :=
  (if 32 ≤ imageWord image 2 then 1 else 0) + (clampField 1 65535 (imageWord image 3)).2 +
    (clampField 100 60000 (imageWord image 4)).2 + (clampField 1 24 (imageWord image 5)).2 +
    (clampField 10 1000 (imageWord image 6)).2 + (clampField 0 2 (imageWord image 7 / 256 % 4)).2 +
    (clampField 50 2000 (imageWord image 8)).2 + (channelTable image).2

/-! ### Blocks leaving their running work (R94, R104, R116, R128, R157, R159, R164, R171, R173) -/

/-- REQ abandons the request in hand; slots and the collector keep their generations (R128, R144, R164). -/
def Req.abandoned (r : Req) : Req :=
  { r.idled with
      fetches := r.fetches.map fun x => { x with busy := none }
      queries := r.queries.map fun x => { x with busy := none }
      localOrder := []
      localEval := .idle
      collector := { r.collector with state := .idle, tries := 0, quiet := 0, overall := 0, parts := [] } }

/-- Every block leaves its running work; what the retained contents hold stays (R177, R182). -/
def leaveRunning (s : State) : State :=
  { s with bus := s.bus.abandoned, pse := s.pse.cleared, req := s.req.abandoned, con := .emptied,
           tsc := { s.tsc with transfer := none }, lfr := { s.lfr with assembler := [] } }

/-! ### Starts (R179 and each block's start rule) -/

/-- REQ at a start (R128, R157, R164). -/
def Req.start (cold : Bool) (r : Req) : Req := if cold then Req.reset else r.abandoned

/-- The test buffer written back into the marked slot, which is live (R31). -/
def Tsc.restored (t : Tsc) : List (Nat × Page) :=
  match t.testMark with
  | none => t.ring
  | some (slot, page) => t.ring.map fun e => if e.1 = slot then (slot, page) else e

/-- TSC at a start with the settings and odometer of the start (R25, R31, R33 to R35): kept only at a warm start that finds the
store-intact mark set. -/
def Tsc.start (cold : Bool) (g : Settings) (odometer : Nat) (t : Tsc) : Tsc :=
  let kept := if !cold && t.intact then { t with ring := t.restored, transfer := none } else t.emptied g odometer
  { kept with mark := .localEval, storeFault := false, intact := true, testMark := none }

/-- LFR at a start (R36, R37). -/
def Lfr.start (cold : Bool) (l : Lfr) : Lfr := { assembler := [], errors := 0, lastPos := if cold then 0 else l.lastPos }

/-- LCH at a start: the cache is empty, the templates are the image's (R71, R76). -/
def Lch.start (image : List (BitVec 16)) : Lch := { cache := [], templates := (List.range 8).map (imageTemplate image) }

/-- SUP at the decision of R179: checksum stored, retention mark set, and a cold start empties the fault record. -/
def Sup.decide (cold : Bool) (checksum : BitVec 16) (u : Sup) : Sup :=
  let u := if cold then u.clearFaults else u
  { u with part := .checking, retention := true, checksum, coldStart := cold }

/-- Every block takes the values of the start (R179). -/
def startBlocks (cold : Bool) (image : List (BitVec 16)) (s : State) : State :=
  let g := imageSettings image
  let smp := s.smp.start cold g
  { s with
      settings := g
      smp
      tsc := s.tsc.start cold g smp.odometer
      lfr := s.lfr.start cold
      ctr := s.ctr.start cold g
      lch := .start image
      bus := .reset
      pse := .reset
      ros := .start g.station
      req := s.req.start cold
      con := .emptied
      sup := s.sup.decide cold (imageChecksum image) }

def configFault (s : State) : State := s.writeFault .config .sup none none

/-- Written `n` times over. -/
def configFaults : Nat → State → State
  | 0, s => s
  | n + 1, s => configFaults n (configFault s)

/-- The kind of a start (R179). -/
def startIsCold (image : List (BitVec 16)) (u : Sup) : Bool := !u.retention || u.checksum != imageChecksum image

/-- With the retention mark clear nothing retained can be trusted: the fault record is emptied as LOADING begins (R174, R178). -/
def Sup.trusted (u : Sup) : Sup := if u.retention then u else u.clearFaults

/-- LOADING reads the image (R178 to R180). -/
def loadImage (image : List (BitVec 16)) (s : State) : State :=
  let s := { s with sup := s.sup.trusted }
  if imageFatal image then
    let s := configFault s
    { s with sup := { s.sup with part := .configFault } }
  else configFaults (imageFaults image) (startBlocks (startIsCold image s.sup) image s)

/-- The settle count ends: LOADING, with the channel table not yet loaded, and the fault record emptied where the retention mark
is clear (R174, R177, R178). -/
def enterLoading (s : State) : State :=
  { s with settings := { s.settings with tableLoaded := false }, sup := { s.sup.trusted with part := .loading } }

/-! ### The self-test (R29 to R32, R181) -/

/-- The store in RUN-DEGRADED: no live slot, nothing queued, horizons at the open bins; the write pointer stays (R32). -/
def Tsc.degraded (g : Settings) (odometer : Nat) (t : Tsc) : Tsc :=
  { t.emptied g odometer with writePtr := t.writePtr, storeFault := true }

/-- RUN or RUN-DEGRADED begins (R30, R181): the receiver hunts and ROS offers PRESENCE START (R122). -/
def enterRun (part : PartState) (s : State) : State :=
  State.join (ownPresence s false s.sup.coldStart) .rosStart
    { s with bus := { s.bus with rx := .hunt }, sup := { s.sup with part } }

/-- Slot `i` is one of the 16 at the top of the ring that the self-test takes (R29). -/
def testSlot (code : Nat) (i : BitVec 20) : Bool :=
  decide (slotCount code - Config.testSlots ≤ i.toNat ∧ i.toNat < slotCount code)

/-- The slot the self-test has in hand, where it is a live one of the 16 test slots: its number and page are the test mark and
the test buffer (R29 step 1). -/
def slotUnderTest (s : State) (testing : Option (BitVec 20)) : Option (Nat × Page) :=
  match testing with
  | none => none
  | some i =>
    if s.sup.part = .checking ∧ testSlot s.settings.storeCode i = true then (ringAt s.tsc.ring i.toNat).map fun p => (i.toNat, p)
    else none

/-- The slot a read-back is made in. -/
def readSlot : TestRead → BitVec 20
  | .address i _ _ | .complement i _ _ | .restored i _ => i

/-- The read-back is what was written (R29 steps 2 to 4). -/
def readMatches : TestRead → Bool
  | .address _ address read => read == BitVec.ofNat 16 address
  | .complement _ address read => read == ~~~ BitVec.ofNat 16 address
  | .restored _ same => same

/-- A read-back that the self-test makes: in one of its 16 slots, and of a page written back only in a live one (R29). -/
def readMade (s : State) (r : TestRead) : Bool :=
  testSlot s.settings.storeCode (readSlot r) &&
    match r with
    | .address .. | .complement .. => true
    | .restored i _ => (ringAt s.tsc.ring i.toNat).isSome

/-- The first read-back that does not match, at which the self-test stops (R29); none where it passes. -/
def firstMismatch (s : State) (reads : List TestRead) : Option TestRead :=
  reads.find? fun r => readMade s r && !readMatches r

/-- The self-test passes (R30). -/
def passSelfTest (s : State) : State := enterRun .run { s with tsc := { s.tsc with storeFault := false } }

/-- The self-test fails in slot `i` (R29, R30, R32): it stops without restoring the slot, so that the test mark and the test buffer
of a live one stay. -/
def failSelfTest (i : BitVec 20) (s : State) : State :=
  let mark := slotUnderTest s (some i)
  enterRun .runDegraded
    (State.writeFault .storeFault .tsc none none
      { s with tsc := { s.tsc.degraded s.settings s.smp.odometer with testMark := mark } })

/-- The self-test ends (R29, R30). -/
def endSelfTest (reads : List TestRead) (s : State) : State :=
  match firstMismatch s reads with
  | none => passSelfTest s
  | some r => failSelfTest (readSlot r) s

/-- A self-test is cut off (R31): its test mark and buffer stay, and the slot in hand holds a test pattern. -/
def interruptTest (testing : Option (BitVec 20)) (s : State) : State :=
  match slotUnderTest s testing with
  | none => s
  | some x =>
    { s with tsc := { s.tsc with
        testMark := some x
        ring := s.tsc.ring.map fun e => if e.1 = x.1 then (e.1, e.2.blank) else e } }

/-! ### The reset input and the supply (R177, R182) -/

/-- The reset input is asserted (R177); in SUPPLY-LOW it is disregarded. -/
def holdReset (testing : Option (BitVec 20)) (s : State) : State :=
  let s := { s with sup := { s.sup with resetPin := true } }
  if s.sup.part = .supplyLow then s
  else
    let s := leaveRunning (interruptTest testing s)
    { s with sup := { s.sup with part := .resetHeld } }

/-- A held reset input is released: a settle count begins, whatever the part state it ends, as the assertion is disregarded in
SUPPLY-LOW alone (R177, assumption 31). -/
def releaseReset (s : State) : State :=
  let s := { s with sup := { s.sup with resetPin := false } }
  if s.sup.part = .supplyLow then s
  else
    let s := leaveRunning s
    { s with sup := { s.sup with part := .settling } }

/-- The page memory is no longer refreshed: every transfer is abandoned and the contents are lost (R35). -/
def Tsc.unrefreshed (t : Tsc) : Tsc :=
  { t with intact := false, ring := t.ring.map fun e => (e.1, e.2.blank) }

/-- SUPPLY-LOW is entered (R35, R182). DESIGN CHOICE: the test mark and test buffer of a self-test that this cuts off in a live slot
are not set, as the next start clears them without writing (R31, assumption 49). -/
def enterSupplyLow (s : State) : State :=
  let s := leaveRunning (s.writeFault .supplyLow .sup none (some s.smp.odometer))
  { s with tsc := s.tsc.unrefreshed, sup := { s.sup with part := .supplyLow, monitor := .between } }

/-- The retained contents are lost (R182): every field is as at power-on, the part staying in SUPPLY-LOW. -/
def loseRetained (s : State) : State :=
  { State.reset with
      freeSeq := s.freeSeq
      pending := s.pending
      sup := { Sup.reset with part := .supplyLow, monitor := .below, resetPin := s.sup.resetPin } }

/-- The supply rises above the operating threshold: a settle count begins, whatever the reset input, which SUPPLY-LOW disregarded
(R177, R182); one still held keeps the part from its inputs until it is released (assumption 31). -/
def recoverSupply (s : State) : State := { s with sup := { s.sup with part := .settling, monitor := .above } }

end Sys2Proof.Machine
end

