-- ==== Sys2Proof/Machine/Settle.lean ====
section
/-! DEFINITION. What comes about inside a step (95): the store arbiter, and the work each block goes on with until none is left.
A row of the table is one step, so a step ends when no block can go on by itself. -/

namespace Sys2Proof.Machine

/-! ### The store arbiter (R25 to R27) -/

/-- A waiting page read: who asks, channel, page. -/
abbrev PageAsk := Evaluator × Nat × Nat

/-- The page the peer evaluator waits for (R112). -/
def State.peerAsk (s : State) : Option PageAsk :=
  match s.pse.engine with
  | .evaluating _ ev => some (.peer, ev.chan, ev.page)
  | _ => none

/-- The page the local evaluator waits for (R112, R116). -/
def State.localAsk (s : State) : Option PageAsk :=
  match s.req.localEval with
  | .running _ ev => some (.localEval, ev.chan, ev.page)
  | _ => none

/-- The evaluator that is granted: the one that waits, or of two the one the alternation mark does not name (R25). -/
def pickAsk (mark : Evaluator) : Option PageAsk → Option PageAsk → Option PageAsk
  | some p, some l => some (if mark = .peer then l else p)
  | some p, none => some p
  | none, l => l

/-- The bins of a completed read reach the evaluator that asked (R27). -/
def deliver (who : Evaluator) (bins : List BinClass) (s : State) : State :=
  match who with
  | .peer => deliverPeer bins s
  | .localEval => deliverLocal bins s

/-- Grant of a page read (R25, R27): only a ring slot takes a transfer. -/
def grantRead (a : PageAsk) (s : State) : State :=
  let x := readPage s a.2.1 a.2.2
  let s := { s with tsc := { s.tsc with mark := a.1 } }
  if x.2 then { s with tsc := { s.tsc with transfer := some (.read a.1 x.1) } } else deliver a.1 x.1 s

/-- One grant of the page memory (R25): the flush writer first, in RUN; then an evaluator. -/
def grantStep (s : State) : Option State :=
  if s.tsc.transfer.isSome then none
  else
    match if s.sup.part = .run then s.tsc.flush.head? else none with
    | some p => some { s with tsc := grantWrite p s.tsc }
    | none => (pickAsk s.tsc.mark s.peerAsk s.localAsk).map fun a => grantRead a s

/-! ### Going on to the end of the step -/

/-- The next places of a walk are expanded (R161, R164). -/
def walkStep (s : State) : Option State :=
  match s.req.engine with
  | .walkingUp => upStep s
  | .walkingDown => downStep s
  | _ => none

/-- The first block that can go on, in the order the model fixes (assumption 14): transmit entries are given out when every owner
has offered what it can, so that a freed entry sees also what its dropped report makes an owner offer (R91). While the part does
not run, only CON does. -/
def micro (s : State) : Option State :=
  if s.running then
    startLengthQuery s <|> pseStep s <|> localStep s <|> assignStep s <|> planStep s <|> queryStep s <|> walkStep s <|>
      fillStep s <|> conStep s <|> emitStep s <|> grantStep s
  else conStep s

/-- Every block goes on until none can. `fuel` bounds the micro steps (assumption 14). -/
def settleFor : Nat → State → State
  | 0, s => s
  | fuel + 1, s =>
    match micro s with
    | none => s
    | some t => settleFor fuel t

/-- More micro steps than the work of one step can hold (assumption 14). -/
def settleFuel : Nat := 1099511627776

def settle (s : State) : State := settleFor settleFuel s

/-- The outcome of a step: `none` where the row's event cannot stand in this state, which leaves everything as it is. -/
def commit (s : State) (o : Option State) : Host.Outcome State Fault Refusal :=
  match o with
  | none => .next s
  | some t => .next (settle t)

/-- An event of the encoder, the line feed link or the line: the part takes it only in RUN and RUN-DEGRADED, and not while its reset
input is held (R1, R36, R79, R177). -/
def whenReceiving (s : State) (t : State) : Host.Outcome State Fault Refusal :=
  commit s (if s.receives then some t else none)

/-! ### Shared forms of events -/

/-- A checked line feed record is handed on (R36). -/
def takeLf (r : LfRecord) (s : State) : State :=
  match r with
  | .sampleSet es => { s with smp := s.smp.takeSamples es }
  | .declare c headFirst _ declared offset => declareCoil c headFirst declared.toNat (offset.map BitVec.toNat) s
  | .join thread position => let x := takePosition position s; joinAt thread x.1 x.2
  | .tailOut position => let x := takePosition position s; tailAt false x.1 x.2
  | .stripBreak position => let x := takePosition position s; tailAt true x.1 x.2
  | .cut scrap sequence lanes position => let x := takePosition position s; cutAt scrap sequence lanes.toNat x.1 x.2

/-- A line feed record arrives: taken where its fields are in range, otherwise a check failure (R36). -/
def lfArrives (r : LfRecord) (s : State) : State := if r.inRange then takeLf r s else lfFail s

/-- A frame of a given kind arrives: one with more than 160 payload bytes is a bad frame (R84). -/
def frameArrives (kind : Option FrameKind) (source dest : BitVec 6) (tag : Byte) (payload : List Byte) (s : State) : State :=
  if Config.payloadCap < payload.length then discardBadFrame s else receiveFrame kind source dest tag payload s

/-- What an event does to the frame on the line (R86 to R88); none where no frame of this station is on it. -/
def onLineEvent (f : Nat → TxEntry → State → State) (s : State) : Option State :=
  if s.receives then
    match onLinePlace s.bus.queue with
    | none => none
    | some j => (s.bus.queue[j]?).map fun e => f j e s
  else none

end Sys2Proof.Machine
end

