-- ==== Sys2Proof/Machine/BusEvents.lean ====
section
/-! DEFINITION. The rows of BUS below the frame: idle and stuck lines, bad frames, and the fate of the frame on the line
(chapter 5). -/

namespace Sys2Proof.Machine

/-- LINE_IDLE (R80, R85, R89). While a frame of this station is on the line no eleven recessive bits pass. -/
def execLineIdle (s : State) : Host.Outcome State Fault Refusal :=
  commit s (if s.receives && !s.sending then some (becomeIdle s) else none)

/-- BUS_STUCK (R89). -/
def execBusStuck (s : State) : Host.Outcome State Fault Refusal := whenReceiving s (becomeStuck s)

/-- BAD_FRAME (R81 to R84, R95). -/
def execBadFrame (bits : List Bool) (s : State) : Host.Outcome State Fault Refusal := whenReceiving s (receiveBits bits s)

/-- LOST_ARBITRATION (R86, R92, R93). -/
def execLostArbitration (s : State) : Host.Outcome State Fault Refusal := commit s (onLineEvent loseArbitration s)

/-- COLLISION (R87, R92, R93). -/
def execCollision (s : State) : Host.Outcome State Fault Refusal := commit s (onLineEvent collide s)

/-- FRAME_SENT (R80, R88, R93). -/
def execFrameSent (s : State) : Host.Outcome State Fault Refusal := commit s (onLineEvent sendFrame s)

/-- The frame at `place` has waited out its limit off the line (R92). -/
def waitedOut (place : Nat) (s : State) : Option TxEntry :=
  (s.bus.queue[place]?).filter fun e => !e.onLine && decide (s.settings.queueWait ≤ e.wait)

/-- TX_WAIT (R92); the transmitter offers the next head at the same idle line. -/
def execTxWait (place : BitVec 4) (s : State) : Host.Outcome State Fault Refusal :=
  commit s (if s.running then
      (waitedOut place.toNat s).map fun e => State.startHead (dropFrame place.toNat e .txWait s)
    else none)

end Sys2Proof.Machine
end

