-- ==== Sys2Proof/Machine/Desk.lean ====
section
/-! DEFINITION. The rows of the console link (chapter 11): each typed row is a whole record with a good CRC. -/

namespace Sys2Proof.Machine

/-- A record with the fields of a request (R170, R172 row 2, R185). -/
def requestArrives (q : Request) (s : State) : Host.Outcome State Fault Refusal :=
  commit s (some (conWhole (judgeRequest q.kind (some q)) q.kind q.payload s))

/-- PLAYBACK (R128, R129, R133, R172). -/
def execPlayback (coil : Coil) (quantity : Byte) (a b step : BitVec 32) (depth : Byte) (s : State) :
    Host.Outcome State Fault Refusal :=
  requestArrives (.playback coil quantity.toNat a.toNat b.toNat step.toNat depth.toNat) s

/-- GENEALOGY (R159 to R166, R172): a direction other than 0 and 1 is malformed. -/
def execGenealogy (coil : Coil) (direction depth : Byte) (s : State) : Host.Outcome State Fault Refusal :=
  if direction.toNat < 2 then requestArrives (.genealogy coil (direction == 0) depth.toNat) s
  else commit s (some (conWhole (.badFormat 0x02) 0x02 (coilBytes 0 coil ++ [direction, depth]) s))

/-- COIL_LIST (R167, R168, R172). -/
def execCoilList (mode : ListMode) (unstamped : Bool) (s : State) : Host.Outcome State Fault Refusal :=
  requestArrives (.coilList mode unstamped) s

/-- STATUS (R172, R174). -/
def execStatus (s : State) : Host.Outcome State Fault Refusal := requestArrives .status s

/-- ABORT (R132, R155, R169, R175). -/
def execAbort (s : State) : Host.Outcome State Fault Refusal := requestArrives .abort s

/-- CLEAR_FAULT (R175, R176). -/
def execClearFault (s : State) : Host.Outcome State Fault Refusal := requestArrives .clearFault s

/-- SET_TIME (R125, R126, R175). -/
def execSetTime (clock : BitVec 48) (s : State) : Host.Outcome State Fault Refusal := requestArrives (.setTime clock.toNat) s

/-- CONSOLE_BAD_RECORD (R170, R172, R185). -/
def execConsoleBadRecord (bytes : List Byte) (framingError : Bool) (s : State) : Host.Outcome State Fault Refusal :=
  commit s (some (conBytes bytes framingError s))

/-- CONSOLE_BYTE_TIMEOUT (R170, R172, R185). -/
def execConsoleByteTimeout (got : List Byte) (s : State) : Host.Outcome State Fault Refusal :=
  commit s (some (conSilence (got.foldl conByte s)))

/-- OUTPUT_RECORD_SENT (R173). -/
def execOutputRecordSent (s : State) : Host.Outcome State Fault Refusal :=
  commit s (if s.con.out.isEmpty then none else some (recordSent s))

end Sys2Proof.Machine
end

