-- ==== Sys2Proof/Machine/Frames.lean ====
section
/-! DEFINITION. The rows of good frames heard on the G-bus (R95, 12.2, 12.3). -/

namespace Sys2Proof.Machine

/-- TIME (R95, R99, R118, R127). -/
def execTime (source dest : BitVec 6) (tag : Byte) (payload : List Byte) (s : State) : Host.Outcome State Fault Refusal :=
  whenReceiving s (frameArrives (some .time) source dest tag payload s)

/-- LINEAGE_REPLY (R41, R75, R95, R99, R101, R118, R131). -/
def execLineageReply (source dest : BitVec 6) (tag : Byte) (payload : List Byte) (s : State) : Host.Outcome State Fault Refusal :=
  whenReceiving s (frameArrives (some .lineageReply) source dest tag payload s)

/-- SAMPLE_REPLY (R95, R99, R101, R118, R149). -/
def execSampleReply (source dest : BitVec 6) (tag : Byte) (payload : List Byte) (s : State) : Host.Outcome State Fault Refusal :=
  whenReceiving s (frameArrives (some .sampleReply) source dest tag payload s)

/-- DESCENT_REPLY (R95, R99, R101, R118, R165, R166). -/
def execDescentReply (source dest : BitVec 6) (tag : Byte) (payload : List Byte) (s : State) : Host.Outcome State Fault Refusal :=
  whenReceiving s (frameArrives (some .descentReply) source dest tag payload s)

/-- LINEAGE_QUERY (R95, R99, R102, R105, R118). -/
def execLineageQuery (source dest : BitVec 6) (tag : Byte) (payload : List Byte) (s : State) : Host.Outcome State Fault Refusal :=
  whenReceiving s (frameArrives (some .lineageQuery) source dest tag payload s)

/-- SAMPLE_FETCH (R95, R99, R102, R108 to R115, R118). -/
def execSampleFetch (source dest : BitVec 6) (tag : Byte) (payload : List Byte) (s : State) : Host.Outcome State Fault Refusal :=
  whenReceiving s (frameArrives (some .sampleFetch) source dest tag payload s)

/-- DESCENT_QUERY (R95, R99, R102, R106, R107, R118). -/
def execDescentQuery (source dest : BitVec 6) (tag : Byte) (payload : List Byte) (s : State) : Host.Outcome State Fault Refusal :=
  whenReceiving s (frameArrives (some .descentQuery) source dest tag payload s)

/-- COIL_ANNOUNCE (R73, R74, R76, R95, R99, R118). -/
def execCoilAnnounce (source dest : BitVec 6) (tag : Byte) (payload : List Byte) (s : State) : Host.Outcome State Fault Refusal :=
  whenReceiving s (frameArrives (some .coilAnnounce) source dest tag payload s)

/-- PRESENCE (R78, R95 to R97, R99, R118, R119, R123). -/
def execPresence (source dest : BitVec 6) (tag : Byte) (payload : List Byte) (s : State) : Host.Outcome State Fault Refusal :=
  whenReceiving s (frameArrives (some .presence) source dest tag payload s)

/-- UNDEFINED_FRAME_KIND (R95, R118). -/
def execUndefinedFrameKind (cls : BitVec 3) (source : BitVec 6) (kind : BitVec 4) (dest : BitVec 6) (tag : Byte)
    (payload : List Byte) (s : State) : Host.Outcome State Fault Refusal :=
  whenReceiving s (frameArrives (FrameKind.ofCode cls.toNat kind.toNat) source dest tag payload s)

end Sys2Proof.Machine
end

