-- ==== Sys2Proof/Machine/Line.lean ====
section
/-! DEFINITION. The rows of SMP, LFR and CTR: encoder pulses, line feed records, standstill, finalization and length queries
(chapters 1, 3 and 4). -/

namespace Sys2Proof.Machine

/-- FORWARD_PULSE (R1, R2, R6, R14 to R18). -/
def execForwardPulse (s : State) : Host.Outcome State Fault Refusal := whenReceiving s (forwardPulse s)

/-- REVERSE_PULSE (R3). -/
def execReversePulse (s : State) : Host.Outcome State Fault Refusal := whenReceiving s (reversePulse s)

/-- The next tick brings the standstill timer of a MOVING sampler to the standstill time (R5). -/
def standstillDue (s : State) : Bool :=
  s.running && decide (s.smp.sampler = .moving ∧ s.settings.standstillTime ≤ s.smp.timer + 1)

/-- The standstill timer reaches the standstill time (R5, R17). -/
def Smp.reachStandstill (standstillTime : Nat) (m : Smp) : Smp :=
  Smp.enterStandstill { m with timer := max m.timer standstillTime }

/-- STANDSTILL (R5, R17): the tick that brings the timer to the standstill time, as far as SMP is concerned (assumption 5). -/
def execStandstill (s : State) : Host.Outcome State Fault Refusal :=
  commit s (if standstillDue s then some { s with smp := s.smp.reachStandstill s.settings.standstillTime } else none)

/-- LF_RECORD_TIMEOUT (R36): broken framing. -/
def execLfRecordTimeout (s : State) : Host.Outcome State Fault Refusal := whenReceiving s (lfFail s)

/-- The record of the bytes, where they pass R36 after all; otherwise a check failure. -/
def lfBytes (record : List Byte) (s : State) : State :=
  match parseLf record with
  | some r => takeLf r s
  | none => lfFail s

/-- LF_CHECK (R36). -/
def execLfCheck (record : List Byte) (s : State) : Host.Outcome State Fault Refusal := whenReceiving s (lfBytes record s)

/-- SAMPLE_SET (R12, R13). -/
def execSampleSet (entries : List SampleEntry) (s : State) : Host.Outcome State Fault Refusal :=
  whenReceiving s (lfArrives (.sampleSet entries) s)

/-- DECLARE (R38, R39). -/
def execDeclare (coil : Coil) (headFirst resumed : Bool) (declared : BitVec 32) (offset : Option (BitVec 32)) (s : State) :
    Host.Outcome State Fault Refusal :=
  whenReceiving s (lfArrives (.declare coil headFirst resumed declared offset) s)

/-- JOIN (R37, R43, R45, R47). -/
def execJoin (thread : Bool) (position : Option (BitVec 48)) (s : State) : Host.Outcome State Fault Refusal :=
  whenReceiving s (lfArrives (.join thread position) s)

/-- TAIL_OUT (R37, R44, R45). -/
def execTailOut (position : Option (BitVec 48)) (s : State) : Host.Outcome State Fault Refusal :=
  whenReceiving s (lfArrives (.tailOut position) s)

/-- BREAK (R37, R44, R45). -/
def execStripBreak (position : Option (BitVec 48)) (s : State) : Host.Outcome State Fault Refusal :=
  whenReceiving s (lfArrives (.stripBreak position) s)

/-- CUT (R9, R37, R48 to R53). -/
def execCut (scrap : Bool) (sequence : BitVec 32) (lanes : Byte) (position : Option (BitVec 48)) (s : State) :
    Host.Outcome State Fault Refusal :=
  whenReceiving s (lfArrives (.cut scrap sequence lanes position) s)

/-- The finalization timer of a PENDING record has run out (R55). -/
def ExitRec.due (r : ExitRec) : Bool :=
  match r.body with
  | .pending _ t => t == 0
  | .final .. => false

/-- The coil's PENDING record is due (R55). -/
def expiryDue (coil : Coil) (s : State) : Bool := s.running && ((s.findExit coil).map ExitRec.due).getD false

/-- FINALIZATION_EXPIRY (R54, R55, R46). -/
def execFinalizationExpiry (coil : Coil) (s : State) : Host.Outcome State Fault Refusal :=
  commit s (if expiryDue coil s then some (State.release (finalizeCoil true s coil)) else none)

/-- The reply timer of a busy length-query slot has run out (R40). -/
def lengthTimerDue (i : Nat) (s : State) : Bool :=
  s.running && (((s.ctr.slots[i]?).bind (·.busy)).bind (·.timer)) == some 0

/-- LENGTH_QUERY_TIMEOUT (R40, R42, R120). -/
def execLengthQueryTimeout (slot : BitVec 3) (s : State) : Host.Outcome State Fault Refusal :=
  commit s (if lengthTimerDue slot.toNat s then some (failLengthQuery slot.toNat false s) else none)

end Sys2Proof.Machine
end

