-- ==== Sys2Proof/Machine/PageMemory.lean ====
section
/-! DEFINITION. The rows of TSC: the end of a page transfer (R26, R27). -/

namespace Sys2Proof.Machine

/-- The write in transfer completes (R24, R26). -/
def writeCompletes (s : State) : Option State :=
  match s.tsc.transfer with
  | some (.write page cancelled) => some { s with tsc := completeWrite s.settings.storeCode page cancelled s.tsc }
  | _ => none

/-- FLUSH_WRITE_COMPLETE (R19, R24, R26). -/
def execFlushWriteComplete (s : State) : Host.Outcome State Fault Refusal :=
  commit s (if s.running then writeCompletes s else none)

/-- The read in transfer completes and its bins reach the evaluator (R27). -/
def readCompletes (s : State) : Option State :=
  match s.tsc.transfer with
  | some (.read who bins) => some (deliver who bins { s with tsc := { s.tsc with transfer := none } })
  | _ => none

/-- PAGE_READ_COMPLETE (R27, R104, R112, R116). -/
def execPageReadComplete (s : State) : Host.Outcome State Fault Refusal :=
  commit s (if s.running then readCompletes s else none)

end Sys2Proof.Machine
end

