-- ==== Sys2Proof/Machine/Starts.lean ====
section
/-! DEFINITION. The rows of SUP: starts, the self-test, the reset input and the supply (11.4, 11.5). -/

namespace Sys2Proof.Machine

/-- SETTLE_COUNT_END (R177). -/
def execSettleCountEnd (s : State) : Host.Outcome State Fault Refusal :=
  commit s (if s.sup.part = .settling then some (enterLoading s) else none)

/-- CONFIG_LOAD (R178 to R181). -/
def execConfigLoad (image : List (BitVec 16)) (s : State) : Host.Outcome State Fault Refusal :=
  commit s (if s.sup.part = .loading then some (loadImage image s) else none)

/-- SELF_TEST_COMPLETE (R29, R30, R32, R122, R181). -/
def execSelfTestComplete (reads : List TestRead) (s : State) : Host.Outcome State Fault Refusal :=
  commit s (if s.sup.part = .checking then some (endSelfTest reads s) else none)

/-- EXTERNAL_RESET_ASSERT (R31, R177). -/
def execExternalResetAssert (testing : Option (BitVec 20)) (s : State) : Host.Outcome State Fault Refusal :=
  commit s (some (holdReset testing s))

/-- EXTERNAL_RESET_RELEASE (R177); no effect where the input is not held (assumption 16). -/
def execExternalResetRelease (s : State) : Host.Outcome State Fault Refusal :=
  commit s (if s.sup.resetPin then some (releaseReset s) else none)

/-- SUPPLY_LOW (R35, R182). -/
def execSupplyLow (s : State) : Host.Outcome State Fault Refusal :=
  commit s (if s.sup.monitor = .above then some (enterSupplyLow s) else none)

/-- RETENTION_LOSS (R182). -/
def execRetentionLoss (s : State) : Host.Outcome State Fault Refusal :=
  commit s (if s.sup.monitor = .between then some (loseRetained s) else none)

/-- SUPPLY_RECOVERY (R177, R182). -/
def execSupplyRecovery (s : State) : Host.Outcome State Fault Refusal :=
  commit s (if s.sup.monitor = .above then none else some (recoverSupply s))

end Sys2Proof.Machine
end

