-- ==== Sys2Proof/Machine/Timers.lean ====
section
/-! DEFINITION. The rows of the 1 ms time base: the tick, and what REQ's and ROS's timers do when they run out. A tick only moves
the timers; each run-out is a row of its own, taken once its timer stands at its end (assumption 5). -/

namespace Sys2Proof.Machine

/-! ### The tick -/

def QuerySlot.tick (x : QuerySlot) : QuerySlot := { x with busy := x.busy.map fun b => { b with timer := tickLeft b.timer } }

def FetchSlot.tick (x : FetchSlot) : FetchSlot := { x with busy := x.busy.map fun b => { b with timer := tickLeft b.timer } }

/-- The quiet and overall timers run while collecting (R164). -/
def Collector.tick (c : Collector) : Collector :=
  match c.state with
  | .collecting => { c with quiet := c.quiet - 1, overall := c.overall - 1 }
  | _ => c

def Req.tick (r : Req) : Req :=
  { r with queries := r.queries.map QuerySlot.tick, fetches := r.fetches.map FetchSlot.tick, collector := r.collector.tick }

/-- The queue-wait timer of a queued frame (R92). -/
def TxEntry.tick (limit : Nat) (e : TxEntry) : TxEntry := { e with wait := satSucc limit e.wait }

def Bus.tick (limit : Nat) (b : Bus) : Bus := { b with queue := b.queue.map (TxEntry.tick limit) }

/-- The time-frame timer counts (R126). -/
def State.countsFrames (s : State) : Bool := s.running && s.settings.timeSource

/-- One tick of every timer of the part (R5, R8, R40, R55, R92, R124, R126, R130, R147, R164). -/
def tickAll (s : State) : State :=
  { s with smp := s.smp.tick s.settings.standstillTime, ctr := s.ctr.tick, req := s.req.tick,
           bus := s.bus.tick s.settings.queueWait, ros := s.ros.tick s.countsFrames }

/-- Outside RUN and RUN-DEGRADED only the plant clock, where it is set, moves (R9, R55, R124, R126). -/
def tickClock (s : State) : State := { s with ros := s.ros.tick false }

/-- One tick; there is none before the settle count has ended or in SUPPLY-LOW (R177). -/
def tickPart (s : State) : Option State :=
  match s.sup.part with
  | .run | .runDegraded => some (tickAll s)
  | .loading | .checking | .configFault => some (tickClock s)
  | .resetHeld | .settling | .supplyLow => none

/-- TIME_BASE_TICK (R5, R8, R92, R124, R126). -/
def execTimeBaseTick (s : State) : Host.Outcome State Fault Refusal := commit s (tickPart s)

/-- The time base runs (R177). -/
def PartState.ticks : PartState → Bool
  | .loading | .checking | .configFault | .run | .runDegraded => true
  | .resetHeld | .settling | .supplyLow => false

/-- PLANT_CLOCK_WRAP (R124, R126): the tick that finds the clock at its top, as far as ROS is concerned. -/
def execPlantClockWrap (s : State) : Host.Outcome State Fault Refusal :=
  commit s (if s.sup.part.ticks && decide (Config.max48 ≤ s.ros.clock) then
      some { s with ros := { s.ros with clock := 0, timeTimer := 0 } }
    else none)

/-- TIME_FRAME_TIMER (R126). -/
def execTimeFrameTimer (s : State) : Host.Outcome State Fault Refusal :=
  commit s (if s.countsFrames && decide (Config.timeFramePeriod ≤ s.ros.timeTimer) then some (sendTime s) else none)

/-! ### Run-outs of REQ's timers -/

/-- The reply timer of a busy lineage-query slot has run out (R130). -/
def queryTimerDue (i : Nat) (s : State) : Bool := s.running && (((s.req.queries[i]?).bind (·.busy)).bind (·.timer)) == some 0

/-- LINEAGE_QUERY_TIMEOUT (R120, R130, R131). -/
def execLineageQueryTimeout (slot : BitVec 3) (s : State) : Host.Outcome State Fault Refusal :=
  commit s (if queryTimerDue slot.toNat s then some (failQuery slot.toNat false s) else none)

/-- The reply timer of a busy REMOTE fetch slot has run out (R147). -/
def fetchTimerDue (i : Nat) (s : State) : Bool := s.running && (((s.req.fetches[i]?).bind (·.busy)).bind (·.timer)) == some 0

/-- FETCH_TIMEOUT (R120, R147, R148). -/
def execFetchTimeout (slot : BitVec 4) (s : State) : Host.Outcome State Fault Refusal :=
  commit s (if fetchTimerDue slot.toNat s then some (failFetch slot.toNat false s) else none)

/-- The collector collects in a running part. -/
def State.collecting (s : State) : Bool := s.running && decide (s.req.collector.state = .collecting)

/-- The quiet timer runs out (R165): it restarts while some station is incomplete, otherwise collection ends. -/
def quietEnds (s : State) : State :=
  if anyIncomplete s.req.collector.parts then s.setCollector fun c => { c with quiet := Config.quietTime } else endDescent 0 s

/-- QUIET_TIMER_EXPIRY (R165). -/
def execQuietTimerExpiry (s : State) : Host.Outcome State Fault Refusal :=
  commit s (if s.collecting && s.req.collector.quiet == 0 then some (quietEnds s) else none)

/-- OVERALL_TIMER_EXPIRY (R165). -/
def execOverallTimerExpiry (s : State) : Host.Outcome State Fault Refusal :=
  commit s (if s.collecting && s.req.collector.overall == 0 then some (endDescent 0 s) else none)

end Sys2Proof.Machine
end

