-- ==== Sys2Proof/Machine/Dispatch.lean ====
section
/-! DEFINITION. One arm for each command, in the order of spec/opcode_table.json. -/

namespace Sys2Proof.Machine

def exec (i : Instr) (s : State) : Host.Outcome State Fault Refusal :=
  match i with
  | .forwardPulse => Sys2Proof.Machine.execForwardPulse s
  | .reversePulse => Sys2Proof.Machine.execReversePulse s
  | .standstill => Sys2Proof.Machine.execStandstill s
  | .lfRecordTimeout => Sys2Proof.Machine.execLfRecordTimeout s
  | .lfCheck record => Sys2Proof.Machine.execLfCheck record s
  | .sampleSet entries => Sys2Proof.Machine.execSampleSet entries s
  | .declare coil headFirst resumed declared offset => Sys2Proof.Machine.execDeclare coil headFirst resumed declared offset s
  | .join thread position => Sys2Proof.Machine.execJoin thread position s
  | .tailOut position => Sys2Proof.Machine.execTailOut position s
  | .stripBreak position => Sys2Proof.Machine.execStripBreak position s
  | .cut scrap sequence lanes position => Sys2Proof.Machine.execCut scrap sequence lanes position s
  | .finalizationExpiry coil => Sys2Proof.Machine.execFinalizationExpiry coil s
  | .lengthQueryTimeout slot => Sys2Proof.Machine.execLengthQueryTimeout slot s
  | .flushWriteComplete => Sys2Proof.Machine.execFlushWriteComplete s
  | .pageReadComplete => Sys2Proof.Machine.execPageReadComplete s
  | .lineIdle => Sys2Proof.Machine.execLineIdle s
  | .busStuck => Sys2Proof.Machine.execBusStuck s
  | .badFrame bits => Sys2Proof.Machine.execBadFrame bits s
  | .lostArbitration => Sys2Proof.Machine.execLostArbitration s
  | .collision => Sys2Proof.Machine.execCollision s
  | .frameSent => Sys2Proof.Machine.execFrameSent s
  | .txWait place => Sys2Proof.Machine.execTxWait place s
  | .time source dest tag payload => Sys2Proof.Machine.execTime source dest tag payload s
  | .lineageReply source dest tag payload => Sys2Proof.Machine.execLineageReply source dest tag payload s
  | .sampleReply source dest tag payload => Sys2Proof.Machine.execSampleReply source dest tag payload s
  | .descentReply source dest tag payload => Sys2Proof.Machine.execDescentReply source dest tag payload s
  | .lineageQuery source dest tag payload => Sys2Proof.Machine.execLineageQuery source dest tag payload s
  | .sampleFetch source dest tag payload => Sys2Proof.Machine.execSampleFetch source dest tag payload s
  | .descentQuery source dest tag payload => Sys2Proof.Machine.execDescentQuery source dest tag payload s
  | .coilAnnounce source dest tag payload => Sys2Proof.Machine.execCoilAnnounce source dest tag payload s
  | .presence source dest tag payload => Sys2Proof.Machine.execPresence source dest tag payload s
  | .lineageQueryTimeout slot => Sys2Proof.Machine.execLineageQueryTimeout slot s
  | .fetchTimeout slot => Sys2Proof.Machine.execFetchTimeout slot s
  | .quietTimerExpiry => Sys2Proof.Machine.execQuietTimerExpiry s
  | .overallTimerExpiry => Sys2Proof.Machine.execOverallTimerExpiry s
  | .timeFrameTimer => Sys2Proof.Machine.execTimeFrameTimer s
  | .plantClockWrap => Sys2Proof.Machine.execPlantClockWrap s
  | .playback coil quantity a b step depth => Sys2Proof.Machine.execPlayback coil quantity a b step depth s
  | .genealogy coil direction depth => Sys2Proof.Machine.execGenealogy coil direction depth s
  | .coilList mode unstamped => Sys2Proof.Machine.execCoilList mode unstamped s
  | .status => Sys2Proof.Machine.execStatus s
  | .abort => Sys2Proof.Machine.execAbort s
  | .clearFault => Sys2Proof.Machine.execClearFault s
  | .setTime clock => Sys2Proof.Machine.execSetTime clock s
  | .consoleBadRecord bytes framingError => Sys2Proof.Machine.execConsoleBadRecord bytes framingError s
  | .consoleByteTimeout got => Sys2Proof.Machine.execConsoleByteTimeout got s
  | .outputRecordSent => Sys2Proof.Machine.execOutputRecordSent s
  | .settleCountEnd => Sys2Proof.Machine.execSettleCountEnd s
  | .configLoad image => Sys2Proof.Machine.execConfigLoad image s
  | .selfTestComplete reads => Sys2Proof.Machine.execSelfTestComplete reads s
  | .externalResetAssert testing => Sys2Proof.Machine.execExternalResetAssert testing s
  | .externalResetRelease => Sys2Proof.Machine.execExternalResetRelease s
  | .supplyLow => Sys2Proof.Machine.execSupplyLow s
  | .retentionLoss => Sys2Proof.Machine.execRetentionLoss s
  | .supplyRecovery => Sys2Proof.Machine.execSupplyRecovery s
  | .timeBaseTick => Sys2Proof.Machine.execTimeBaseTick s
  | .undefinedFrameKind cls source kind dest tag payload => Sys2Proof.Machine.execUndefinedFrameKind cls source kind dest tag payload s

end Sys2Proof.Machine
end

