-- ==== Sys2Proof/Safety.lean ====
section
/-! DEFINITION. The terms in which claims speak of a step: what the blocks leave alone while they go on by themselves to the end of
a step, and the bounds and forms every step keeps. No clause speaks of a value the model chose. -/

namespace Sys2Proof.Machine

/-! ### From a command's own effect to the end of the step -/

/-- No block can go on by itself. -/
def State.Quiet (s : State) : Prop := micro s = none

/-- The blocks go on by themselves from `u` and come to `t`. -/
inductive GoesOn : State → State → Prop where
  | here (s : State) : GoesOn s s
  | on {s u t : State} (first : micro s = some u) (rest : GoesOn u t) : GoesOn s t

/-- A declaration but for its length-query state. -/
def Decl.told (d : Decl) : Decl := { d with lq := .none }

/-- An entry record but for its length-query state. -/
def Entry.told (e : Entry) : Entry := { e with lq := .none }

/-- An exit record but for its announce-pending mark. -/
def ExitRec.unmarked (r : ExitRec) : ExitRec :=
  match r.body with
  | .pending .. => r
  | .final ps _ => { r with body := .final ps false }

/-- A frame of REQ, which REQ may withdraw (R93). -/
def Owner.ofReq : Owner → Bool
  | .reqQuery _ | .reqFetch _ | .reqDescent => true
  | _ => false

/-- What the blocks leave alone while they go on by themselves from `u` to `t`. -/
structure Kept (u t : State) : Prop where
  settings   : t.settings = u.settings
  smp        : t.smp = u.smp
  lfr        : t.lfr = u.lfr
  ros        : t.ros = u.ros
  sup        : t.sup = u.sup
  pending    : t.pending = u.pending
  segStart   : t.ctr.segStart = u.ctr.segStart
  decls      : t.ctr.decls.map Decl.told = u.ctr.decls.map Decl.told
  entries    : t.ctr.entries.map Entry.told = u.ctr.entries.map Entry.told
  exits      : t.ctr.exits.map ExitRec.unmarked = u.ctr.exits.map ExitRec.unmarked
  templates  : t.lch.templates = u.lch.templates
  cache      : ∀ c, (t.lch.cache.find? fun r => r.coil == c) = u.lch.cache.find? fun r => r.coil == c
  badFrames  : t.bus.badFrames = u.bus.badFrames
  collisions : t.bus.collisions = u.bus.collisions
  stuck      : t.bus.stuck = u.bus.stuck
  muted      : t.bus.muted = u.bus.muted
  drops      : t.pse.drops = u.pse.drops
  flush      : t.tsc.flush = u.tsc.flush
  current    : (t.tsc.chans.map fun c => (c.index, c.cur)) = u.tsc.chans.map fun c => (c.index, c.cur)
  writePtr   : t.tsc.writePtr = u.tsc.writePtr
  storeFault : t.tsc.storeFault = u.tsc.storeFault
  intact     : t.tsc.intact = u.tsc.intact
  testMark   : t.tsc.testMark = u.tsc.testMark
  frames     : ∀ e ∈ u.bus.queue ++ u.bus.waiting, e.owner.ofReq = false →
                 ∃ e' ∈ t.bus.queue ++ t.bus.waiting, e'.frame = e.frame ∧ e'.owner = e.owner
  out        : u.con.out <+: t.con.out

/-- The step ends in `t` when a command's own effect is `u`: the blocks go on from `u` by themselves, and leave alone what `Kept`
lists. Where none can go on from `u`, `t` is `u`. -/
structure Carried (u t : State) : Prop where
  goesOn : GoesOn u t
  kept   : Kept u t
  quiet  : u.Quiet → t = u

/-- Of the records `ls` that become FINAL in this order, those whose COIL-ANNOUNCE joins the transmit queue at once: none under MUTED,
else as many as the queue has entries free (R56). -/
def State.announcedOf (s : State) (ls : List LineageRec) : List LineageRec :=
  if s.bus.muted then [] else ls.take (16 - s.bus.queue.length)

/-- A record that becomes FINAL takes the announce-pending mark exactly when it is not announced at once (R56). -/
def ExitRec.markedBy (now : List LineageRec) (r : ExitRec) : ExitRec :=
  match r.body with
  | .pending .. => r
  | .final ps _ => { r with body := .final ps (!now.any fun l => l.coil == r.coil) }

/-- `b` is the bus of a running part whose transmit queue the frames `xs` have joined (R85, R90): they stand at its end, and on an idle
line that is not stuck, with the reset input not held (R177), the head frame, of lowest class and there enqueued first, starts where
MUTED allows it; nothing else changes. -/
def State.Joins (s : State) (xs : List TxEntry) (b : Bus) : Prop :=
  let q := s.bus.queue ++ xs
  let starts (j : Nat) (e : TxEntry) : Prop :=
    xs ≠ [] ∧ s.sup.resetPin = false ∧ s.bus.rx = .idle ∧ s.bus.stuck = false ∧ q[j]? = some e ∧
      (∀ (i : Nat) (x : TxEntry), q[i]? = some x →
        e.frame.kind.cls ≤ x.frame.kind.cls ∧ (x.frame.kind.cls = e.frame.kind.cls → j ≤ i)) ∧
      (s.bus.muted = false ∨ e.owner = .busFinal)
  ((∀ j e, ¬ starts j e) → b = { s.bus with queue := q }) ∧
    ∀ j e, starts j e → b = { s.bus with
      queue := q.set j { e with onLine := true }, rx := .receiving, driven := false, observed := false }

/-- CTR announces the records `ls`, which became FINAL in this order, as far as R56 lets it: their COIL-ANNOUNCE frames join the
transmit queue, each to all stations with tag 0 and the whole record as payload; the bus of `u` is otherwise that of `s`. -/
def State.Announces (s u : State) (ls : List LineageRec) : Prop :=
  s.Joins ((s.announcedOf ls).map fun l => ⟨⟨.coilAnnounce, 63, 0, recordBytes 0 l⟩, .ctrAnnounce, 0, 0, false, false⟩) u.bus

/-- A good frame of station `source` other than a PRESENCE has been heard (R80, R118): the receiver hunts, and the roster entry of
another station that was ABSENT or SILENT is PRESENT; the own entry stays (R117). -/
def State.heardFrom (s : State) (source : BitVec 6) : State := { s with
  bus := { s.bus with rx := .hunt, driven := true, observed := true }
  ros := { s.ros with roster := if source = s.settings.station then s.ros.roster
                                else s.ros.roster.set (source.toNat - 1) (s.rosterEntry source).heard } }

/-- The lineage record of an exit record made FINAL with pieces `ps` (R61). -/
def ExitRec.lineageWith (r : ExitRec) (ps : List Piece) : LineageRec :=
  ⟨r.coil, r.oEnd - r.oStart, r.close, r.stop, r.lane, r.lanes, r.timedOut, ps⟩

/-- A PENDING record with overlap list `os` is ready with the entry records `es` (R53): each entry of the list is for coil 0:0, has
no link, or is linked to a record that is DONE. -/
def overlapsReady (es : List Entry) (os : List Overlap) : Bool :=
  os.all fun v => v.coil == .unknown || match v.link.bind fun id => es.find? fun e => e.id == id with
    | none => true
    | some e => e.eEnd.isSome

/-- The lineage records, in close order, of the PENDING records of `exits` that are ready with the entry records `es` (R53, R63). -/
def readyRecords (es : List Entry) (exits : List ExitRec) : List LineageRec :=
  exits.filterMap fun r => match r.body with
    | .pending os _ => if overlapsReady es os then some (r.lineageWith (os.map (buildPiece es r.oStart))) else none
    | .final .. => none

/-- An exit record after a finalization check with the entry records `es` (R53, R54, R56): a PENDING one that is ready is FINAL with
its pieces, announce-pending unless `now` holds it. -/
def ExitRec.checked (es : List Entry) (now : List LineageRec) (r : ExitRec) : ExitRec :=
  match r.body with
  | .pending os _ =>
    if overlapsReady es os then ExitRec.markedBy now { r with body := .final (os.map (buildPiece es r.oStart)) false } else r
  | .final .. => r

/-- Why R142 does not send a group whose source coil belongs to station `st`; none where it is sent. -/
def State.unsent (s : State) (st : BitVec 6) : Option Outcome :=
  if st = s.settings.station then none
  else if s.bus.muted then some .unreachable
  else if (s.rosterEntry st).state = .degraded then some .storeFault
  else match (s.rosterEntry st).codes with
    | some cs => if BitVec.ofNat 8 s.req.play.quantity ∈ cs then none else some .noQuantity
    | none => none

/-- A result with outcome flag `flag` and without values (R149, R151). -/
def Result.bare (clamped split unscaled broken : Bool) (flag : Outcome) (source : Coil) : Result :=
  ⟨0, 0, 0, ⟨false, false, false, false⟩, false, false, false, clamped, split, unscaled, broken, some flag, source⟩

/-- REQ after a depth with attribution `as` was added to `s.req` (R142, R143, R144, R151): its table stands last, with the results of
its ended entries and of its groups not sent present and no other; the groups that are sent join the issue list in order, a remote one
with the attempts its roster entry allows. -/
structure DepthAdded (s : State) (as : List Attr) (after : Req) : Prop where
  tables : ∃ rs : List (Option Result), after.depths = s.req.depths ++ [⟨as, rs⟩] ∧ rs.length = as.length ∧
    ∀ (n : Nat) (a : Attr), as[n]? = some a → rs[n]? = some (match a with
      | .ended flag c => some (.bare false false false false flag c)
      | .traced c _ _ split unscaled broken _ => (s.unsent c.station).map fun o => .bare false split unscaled broken o c)
  issue  : after.issue = s.req.issue ++
    ((groupsFrom s.req.depths.length 0 none as).filter fun g => (s.unsent g.coil.station).isNone).map fun g =>
      { g with allowed := if g.coil.station = s.settings.station then 0
                          else if (s.rosterEntry g.coil.station).state = .silent then 1 else 1 + s.settings.retryLimit }

/-- CON with record `rec` answered by `r` (R172, R173): the response joins the output queue where an entry is free, and the record
keeps the complete buffer with its answer where none is. -/
def Con.answered (c : Con) (rec : ConRecord) (r : Response) : Con :=
  if c.out.length < 16 then { c with complete := none, out := c.out ++ [r] } else { c with complete := some ⟨rec, .place r⟩ }

/-- `r` is the STATUS-REPORT with the values current in `s` (R174, 12.6). The levels of the line are free but where no frame of this
station is on the line: its driven level, and the observed level while the receiver of a running part is IDLE (R79, assumption 3). -/
def State.Reports (s : State) (r : StatusReport) : Prop :=
  r = { part := s.sup.part, station := s.settings.station, muted := s.bus.muted, stuck := s.bus.stuck
        driven := r.driven, observed := r.observed, standstill := decide (s.smp.sampler = .standstill)
        storeFault := s.tsc.storeFault, odometer := s.smp.odometer, fraction := s.smp.fraction, debt := s.smp.debt
        clock := s.ros.clock, badFrames := s.bus.badFrames, collisions := s.bus.collisions, serviceDrops := s.pse.drops
        lfErrors := s.lfr.errors, faultCount := s.sup.faultCount, fault := s.sup.fault, roster := s.ros.roster
        channels := if s.settings.tableLoaded then s.settings.channels.map fun d =>
            ⟨d.index, d.quantity, d.stepCode, s.smp.odometer / d.step, ((s.tsc.chan d.index).map (·.horizon)).getD 0⟩
          else [] } ∧
    ((∀ e ∈ s.bus.queue, e.onLine = false) → r.driven = s.bus.driven ∧
      (s.running = true → s.bus.rx = .idle → r.observed = s.bus.observed))

/-- The result tables `after` are those of `before` but for the points of group `g` whose result was absent (R149, R151): point `i` of
the group is present with the values `point i` or, without any, with outcome `flag` and values 0, with CLAMPED as given, and with its
trace flags and source coil; an ended entry among them is present with its end flag. -/
def GroupFilled (before after : List DepthTable) (g : Group) (point : Nat → Option Point) (clamped : Bool)
    (flag : Option Outcome) : Prop :=
  after.length = before.length ∧ ∀ (d : Nat) (t : DepthTable), before[d]? = some t →
    ∃ u, after[d]? = some u ∧ u.attrs = t.attrs ∧ ∀ n, u.results[n]? =
      if d = g.depth ∧ g.first ≤ n ∧ n < g.first + g.count then
        match t.results[n]?, t.attrs[n]? with
        | some none, some (.traced source _ _ split unscaled broken _) =>
          let p := (point (n - g.first)).getD ⟨0, 0, 0, ⟨false, false, false, false⟩, false, false, false⟩
          some (some ⟨p.mean, p.least, p.most, p.flags, p.sparse, p.partly, p.expired, clamped, split, unscaled, broken, flag, source⟩)
        | some none, some (.ended ending source) => some (some (.bare false false false false ending source))
        | r, _ => r
      else t.results[n]?

/-- REQ when the places `new` are met in order, each of a coil not yet in the visited set (R159, R163): they join the set; the 257th
is not made, it truncates the walk, and a descent collection in progress ends, its place passed. -/
def Req.withPlaces (r : Req) (new : List Place) : Req :=
  let fits := new.length ≤ 256 - r.walk.places.length
  let ends := ¬ fits ∧ r.collector.state ≠ .idle
  { r with
    walk := { r.walk with
      places := r.walk.places ++ new.take (256 - r.walk.places.length)
      truncated := r.walk.truncated || !fits
      expanded := if ends then r.walk.expanded + 1 else r.walk.expanded }
    collector := if ends then ⟨r.collector.gen + 1, .idle, 0, 0, 0, []⟩ else r.collector }

/-! ### Inputs -/

/-- The commands that an encoder pulse, the line feed link or the bits of the line bring (R1, R36, R79). -/
def fromPlant : Instr → Bool
  | .forwardPulse | .reversePulse | .lfRecordTimeout | .lfCheck _ | .sampleSet _ | .declare .. | .join .. | .tailOut _
  | .stripBreak _ | .cut .. | .lineIdle | .busStuck | .badFrame _ | .lostArbitration | .collision | .frameSent | .time ..
  | .lineageReply .. | .sampleReply .. | .descentReply .. | .lineageQuery .. | .sampleFetch .. | .descentQuery ..
  | .coilAnnounce .. | .presence .. | .undefinedFrameKind .. => true
  | .standstill | .finalizationExpiry _ | .lengthQueryTimeout _ | .flushWriteComplete | .pageReadComplete | .txWait _
  | .lineageQueryTimeout _ | .fetchTimeout _ | .quietTimerExpiry | .overallTimerExpiry | .timeFrameTimer | .plantClockWrap
  | .playback .. | .genealogy .. | .coilList .. | .status | .abort | .clearFault | .setTime _ | .consoleBadRecord ..
  | .consoleByteTimeout _ | .outputRecordSent | .settleCountEnd | .configLoad _ | .selfTestComplete _ | .externalResetAssert _
  | .externalResetRelease | .supplyLow | .retentionLoss | .supplyRecovery | .timeBaseTick => false

/-- The commands that the bytes of the console link bring (R170). -/
def fromDesk : Instr → Bool
  | .playback .. | .genealogy .. | .coilList .. | .status | .abort | .clearFault | .setTime _ | .consoleBadRecord ..
  | .consoleByteTimeout _ => true
  | .forwardPulse | .reversePulse | .lfRecordTimeout | .lfCheck _ | .sampleSet _ | .declare .. | .join .. | .tailOut _
  | .stripBreak _ | .cut .. | .lineIdle | .busStuck | .badFrame _ | .lostArbitration | .collision | .frameSent | .time ..
  | .lineageReply .. | .sampleReply .. | .descentReply .. | .lineageQuery .. | .sampleFetch .. | .descentQuery ..
  | .coilAnnounce .. | .presence .. | .undefinedFrameKind .. | .standstill | .finalizationExpiry _ | .lengthQueryTimeout _
  | .flushWriteComplete | .pageReadComplete | .txWait _ | .lineageQueryTimeout _ | .fetchTimeout _ | .quietTimerExpiry
  | .overallTimerExpiry | .timeFrameTimer | .plantClockWrap | .outputRecordSent | .settleCountEnd | .configLoad _
  | .selfTestComplete _ | .externalResetAssert _ | .externalResetRelease | .supplyLow | .retentionLoss | .supplyRecovery
  | .timeBaseTick => false

/-! ### Bounds and forms -/

/-- The capacities and the ranges of the counters (R1 to R3, R8, R23, R36, R84, R87, R90, R94, R102, R124, R163, R173, R176, R182). -/
structure State.Bounded (s : State) : Prop where
  odometer   : s.smp.odometer ≤ Config.max48
  fraction   : s.smp.fraction ≤ 255
  debt       : s.smp.debt ≤ Config.maxDebt
  stopTime   : s.smp.stopTime ≤ Config.max32
  flush      : s.tsc.flush.length ≤ Config.flushCap
  transmit   : s.bus.queue.length ≤ Config.txCap
  offLine    : s.running = false → s.bus.queue = []
  supply     : s.sup.monitor = .above ↔ s.sup.part ≠ .supplyLow
  service    : s.pse.service.length ≤ Config.serviceCap
  output     : s.con.out.length ≤ Config.outCap
  places     : s.req.walk.places.length ≤ Config.placeCap
  clock      : s.ros.clock ≤ Config.max48
  faultCount : s.sup.faultCount ≤ Config.max16
  badFrames  : s.bus.badFrames ≤ Config.max16
  collisions : s.bus.collisions ≤ Config.max16
  drops      : s.pse.drops ≤ Config.max16
  lfErrors   : s.lfr.errors ≤ Config.max16

/-- The tables of the tracker: at most 8 declarations, 16 entry records of which at most one RUNNING, 1,024 exit records with no
coil number twice (R38, R43, R51, R52). -/
structure Ctr.Sound (c : Ctr) : Prop where
  decls   : c.decls.length ≤ Config.declCap
  entries : c.entries.length ≤ Config.entryCap
  running : (c.entries.filter fun e => e.eEnd.isNone).length ≤ 1
  exits   : c.exits.length ≤ Config.exitCap
  coils   : (c.exits.map (·.coil)).Nodup

/-- The lineage cache: at most 256 records, no coil number twice, none of the own station (R71, R76). -/
structure State.CacheSound (s : State) : Prop where
  size  : s.lch.cache.length ≤ Config.cacheCap
  coils : (s.lch.cache.map (·.coil)).Nodup
  peers : ∀ r ∈ s.lch.cache, r.coil.station ≠ s.settings.station

/-- A MUTED part has no frame to send but its final PRESENCE, and CHECKING finds MUTED clear (R85, R94, R97, R98). -/
structure State.MutedSilent (s : State) : Prop where
  queue    : s.bus.muted = true → ∀ e ∈ s.bus.queue, e.owner = .busFinal
  waiting  : s.bus.muted = true → s.bus.waiting = []
  checking : s.sup.part = .checking → s.bus.muted = false

/-- At most one frame of this station is on the line, and none while the line is idle (R85). -/
structure Bus.OneOnLine (b : Bus) : Prop where
  one  : (b.queue.filter (·.onLine)).length ≤ 1
  idle : b.rx = .idle → ∀ e ∈ b.queue, e.onLine = false

/-- The sum of an accumulator lies between its count times its least and its greatest accepted value (R12, R13). -/
def Acc.Sound (a : Acc) : Prop :=
  match a.extrema with
  | none => a.count = 0 ∧ a.sum = 0
  | some (lo, hi) => 0 < a.count ∧ (a.count : Int) * lo ≤ a.sum ∧ a.sum ≤ (a.count : Int) * hi ∧ lo ≤ hi

/-- The event positions of the tracker stand in order (R37, R43, R44, R48): a record of the entry table ends before the next one
starts, none stands past the last event position, nor does the open segment's start. -/
structure Ctr.Ordered (c : Ctr) (lastPos : Nat) : Prop where
  entries : c.entries.Pairwise fun e f => ∃ x, e.eEnd = some x ∧ x ≤ f.eStart
  spans   : ∀ e ∈ c.entries, e.eStart ≤ e.eEnd.getD lastPos ∧ e.eEnd.getD lastPos ≤ lastPos
  segment : c.segStart ≤ lastPos

/-- The page of a live slot as the next start finds it: the test buffer where a self-test had the slot in hand (R29, R31). -/
def Tsc.pageIn (t : Tsc) (slot : Nat) : Option Page :=
  (ringAt t.ring slot).map fun p => match t.testMark with
    | some (marked, q) => if marked = slot then q else p
    | none => p

/-- The complete pages of a channel, oldest first: those its directory names, then those on the flush queue (R20, R23). -/
def Tsc.completePages (t : Tsc) (c : TscChan) : List Page :=
  c.dir.filterMap (fun e => t.pageIn e.2) ++ t.flush.filter fun p => p.chan == c.index

/-- The held bins of a channel with complete pages `ps` and open bin `openBin` (R20 to R22): the page numbers ascend with no gap to the
current page's, each page but the first begins with its bin 64j, the first begins at the horizon, each complete page holds its bins to
64j + 63 (as long as the store is `intact`), and the current page, of the open bin, those before the open bin. -/
structure TscChan.Holds (c : TscChan) (ps : List Page) (intact : Bool) (openBin : Nat) : Prop where
  meet    : (ps ++ [c.cur]).IsChain fun p q => q.no = p.no + 1 ∧ q.first = 64 * q.no
  own     : ∀ p ∈ ps ++ [c.cur], p.chan = c.index ∧ 64 * p.no ≤ p.first
  horizon : (ps ++ [c.cur]).head?.map (·.first) = some c.horizon
  full    : intact = true → ∀ p ∈ ps, p.first + p.bins.length = 64 * (p.no + 1)
  current : c.cur.no = openBin / 64 ∧ c.cur.first + c.cur.bins.length = openBin

/-- The trend store (R18 to R24, R26, R29 to R32): each block's channels are those of the channel table, ascending; the live slots are
exactly those the directories name, each by the channel and number of its page, and in one directory in the order in which the write
pointer comes to them; a channel holds exactly its bins from the horizon to the open bin; a flush write goes into a free slot; in
RUN-DEGRADED nothing is held. -/
structure State.StoreSound (s : State) : Prop where
  table     : (s.settings.channels.map (·.index)).Pairwise (· < ·)
  samplers  : s.smp.chans.map (·.index) = s.settings.channels.map (·.index)
  stores    : s.tsc.chans.map (·.index) = s.settings.channels.map (·.index)
  ring      : ringWf s.tsc.ring = true
  slots     : s.tsc.writePtr < slotCount s.settings.storeCode ∧ ∀ e ∈ s.tsc.ring, e.1 < slotCount s.settings.storeCode
  named     : ∀ e ∈ s.tsc.ring, ∃ c ∈ s.tsc.chans, c.index = e.2.chan ∧ (e.2.no, e.1) ∈ c.dir
  names     : ∀ c ∈ s.tsc.chans, ∀ x ∈ c.dir, ∃ p, ringAt s.tsc.ring x.2 = some p ∧ p.chan = c.index ∧ p.no = x.1
  order     : ∀ c ∈ s.tsc.chans, (c.dir.map fun x =>
    (x.2 + slotCount s.settings.storeCode - s.tsc.writePtr) % slotCount s.settings.storeCode).Pairwise (· < ·)
  held      : ∀ c ∈ s.tsc.chans, ∀ d, s.settings.channel c.index = some d →
    c.Holds (s.tsc.completePages c) s.tsc.intact (s.smp.odometer / d.step)
  queued    : ∀ p ∈ s.tsc.flush, ∃ c ∈ s.tsc.chans, c.index = p.chan
  write     : ∀ p cancelled, s.tsc.transfer = some (.write p cancelled) →
    ringAt s.tsc.ring s.tsc.writePtr = none ∧ (cancelled = false → s.tsc.flush.head? = some p)
  buffer    : ∀ i q p, s.tsc.testMark = some (i, q) → ringAt s.tsc.ring i = some p →
    q.chan = p.chan ∧ q.no = p.no ∧ q.first = p.first
  tested    : s.sup.part = .checking ∨ s.sup.part = .run → s.tsc.testMark = none
  intact    : s.sup.part = .checking ∨ s.running = true → s.tsc.intact = true
  degraded  : s.sup.part = .runDegraded → s.tsc.ring = [] ∧ s.tsc.flush = [] ∧ s.tsc.transfer = none

end Sys2Proof.Machine
end

