-- ==== Sys2Proof/WellFormed.lean ====
section
/-! DEFINITION. Which commands the links can deliver. `exec` is total all the same: an ill-formed command is answered by
the same rules (R36, R84, R99, R172, R178). -/

namespace Sys2Proof

/-- A frame heard on the bus: a payload of at most 160 bytes (R84). -/
def frameWf (payload : List Byte) : Bool := decide (payload.length ≤ Config.payloadCap)

/-- Kind 1 to 9 with its own class is no undefined frame (R95, 12.2). -/
def definedKind (cls : BitVec 3) (kind : BitVec 4) : Bool :=
  match kind.toNat with
  | 1 => cls == 0
  | 2 | 3 | 4 => cls == 1
  | 5 | 6 | 7 => cls == 2
  | 8 => cls == 3
  | 9 => cls == 4
  | _ => false

/-- What each command can carry on its link. -/
def Instr.wf : Instr → Bool
  | .lfCheck r => decide (r.length ≤ 259)
  | .sampleSet es => decide (1 ≤ es.length ∧ es.length ≤ 32) && es.all fun e => decide (e.channel.toNat ≤ 31)
  | .declare _ _ resumed _ offset => resumed == offset.isSome
  | .cut _ _ lanes _ => decide (1 ≤ lanes.toNat ∧ lanes.toNat ≤ 8)
  | .badFrame bits => decide (bits.head? = some false)
  | .time _ _ _ p | .lineageReply _ _ _ p | .sampleReply _ _ _ p | .descentReply _ _ _ p | .lineageQuery _ _ _ p
  | .sampleFetch _ _ _ p | .descentQuery _ _ _ p | .coilAnnounce _ _ _ p | .presence _ _ _ p => frameWf p
  | .undefinedFrameKind cls _ kind _ _ p => frameWf p && !definedKind cls kind
  | .consoleBadRecord bytes framingError => !(framingError && bytes.isEmpty)
  | .configLoad image => decide (image.length ≤ Config.imageWords)
  | .forwardPulse | .reversePulse | .standstill | .lfRecordTimeout | .join .. | .tailOut .. | .stripBreak ..
  | .finalizationExpiry .. | .lengthQueryTimeout .. | .flushWriteComplete | .pageReadComplete | .lineIdle | .busStuck
  | .lostArbitration | .collision | .frameSent | .txWait .. | .lineageQueryTimeout .. | .fetchTimeout ..
  | .quietTimerExpiry | .overallTimerExpiry | .timeFrameTimer | .plantClockWrap | .playback .. | .genealogy ..
  | .coilList .. | .status | .abort | .clearFault | .setTime .. | .consoleByteTimeout .. | .outputRecordSent | .settleCountEnd
  | .selfTestComplete .. | .externalResetAssert .. | .externalResetRelease | .supplyLow | .retentionLoss
  | .supplyRecovery | .timeBaseTick => true

end Sys2Proof
end

