-- ==== Sys2Proof/Certificates/Slice0/Obligations.lean ====
section
/-! DEFINITION. The statements for the provers. The rows of the table are stated one by one or by shape: under hypotheses on the
state and the operands alone, `exec` answers a next state, which is carried on (`Carried`, Safety.lean) from a state `u` that is
written out, so that everything `u` does not name is unchanged by the command's own effect. `s.receives` says that the part runs and
its reset input is not held (R177); `ResetAndSupply` says what the rows of a pulse, a line feed record or the line do elsewhere. -/

section

open Sys2Proof Sys2Proof.Machine


/-! ### The step and the state at reset -/

/-- A step runs the command at the front of the queue with the queue's rest; on an empty queue it leaves all as it is
(the idle step is the model's choice, assumption 1). Every command answers a next state in every state;
where its event cannot stand that is the model's choice (assumption 16). -/
def Obligations.StepTakesFrontCommand : Prop :=
  (∀ (c : Instr) (s : State), step { s with pending := c :: s.pending } = exec c s) ∧
    (∀ s : State, s.pending = [] → step s = .next s) ∧ ∀ (c : Instr) (s : State), ∃ t, exec c s = .next t

/-- At power-on what the spec states for a cold start stands in every block (R1, R7, R8, R33, R36, R37, R59, R76, R84, R87, R94,
R97, R102, R117, R124, R126, R176); that it stands there already in the settle count is the model's choice (assumption 2). -/
def Obligations.ResetLeavesColdValues : Prop :=
  State.reset.smp.odometer = 0 ∧ State.reset.smp.fraction = 0 ∧ State.reset.smp.debt = 0 ∧
    State.reset.smp.sampler = .standstill ∧ State.reset.smp.timer = 0 ∧ State.reset.smp.stopTime = 0 ∧
    State.reset.tsc.ring = [] ∧ State.reset.tsc.writePtr = 0 ∧ State.reset.tsc.flush = [] ∧
    State.reset.tsc.mark = .localEval ∧ State.reset.tsc.testMark = none ∧
    State.reset.lfr.errors = 0 ∧ State.reset.lfr.lastPos = 0 ∧
    State.reset.ctr.decls = [] ∧ State.reset.ctr.entries = [] ∧ State.reset.ctr.exits = [] ∧ State.reset.ctr.segStart = 0 ∧
    State.reset.lch.cache = [] ∧
    State.reset.bus.rx = .hunt ∧ State.reset.bus.queue = [] ∧ State.reset.bus.waiting = [] ∧ State.reset.bus.badFrames = 0 ∧
    State.reset.bus.collisions = 0 ∧ State.reset.bus.stuck = false ∧ State.reset.bus.muted = false ∧
    State.reset.pse.service = [] ∧ State.reset.pse.engine = .idle ∧ State.reset.pse.drops = 0 ∧
    (∀ e ∈ State.reset.ros.roster, e.state = .absent ∧ e.codes = none) ∧ State.reset.ros.roster.length = 62 ∧
    State.reset.ros.clock = 0 ∧ State.reset.ros.timeTimer = 0 ∧
    State.reset.req.engine = .idle ∧ State.reset.con.out = [] ∧ State.reset.con.complete = none ∧
    State.reset.sup.fault = none ∧ State.reset.sup.faultCount = 0 ∧ State.reset.sup.retention = false ∧
    State.reset.pending = []

/-! ### Strip length and sampling (chapter 1) -/

/-- A forward pulse that makes no whole-mm advance (R2, and R1 at the top of the odometer): it repays debt, or raises the
fraction below the next millimetre, or loses its carry at the top. -/
def Obligations.ForwardPulseWithoutAdvance : Prop :=
  ∀ s : State, s.receives = true →
    (s.settings.pulseWeight ≤ s.smp.debt →
      ∃ t, exec .forwardPulse s = .next t ∧
        Carried { s with smp := { s.smp with debt := s.smp.debt - s.settings.pulseWeight } } t) ∧
    (s.smp.debt < s.settings.pulseWeight → s.smp.fraction + (s.settings.pulseWeight - s.smp.debt) < 256 →
      s.smp.odometer < 2 ^ 48 - 1 →
      ∃ t, exec .forwardPulse s = .next t ∧
        Carried { s with smp := { s.smp with
          fraction := s.smp.fraction + (s.settings.pulseWeight - s.smp.debt), debt := 0 } } t) ∧
    (s.smp.debt < s.settings.pulseWeight → 256 ≤ s.smp.fraction + (s.settings.pulseWeight - s.smp.debt) →
      s.smp.odometer = 2 ^ 48 - 1 →
      ∃ t, exec .forwardPulse s = .next t ∧ Carried { s with smp := { s.smp with fraction := 255, debt := 0 } } t)

/-- A whole-mm advance (R1, R2, R5, R6, R14): odometer, fraction and debt, MOVING with the timer at 0, every channel whose bin boundary
is crossed empty with its last mean renewed when the closed bin had samples, every other channel as it was; the stop time stays.
Beyond SMP only TSC changes, and the fault record where a FLUSH-DROP is written. In RUN TSC takes the closed bins one by one, the
channels in the order of SMP's list and the bins of a channel in ascending index (R18), which is ascending channel and bin order
where that list ascends; with no boundary crossed neither TSC nor the fault record changes. In RUN-DEGRADED the horizons stand at
the open bins (R32). The model's readings in this: an advance that would pass the top of the odometer stops at the top with fraction
255 (assumption 11), and the odometer of a FLUSH-DROP record is that after the advance (assumption 39). -/
def Obligations.ForwardPulseAdvances : Prop :=
  ∀ (s : State) (carry frac : Nat), s.receives = true → s.smp.debt < s.settings.pulseWeight → 1 ≤ carry → frac < 256 →
    s.smp.fraction + (s.settings.pulseWeight - s.smp.debt) = carry * 256 + frac → s.smp.odometer < 2 ^ 48 - 1 →
    let ob := min (s.smp.odometer + carry) (2 ^ 48 - 1)
    ∃ u t, exec .forwardPulse s = .next t ∧ Carried u t ∧
      u.smp = { s.smp with
        odometer := ob, fraction := if 2 ^ 48 - 1 < s.smp.odometer + carry then 255 else frac, debt := 0, sampler := .moving, timer := 0
        chans := s.smp.chans.map fun c =>
          match s.settings.channel c.index with
          | none => c
          | some d =>
            if s.smp.odometer / d.step < ob / d.step then
              { c with acc := ⟨0, 0, none, false, false⟩,
                       lastMean := if 0 < c.acc.count then some (roundDiv c.acc.sum c.acc.count) else c.lastMean }
            else c } ∧
      { u with smp := s.smp, tsc := s.tsc, sup := s.sup } = s ∧
      (u.sup = s.sup ∨ ∃ n, s.sup.faultCount ≤ n ∧ u.sup = { s.sup with
        fault := some ⟨.flushDrop, .tsc, none, some ob, s.ros.clock⟩, faultCount := n }) ∧
      (s.sup.part = .run → (∀ c ∈ s.smp.chans, ∀ d, s.settings.channel c.index = some d →
          s.smp.odometer / d.step = ob / d.step) → u.tsc = s.tsc ∧ u.sup = s.sup) ∧
      (s.sup.part = .run →
        let closed : List (Nat × Nat × Nat × Bin) := s.smp.chans.flatMap fun c =>
          match s.settings.channel c.index with
          | none => []
          | some d => (closeChannel d s.smp.odometer ob c).2.map fun x => (c.index, ob / d.step, x.1, x.2)
        u = closed.foldl (fun v x => takeBin x.1 x.2.1 x.2.2.1 x.2.2.2 v) { s with smp := u.smp } ∧
          ((s.smp.chans.map (·.index)).Pairwise (· < ·) →
            closed.Pairwise fun x y => x.1 < y.1 ∨ x.1 = y.1 ∧ x.2.2.1 < y.2.2.1)) ∧
      (s.sup.part = .runDegraded → u.sup = s.sup ∧ ∀ c ∈ u.tsc.chans, ∀ d, s.settings.channel c.index = some d →
          c.horizon = ob / d.step)

/-- A reverse pulse adds the pulse weight to the debt, clamped to 16,777,215, and changes nothing else (R3).
The standstill timer reaching the standstill time: it stands there, the sampler is in STANDSTILL, and every open bin takes STOP
(R5, R17; that this row is SMP's part of the tick is the model's reading, assumption 5). -/
def Obligations.ReversePulseAndStandstill : Prop :=
  (∀ s : State, s.receives = true →
     ∃ t, exec .reversePulse s = .next t ∧
       Carried { s with smp := { s.smp with debt := min (s.smp.debt + s.settings.pulseWeight) 16777215 } } t) ∧
  (∀ s : State, s.running = true → s.smp.sampler = .moving → s.settings.standstillTime ≤ s.smp.timer + 1 →
     ∃ t, exec .standstill s = .next t ∧
       Carried { s with smp := { s.smp with
         timer := max s.smp.timer s.settings.standstillTime
         sampler := .standstill, chans := s.smp.chans.map fun c => { c with acc := { c.acc with stop := true } } } } t)

/-- A sample set in MOVING: each channel accepts, in the order of the record, the values addressed to it that are not −32,768;
in STANDSTILL the whole set is discarded (R12). -/
def Obligations.SampleSetReachesOpenBins : Prop :=
  ∀ (s : State) (es : List SampleEntry), s.receives = true → (Instr.sampleSet es).wf = true →
    (s.smp.sampler = .standstill → ∃ t, exec (.sampleSet es) s = .next t ∧ Carried s t) ∧
    (s.smp.sampler = .moving →
      ∃ t, exec (.sampleSet es) s = .next t ∧
        Carried { s with smp := { s.smp with chans := s.smp.chans.map fun c =>
          { c with acc := ((es.filter fun e => decide (e.channel.toNat = c.index ∧ e.value.toInt ≠ -32768)).map
            fun e => e.value.toInt).foldl (fun a v => a.accept v) c.acc } } } t)

/-- R13, whole: a value accepted at a count of 65,535 leaves sum and count, widens the extremes and sets SAT; the bin then closes
with the mean of its first 65,535 values and with the extremes of every accepted one; up to the 65,535th value SAT stays clear. -/
def Obligations.AcceptedBeyondFullCount : Prop :=
  (∀ (a : Machine.Acc) (lo hi x : Int), a.count = 65535 → a.extrema = some (lo, hi) →
    Machine.Acc.accept x a = { a with extrema := some (min lo x, max hi x), sat := true }) ∧
  ∀ (v : Int) (vs : List Int) (stop : Bool) (last : Option Int),
    let a : Machine.Acc := (v :: vs).foldl (fun a x => Machine.Acc.accept x a) ⟨0, 0, none, stop, false⟩
    (65535 ≤ vs.length → (a.close last).1 =
      { mean := roundDiv ((v :: vs).take 65535).sum 65535, least := vs.foldl min v, most := vs.foldl max v,
        flags := ⟨false, false, stop, true⟩ }) ∧
    (vs.length < 65535 → a.sat = false)

/-- A bin that closes with samples (R15): its mean is the average rounded half away from zero, its extremes are the accumulator's,
it carries STOP and SAT as gathered, least ≤ mean ≤ greatest, and the mean becomes the last mean.
An advance across a bin boundary of a channel (R14, R16, R18): the bins ka to kb − 1 close in order, the first from the
accumulator, the skipped ones HELD with the last mean in all three values, VOID with 0 in all three without one, and no other flag;
a first bin without samples is HELD or VOID in the same way with the accumulator's STOP. -/
def Obligations.AdvanceClosesBins : Prop :=
  (∀ (a : Machine.Acc) (last : Option Int) (lo hi : Int), a.Sound → a.extrema = some (lo, hi) →
     ∃ m : Int, a.close last = ({ mean := m, least := lo, most := hi, flags := ⟨false, false, a.stop, a.sat⟩ }, some m) ∧
       lo ≤ m ∧ m ≤ hi ∧ 2 * |a.sum - m * a.count| ≤ a.count ∧
       (2 * |a.sum - m * a.count| = a.count → |a.sum| < |m * a.count|)) ∧
  (∀ (d : ChannelDef) (oa ob : Nat) (c : SmpChan), oa / d.step < ob / d.step →
     let first := c.acc.close c.lastMean
     let x := closeChannel d oa ob c
     x.1 = { c with acc := ⟨0, 0, none, false, false⟩, lastMean := first.2 } ∧
       x.2.map Prod.fst = List.range' (oa / d.step) (ob / d.step - oa / d.step) ∧
       x.2.head?.map Prod.snd = some first.1 ∧
       (c.acc.count = 0 → first.2 = c.lastMean ∧ first.1 = match c.lastMean with
         | some m => { mean := m, least := m, most := m, flags := ⟨true, false, c.acc.stop, false⟩ }
         | none => { mean := 0, least := 0, most := 0, flags := ⟨false, true, c.acc.stop, false⟩ }) ∧
       ∀ b ∈ (x.2.map Prod.snd).tail, b = match first.2 with
         | some m => { mean := m, least := m, most := m, flags := ⟨true, false, false, false⟩ }
         | none => { mean := 0, least := 0, most := 0, flags := ⟨false, true, false, false⟩ })

/-- One tick in RUN or RUN-DEGRADED moves the timers and nothing else, but that the tick which brings the standstill timer to the
standstill time enters STANDSTILL with STOP on every open bin (R5, R17): the standstill timer in MOVING, the stop time in STANDSTILL
(R5, R8), the finalization, reply, quiet and overall timers (R40, R55, R130, R147, R164), the queue-wait timers (R92), the plant
clock where it is set and the time-frame timer (R124, R126). That the run-outs of the other timers are rows of their own is the
model's choice (assumption 5). In LOADING, CHECKING and CONFIG-FAULT only a plant clock that is set moves, which is the model's
reading (assumption 40). -/
def Obligations.TickMovesTimers : Prop :=
  ∀ s : State,
    (s.running = true → ∃ u t, exec .timeBaseTick s = .next t ∧ Carried u t ∧
      (s.smp.sampler = .moving → s.smp.timer + 1 < s.settings.standstillTime →
        u.smp = { s.smp with timer := s.smp.timer + 1 }) ∧
      (s.smp.sampler = .moving → s.settings.standstillTime ≤ s.smp.timer + 1 → u.smp = { s.smp with
        timer := max s.smp.timer s.settings.standstillTime, sampler := .standstill
        chans := s.smp.chans.map fun c => { c with acc := { c.acc with stop := true } } }) ∧
      (s.smp.sampler = .standstill → u.smp = { s.smp with
        stopTime := if s.smp.stopTime < 2 ^ 32 - 1 then s.smp.stopTime + 1 else s.smp.stopTime }) ∧
      u.ros.roster = s.ros.roster ∧
      u.ros.clock = (if s.ros.clock = 0 ∨ 2 ^ 48 - 1 ≤ s.ros.clock then 0 else s.ros.clock + 1) ∧
      u.ros.timeTimer = (if s.ros.clock = 0 then s.ros.timeTimer else if 2 ^ 48 - 1 ≤ s.ros.clock then 0
        else if s.settings.timeSource = true ∧ s.ros.timeTimer < 10000 then s.ros.timeTimer + 1 else s.ros.timeTimer) ∧
      u.ctr = { s.ctr with
        exits := s.ctr.exits.map fun r => match r.body with
          | .pending os n => { r with body := .pending os (n - 1) }
          | .final .. => r
        slots := s.ctr.slots.map fun x => { x with busy := x.busy.map fun b => { b with timer := b.timer.map (· - 1) } } } ∧
      u.req = { s.req with
        queries := s.req.queries.map fun x => { x with busy := x.busy.map fun b => { b with timer := b.timer.map (· - 1) } }
        fetches := s.req.fetches.map fun x => { x with busy := x.busy.map fun b => { b with timer := b.timer.map (· - 1) } }
        collector := if s.req.collector.state = .collecting then
            { s.req.collector with quiet := s.req.collector.quiet - 1, overall := s.req.collector.overall - 1 }
          else s.req.collector } ∧
      u.bus = { s.bus with queue := s.bus.queue.map fun e =>
        { e with wait := if e.wait < s.settings.queueWait then e.wait + 1 else e.wait } } ∧
      { u with smp := s.smp, ros := s.ros, ctr := s.ctr, req := s.req, bus := s.bus } = s) ∧
    (s.sup.part = .loading ∨ s.sup.part = .checking ∨ s.sup.part = .configFault → s.ros.clock ≠ 0 → s.ros.clock < 2 ^ 48 - 1 →
      ∃ t, exec .timeBaseTick s = .next t ∧ Carried { s with ros := { s.ros with clock := s.ros.clock + 1 } } t)

/-! ### Trend store (chapter 2) -/

/-- TSC takes the next closed bin of a channel at or above its horizon in RUN (R22 to R24): it joins the current page; the bin
that fills page j puts the page on the flush queue where it has room and opens page j + 1; with 32 pages queued the channel loses
every held bin: its queue entries, ring slots and directory are gone, its horizon and current page stand at the open bin, a write
of its page in transfer is cancelled, and FLUSH-DROP is written. Below the horizon the bin is discarded. -/
def Obligations.ClosedBinIsStored : Prop :=
  ∀ (s : State) (i openBin k : Nat) (b : Bin) (c : TscChan), s.sup.part = .run → s.tsc.chan i = some c →
    let keep (x : TscChan) : State := { s with tsc := { s.tsc with
      chans := s.tsc.chans.map fun y => if y.index = i then { y with cur := x.cur } else y } }
    let page := { c.cur with bins := c.cur.bins ++ [b] }
    (k < c.horizon → takeBin i openBin k b s = s) ∧
    (c.horizon ≤ k → k % 64 ≠ 63 → takeBin i openBin k b s = keep { c with cur := page }) ∧
    (c.horizon ≤ k → k % 64 = 63 → s.tsc.flush.length < 32 →
      takeBin i openBin k b s =
        let t := keep { c with cur := ⟨i, k / 64 + 1, 64 * (k / 64 + 1), []⟩ }
        { t with tsc := { t.tsc with flush := s.tsc.flush ++ [page] } }) ∧
    (c.horizon ≤ k → k % 64 = 63 → 32 ≤ s.tsc.flush.length →
      let u := takeBin i openBin k b s
      u.tsc.flush = s.tsc.flush.filter (fun p => p.chan != i) ∧
        u.tsc.ring = s.tsc.ring.filter (fun e => e.2.chan != i) ∧
        u.tsc.chans = s.tsc.chans.map (fun y =>
          if y.index = i then { index := i, dir := [], horizon := openBin, cur := ⟨i, openBin / 64, openBin, []⟩ } else y) ∧
        u.tsc.writePtr = s.tsc.writePtr ∧
        (∀ p x, s.tsc.transfer = some (.write p x) → u.tsc.transfer = some (.write p (x || p.chan == i))) ∧
        u.sup = { s.sup with
          fault := some ⟨.flushDrop, .tsc, none, some s.smp.odometer, s.ros.clock⟩
          faultCount := if s.sup.faultCount < 65535 then s.sup.faultCount + 1 else s.sup.faultCount } ∧
        { u with tsc := s.tsc, sup := s.sup } = s)

/-- A flush write completes (R19, R24, R26): the slot at the write pointer is live with the page, the page leaves the head of the
flush queue and joins the tail of its channel's directory, and the pointer advances, from the last slot to 0; the write of a page
that a FLUSH-DROP removed only moves the pointer. Every other slot reads as before.
In RUN with the memory free and pages queued the flush writer is granted (R25, R26): a live slot at the write pointer gives up
its page, its channel's directory loses that slot and its horizon goes to the page after it, and the write of the head page begins.
No other slot changes. -/
def Obligations.FlushWritesAndEvictions : Prop :=
  (∀ (s : State) (p : Page), s.running = true →
     (s.tsc.transfer = some (.write p true) → ∃ t, exec .flushWriteComplete s = .next t ∧
       Carried { s with tsc := { s.tsc with
         transfer := none, writePtr := (s.tsc.writePtr + 1) % slotCount s.settings.storeCode } } t) ∧
     (s.tsc.transfer = some (.write p false) → ∃ u t, exec .flushWriteComplete s = .next t ∧ Carried u t ∧
       (∀ n, ringAt u.tsc.ring n = if n = s.tsc.writePtr then some p else ringAt s.tsc.ring n) ∧
       u = { s with tsc := { s.tsc with
         ring := u.tsc.ring, transfer := none, writePtr := (s.tsc.writePtr + 1) % slotCount s.settings.storeCode
         flush := s.tsc.flush.tail
         chans := s.tsc.chans.map fun c =>
           if c.index = p.chan then { c with dir := c.dir ++ [(p.no, s.tsc.writePtr)] } else c } })) ∧
  (∀ (s : State) (p : Page), s.sup.part = .run → s.tsc.transfer = none → s.tsc.flush.head? = some p →
     ∃ u, grantStep s = some u ∧ { u with tsc := s.tsc } = s ∧ u.tsc.transfer = some (.write p false) ∧
       u.tsc.flush = s.tsc.flush ∧ u.tsc.writePtr = s.tsc.writePtr ∧
       (∀ n, ringAt u.tsc.ring n = if n = s.tsc.writePtr then none else ringAt s.tsc.ring n) ∧
       (ringAt s.tsc.ring s.tsc.writePtr = none → u.tsc.chans = s.tsc.chans) ∧
       ∀ old, ringAt s.tsc.ring s.tsc.writePtr = some old → u.tsc.chans = s.tsc.chans.map fun c =>
         if c.index = old.chan then
           { c with dir := c.dir.filter (fun e => e.2 != s.tsc.writePtr), horizon := 64 * (old.no + 1) } else c)

/-- The page read in transfer completes (R27, R112, R115, R116, R146): the memory is free and the bins reach the evaluator that asked.
The peer evaluator goes on to the next page that holds used bins, as does the local one, and the last page of either gives the result:
of the peer evaluator a SAMPLE-REPLY, of the local one the results of its LOCAL slot, which is idle again; a local evaluator that
drains ends and the bins are discarded, as are those of a peer read whose evaluation MUTED has abandoned (R104).
What a page read reports of bin n of page j of an enabled channel (R27): EXPIRED below the horizon, OPEN at or above the open
bin, otherwise the bin in the current page, in the flush queue, or in the ring slot the directory names, in that order; in RUN-DEGRADED
all 64 bins are EXPIRED (R27, R32).
With the memory free and no flush write waiting in RUN, the arbiter grants a waiting evaluator, of two the one that the alternation
mark does not name, and the mark names it (R25); the read takes a transfer or completes at its grant. -/
def Obligations.PageReadCompletesAndClassifies : Prop :=
  (∀ (s : State) (bins : List BinClass), s.running = true →
     (∀ (r : ServiceReq) (ev next : Eval), s.tsc.transfer = some (.read .peer bins) → s.pse.engine = .evaluating r ev →
       ev.feed bins = .more next → ∃ t, exec .pageReadComplete s = .next t ∧
         Carried { s with tsc := { s.tsc with transfer := none }, pse := { s.pse with engine := .evaluating r next } } t) ∧
     (∀ (r : ServiceReq) (ev : Eval) (x : FetchResult), s.tsc.transfer = some (.read .peer bins) →
       s.pse.engine = .evaluating r ev → ev.feed bins = .finished x → s.bus.muted = false →
       ∃ t, exec .pageReadComplete s = .next t ∧
         Carried { s with
           tsc := { s.tsc with transfer := none }
           pse := { s.pse with engine := .holding [] }
           bus := { s.bus with waiting := s.bus.waiting ++ [{
             frame := { kind := .sampleReply, dest := r.source, tag := r.tag, payload := fetchResultBytes x }, owner := .pseReply,
             collisions := 0, wait := 0, onLine := false, withdrawn := false }] } } t) ∧
     (s.tsc.transfer = some (.read .peer bins) → (∀ r ev, s.pse.engine ≠ .evaluating r ev) →
       ∃ t, exec .pageReadComplete s = .next t ∧ Carried { s with tsc := { s.tsc with transfer := none } } t) ∧
     (∀ (i : Nat) (ev next : Eval), s.tsc.transfer = some (.read .localEval bins) → s.req.localEval = .running i ev →
       ev.feed bins = .more next → ∃ t, exec .pageReadComplete s = .next t ∧
         Carried { s with tsc := { s.tsc with transfer := none }, req := { s.req with localEval := .running i next } } t) ∧
     (∀ (i : Nat) (ev : Eval) (x : FetchResult) (gen : BitVec 2) (b : FetchBusy), s.tsc.transfer = some (.read .localEval bins) →
       s.req.localEval = .running i ev → ev.feed bins = .finished x → s.req.fetches[i]? = some ⟨gen, some b⟩ →
       ∃ u t, exec .pageReadComplete s = .next t ∧ Carried u t ∧
         u = { s with
           tsc := { s.tsc with transfer := none }
           bus := (s.withdraw fun o => o == .reqFetch i).bus
           req := { s.req with
             localEval := .idle, fetches := s.req.fetches.set i ⟨gen, none⟩, depths := u.req.depths } } ∧
         if x.points.length = b.group.count then
           GroupFilled s.req.depths u.req.depths b.group (fun n => x.points[n]?) x.clamped none
         else GroupFilled s.req.depths u.req.depths b.group (fun _ => none) x.clamped (some .unanswered)) ∧
     (s.tsc.transfer = some (.read .localEval bins) → s.req.localEval = .draining → ∃ t, exec .pageReadComplete s = .next t ∧
       Carried { s with tsc := { s.tsc with transfer := none }, req := { s.req with localEval := .idle } } t)) ∧
  (∀ (s : State) (i j n : Nat) (c : TscChan) (d : ChannelDef), s.tsc.chan i = some c → s.settings.channel i = some d → n < 64 →
     let k := 64 * j + n
     let got := (readPage s i j).1[n]?
     (s.sup.part = .runDegraded → got = some .expired) ∧
     (k < c.horizon → got = some .expired) ∧
     (s.sup.part ≠ .runDegraded → c.horizon ≤ k → s.smp.odometer / d.step ≤ k → got = some .unclosed) ∧
     (∀ (p : Page) (b : Bin), s.sup.part ≠ .runDegraded → c.horizon ≤ k → k < s.smp.odometer / d.step → p.first ≤ k →
       p.bins[k - p.first]? = some b →
       (c.cur.no = j ∧ p = c.cur ∨
         c.cur.no ≠ j ∧ s.tsc.flush.find? (fun q => q.chan == c.index && q.no == j) = some p ∨
         c.cur.no ≠ j ∧ s.tsc.flush.find? (fun q => q.chan == c.index && q.no == j) = none ∧
           ∃ e, c.dir.find? (fun e => e.1 == j) = some e ∧ ringAt s.tsc.ring e.2 = some p) →
       got = some (.closed b))) ∧
  ∀ s : State, s.tsc.transfer = none → (s.sup.part = .run → s.tsc.flush = []) →
    let peer : Option (Nat × Nat) := match s.pse.engine with
      | .evaluating _ ev => some (ev.chan, ev.page)
      | _ => none
    let own : Option (Nat × Nat) := match s.req.localEval with
      | .running _ ev => some (ev.chan, ev.page)
      | _ => none
    let granted (who : Evaluator) (i j : Nat) (u : State) : Prop :=
      ((readPage s i j).2 = true →
        u = { s with tsc := { s.tsc with mark := who, transfer := some (.read who (readPage s i j).1) } }) ∧
      ((readPage s i j).2 = false → u = deliver who (readPage s i j).1 { s with tsc := { s.tsc with mark := who } })
    (peer = none → own = none → grantStep s = none) ∧
    (∀ i j, peer = some (i, j) → own = none ∨ s.tsc.mark = .localEval → ∃ u, grantStep s = some u ∧ granted .peer i j u) ∧
    (∀ i j, own = some (i, j) → peer = none ∨ s.tsc.mark = .peer → ∃ u, grantStep s = some u ∧ granted .localEval i j u)

/-! ### Coil tracking (chapter 3) -/

/-- A failing line feed record, by its check or by the 100 ms limit, and a sample set, DECLARE or CUT with a field out of range (R36,
12.5): the assembler is cleared, the error count rises to 65,535 at most, and the first failure since its mark was cleared writes
LF-CHECK. The bytes after a start byte fail by their number, their CRC, an undefined kind, or a payload that is no form of its kind.
That a DECLARE with a coil byte of 64 or more or a flag byte above 3 fails is the model's reading (assumption 9). -/
def Obligations.LineFeedFailureCounted : Prop :=
  ∀ (s : State) (c : Instr), s.receives = true →
    let fails (bs : List Byte) : Prop :=
      let n := field bs 0 1
      let byte (i : Nat) : Nat := field bs (2 + i) 1
      bs.length ≠ n + 4 ∨ field bs (n + 2) 2 ≠ (crcBytes (bs.take (n + 2))).toNat ∨
        ¬ match field bs 1 1 with
          | 1 => n % 3 = 0 ∧ 1 ≤ n / 3 ∧ n / 3 ≤ 32 ∧ ∀ i < n / 3, byte (3 * i) ≤ 31
          | 2 => byte 0 < 64 ∧ (n = 10 ∧ byte 5 < 2 ∨ n = 14 ∧ 2 ≤ byte 5 ∧ byte 5 < 4)
          | 3 => (n = 1 ∨ n = 7) ∧ byte 0 < 2
          | 4 | 5 => n = 0 ∨ n = 6
          | 6 => (n = 6 ∨ n = 12) ∧ byte 0 < 2 ∧ 1 ≤ byte 5 ∧ byte 5 ≤ 8
          | _ => False
    (c = .lfRecordTimeout ∨ (∃ bs, c = .lfCheck bs ∧ fails bs) ∨
      c.wf = false ∧ ((∃ es, c = .sampleSet es) ∨ (∃ k h r d o, c = .declare k h r d o) ∨ ∃ a q l p, c = .cut a q l p)) →
    ∃ t, exec c s = .next t ∧ Carried { s with
      lfr := { s.lfr with assembler := [], errors := if s.lfr.errors < 65535 then s.lfr.errors + 1 else s.lfr.errors }
      sup := if s.sup.markLf then s.sup else { s.sup with
        fault := some ⟨.lfCheck, .lfr, none, none, s.ros.clock⟩, markLf := true
        faultCount := if s.sup.faultCount < 65535 then s.sup.faultCount + 1 else s.sup.faultCount } } t

/-- The event position (R37): absent it is the odometer; beyond the odometer it becomes the odometer and below the last event
position it becomes that, each with LF-ORDER of LFR; otherwise it is as given. It becomes the last event position. -/
def Obligations.EventPositionSettled : Prop :=
  ∀ (s : State) (position : Option (BitVec 48)), s.lfr.lastPos ≤ s.smp.odometer →
    let x := (takePosition position s).1
    let u := (takePosition position s).2
    s.lfr.lastPos ≤ x ∧ x ≤ s.smp.odometer ∧
      (position = none → x = s.smp.odometer ∧ u = { s with lfr := { s.lfr with lastPos := x } }) ∧
      ∀ p, position = some p →
        (s.lfr.lastPos ≤ p.toNat → p.toNat ≤ s.smp.odometer →
          x = p.toNat ∧ u = { s with lfr := { s.lfr with lastPos := x } }) ∧
        (s.smp.odometer < p.toNat ∨ p.toNat < s.lfr.lastPos →
          x = (if s.smp.odometer < p.toNat then s.smp.odometer else s.lfr.lastPos) ∧
          u = { s with
            lfr := { s.lfr with lastPos := x }
            sup := { s.sup with
              fault := some ⟨.lfOrder, .lfr, none, some s.smp.odometer, s.ros.clock⟩
              faultCount := if s.sup.faultCount < 65535 then s.sup.faultCount + 1 else s.sup.faultCount } })

/-- A DECLARE (R38, R39): with 8 declarations queued it is discarded with DECLARE-OVERFLOW; otherwise it joins the tail, with the
declared length where that is not 0, else with the length the lookup gives: none for a coil off the bus, the own exit record's for an
own coil, the cached record's (which becomes the most recently used) for another station's, and WANTED where none is cached. -/
def Obligations.DeclareQueued : Prop :=
  ∀ (s : State) (coil : Coil) (headFirst resumed : Bool) (declared : BitVec 32) (offset : Option (BitVec 32)),
    s.receives = true → (Instr.declare coil headFirst resumed declared offset).wf = true →
    let c := Instr.declare coil headFirst resumed declared offset
    (8 ≤ s.ctr.decls.length → ∃ t, exec c s = .next t ∧ Carried { s with sup := { s.sup with
      fault := some ⟨.declareOverflow, .ctr, some coil, none, s.ros.clock⟩
      faultCount := if s.sup.faultCount < 65535 then s.sup.faultCount + 1 else s.sup.faultCount } } t) ∧
    (s.ctr.decls.length < 8 → ∃ (t : State) (length : Option Nat) (lq : LengthState) (cache : List LineageRec),
      exec c s = .next t ∧
      Carried { s with
        lch := { s.lch with cache }
        ctr := { s.ctr with
          nextId := s.ctr.nextId + 1
          decls := s.ctr.decls ++ [⟨s.ctr.nextId, coil, headFirst, length, offset.map BitVec.toNat, lq⟩] } } t ∧
      (declared ≠ 0 → length = some declared.toNat ∧ lq = .none ∧ cache = s.lch.cache) ∧
      (declared = 0 → coil.station = 0 ∨ coil.station = 63 → length = none ∧ lq = .none ∧ cache = s.lch.cache) ∧
      (declared = 0 → coil.station ≠ 0 → coil.station ≠ 63 → coil.station = s.settings.station →
        length = (s.ctr.exits.find? fun r => r.coil == coil).map (fun r => r.oEnd - r.oStart) ∧ lq = .none ∧
          cache = s.lch.cache) ∧
      (declared = 0 → coil.station ≠ 0 → coil.station ≠ 63 → coil.station ≠ s.settings.station →
        (∀ r, s.lch.cache.find? (fun r => r.coil == coil) = some r → length = some r.length ∧ lq = .none ∧
          cache = r :: s.lch.cache.filter fun x => x.coil != coil) ∧
        (s.lch.cache.find? (fun r => r.coil == coil) = none → length = none ∧ lq = .wanted ∧ cache = s.lch.cache)))

/-- A JOIN (R37, R43, R45, R46, R47, R53, R54, R56): a RUNNING record ends at the event position x, PENDING records that become ready
are FINAL with the pieces R63 builds and are announced as R56 lets them, and the DONE records that neither the open segment nor a
PENDING record overlaps are released; of 16 records still held the oldest DONE one leaves with ENTRY-EVICT, and every overlap entry
linked to it loses its link; the new RUNNING record starts at x with the head declaration or for coil 0:0. THREAD while a record is
RUNNING and WELD while none is write LF-ORDER of CTR, and ENTRY-EVICT is written after it (the model's choice, assumption 38).
SMP, TSC, LCH, PSE, ROS, REQ and CON are unchanged. -/
def Obligations.JoinAddsRunning : Prop :=
  ∀ (s : State) (thread : Bool) (position : Option (BitVec 48)), s.receives = true → s.ctr.Sound →
    let x := (takePosition position s).1
    let p := (takePosition position s).2
    let ended := s.ctr.entries.map fun e => if e.eEnd = none then { e with eEnd := some x } else e
    let now := s.announcedOf (readyRecords ended s.ctr.exits)
    let checked := if s.ctr.running.isSome then s.ctr.exits.map (ExitRec.checked ended now) else s.ctr.exits
    let held := if s.ctr.running.isSome then ended.filter fun e =>
        decide (s.ctr.segStart < e.eEnd.getD 0) || checked.any fun r => r.linksTo e.id
      else s.ctr.entries
    let gone : Option Entry := if held.length < 16 then none else held.head?
    let wrote (u : Sup) (kind : FaultKind) (coil : Option Coil) (odometer : Option Nat) : Sup := { u with
      fault := some ⟨kind, .ctr, coil, odometer, s.ros.clock⟩
      faultCount := if u.faultCount < 65535 then u.faultCount + 1 else u.faultCount }
    let warned := if thread = s.ctr.running.isSome then wrote p.sup .lfOrder none (some x) else p.sup
    ∃ u t : State, exec (.join thread position) s = .next t ∧ Carried u t ∧
      { u with ctr := p.ctr, bus := p.bus, sup := p.sup } = p ∧
      (if s.ctr.running.isSome then s.Announces u (readyRecords ended s.ctr.exits) else u.bus = s.bus) ∧
      u.sup = (match gone with
        | some e => wrote warned .entryEvict (some e.coil) none
        | none => warned) ∧
      u.ctr = { s.ctr with
        nextId := if s.ctr.decls = [] then s.ctr.nextId + 1 else s.ctr.nextId
        decls := s.ctr.decls.tail
        entries := (match gone with
            | some e => held.filter fun y => y.id != e.id
            | none => held) ++ [match s.ctr.decls with
          | d :: _ => ⟨d.id, d.coil, d.headFirst, d.length, d.offset, d.lq, x, none, false⟩
          | [] => ⟨s.ctr.nextId, .unknown, false, none, none, .none, x, none, false⟩]
        exits := match gone with
          | none => checked
          | some e => checked.map fun r => match r.body with
            | .pending os n => { r with
                body := .pending (os.map fun v => if v.link = some e.id then { v with link := none } else v) n }
            | .final .. => r }

/-- TAIL-OUT and BREAK (R37, R44, R45, R46, R53, R54, R56): with no RUNNING record LF-ORDER of CTR and nothing further; otherwise the
RUNNING record ends at the event position, BROKEN by a BREAK, every PENDING record that is then ready is FINAL with the pieces of
R63, announced at once or announce-pending as R56 says, and only the entry records remain that the open segment or a PENDING record
overlaps. -/
def Obligations.TailEventEndsRunning : Prop :=
  ∀ (s : State) (broken : Bool) (position : Option (BitVec 48)), s.receives = true → s.ctr.Sound →
    let c : Instr := if broken then .stripBreak position else .tailOut position
    let x := (takePosition position s).1
    let p := (takePosition position s).2
    let ended := s.ctr.entries.map fun e =>
      if e.eEnd = none then { e with eEnd := some x, broken := e.broken || broken } else e
    (s.ctr.running = none → ∃ t, exec c s = .next t ∧ Carried { p with sup := { p.sup with
      fault := some ⟨.lfOrder, .ctr, none, some x, s.ros.clock⟩
      faultCount := if p.sup.faultCount < 65535 then p.sup.faultCount + 1 else p.sup.faultCount } } t) ∧
    (s.ctr.running.isSome → ∃ u t, exec c s = .next t ∧ Carried u t ∧
      { u with ctr := p.ctr, bus := p.bus } = p ∧ s.Announces u (readyRecords ended s.ctr.exits) ∧
      u.ctr = { s.ctr with
        exits := s.ctr.exits.map (ExitRec.checked ended (s.announcedOf (readyRecords ended s.ctr.exits)))
        entries := ended.filter fun e =>
          decide (s.ctr.segStart < e.eEnd.getD 0) || u.ctr.exits.any fun r => r.linksTo e.id })

/-- A CUT that makes no record (R9, R48): SCRAP, and COIL of an empty segment or of one longer than 4,294,967,295 mm, which writes
LF-ORDER of CTR. The stop time is 0, the next segment starts at the event position, and the entry records no longer needed are
released. -/
def Obligations.CutWithoutRecord : Prop :=
  ∀ (s : State) (scrap : Bool) (sequence : BitVec 32) (lanes : Byte) (position : Option (BitVec 48)), s.receives = true →
    (Instr.cut scrap sequence lanes position).wf = true →
    let x := (takePosition position s).1
    let p := (takePosition position s).2
    let next : Ctr := { s.ctr with segStart := x }
    scrap = true ∨ x ≤ s.ctr.segStart ∨ 2 ^ 32 - 1 < x - s.ctr.segStart →
    ∃ t, exec (.cut scrap sequence lanes position) s = .next t ∧ Carried { p with
      smp := { s.smp with stopTime := 0 }
      ctr := { next with entries := s.ctr.entries.filter next.needs }
      sup := if scrap then p.sup else { p.sup with
        fault := some ⟨.lfOrder, .ctr, none, some x, s.ros.clock⟩
        faultCount := if p.sup.faultCount < 65535 then p.sup.faultCount + 1 else p.sup.faultCount } } t

/-- A CUT with COIL of a segment of 1 to 4,294,967,295 mm (R9, R48, R49, R50, R53), no lane's coil number being in the exit table and
the table having room: one record per lane stands after the others in lane order, with the segment, the plant clock, the stop time,
lane and lane count; it is FINAL with its pieces where its overlap list is ready, announced at once or announce-pending as R56 says,
else PENDING with the overlap list and the full finalization limit. The stop time is 0 and the next segment starts at the event
position. -/
def Obligations.CutMakesExitRecords : Prop :=
  ∀ (s : State) (sequence : BitVec 32) (lanes : Byte) (position : Option (BitVec 48)), s.receives = true →
    (Instr.cut false sequence lanes position).wf = true → s.ctr.Sound →
    let x := (takePosition position s).1
    let p := (takePosition position s).2
    let lane (i : Nat) : ExitRec :=
      { coil := ⟨s.settings.station, sequence + BitVec.ofNat 32 i⟩, oStart := s.ctr.segStart, oEnd := x, close := s.ros.clock,
        stop := s.smp.stopTime, lane := i + 1, lanes := lanes.toNat, timedOut := false,
        body := .pending (overlapList s.ctr.entries s.ctr.segStart x) (s.settings.finalHours * 3600000) }
    let pieces := (overlapList s.ctr.entries s.ctr.segStart x).map (buildPiece s.ctr.entries s.ctr.segStart)
    let ready := overlapsReady s.ctr.entries (overlapList s.ctr.entries s.ctr.segStart x)
    let ls : List LineageRec := if ready then (List.range lanes.toNat).map fun i => (lane i).lineageWith pieces else []
    s.ctr.segStart < x → x - s.ctr.segStart ≤ 2 ^ 32 - 1 → s.ctr.exits.length + lanes.toNat ≤ 1024 →
    (∀ i < lanes.toNat, ∀ r ∈ s.ctr.exits, r.coil ≠ (lane i).coil) →
    ∃ u t, exec (.cut false sequence lanes position) s = .next t ∧ Carried u t ∧
      { u with smp := s.smp, ctr := p.ctr, bus := p.bus } = p ∧ u.smp = { s.smp with stopTime := 0 } ∧ s.Announces u ls ∧
      u.ctr = { s.ctr with
        exits := s.ctr.exits ++ (List.range lanes.toNat).map (fun i =>
          if ready then
            { lane i with body := .final pieces (!(s.announcedOf ls).any fun l => l.coil == (lane i).coil) }
          else lane i)
        segStart := x
        entries := s.ctr.entries.filter { u.ctr with entries := s.ctr.entries }.needs }

/-- Placing a new exit record (R51, R52): a record of the same coil number is removed with RENUMBER; a table that then still holds
1,024 records loses the first in close order with EXIT-EVICT; the new record stands last and its coil number stands there once. -/
def Obligations.ExitRecordPlaced : Prop :=
  ∀ (s : State) (r : ExitRec), s.ctr.Sound →
    let others := s.ctr.exits.filter fun y => y.coil != r.coil
    let u := placeExit s r
    (others.length < 1024 → u.ctr.exits = others ++ [r]) ∧
    (∀ old rest, others = old :: rest → 1024 ≤ others.length → u.ctr.exits = rest ++ [r] ∧
      u.sup.fault = some ⟨.exitEvict, .ctr, some old.coil, none, s.ros.clock⟩) ∧
    (others.length < 1024 → others ≠ s.ctr.exits →
      u.sup.fault = some ⟨.renumber, .ctr, some r.coil, none, s.ros.clock⟩) ∧
    (s.ctr.exits.length < 1024 → others = s.ctr.exits → u = { s with ctr := { s.ctr with exits := s.ctr.exits ++ [r] } }) ∧
    { u with ctr := s.ctr, sup := s.sup } = s ∧ u.ctr.Sound

/-- A finalization timer that has run out (R46, R54, R55, R56): the record is FINAL with the pieces of R63 and TIMED-OUT, ready or not,
announced at once or announce-pending; every other record stays, and the entry records no longer needed are released. -/
def Obligations.FinalizationTimerRunsOut : Prop :=
  ∀ (s : State) (r : ExitRec) (os : List Overlap), s.running = true → s.ctr.Sound → r ∈ s.ctr.exits →
    r.body = .pending os 0 →
    let pieces := os.map (buildPiece s.ctr.entries r.oStart)
    let l : LineageRec := { r.lineageWith pieces with timedOut := true }
    ∃ u t, exec (.finalizationExpiry r.coil) s = .next t ∧ Carried u t ∧ { u with ctr := s.ctr, bus := s.bus } = s ∧
      s.Announces u [l] ∧
      u.ctr = { s.ctr with
        exits := s.ctr.exits.map (fun y =>
          if y.coil = r.coil then { r with timedOut := true, body := .final pieces (s.announcedOf [l]).isEmpty } else y)
        entries := s.ctr.entries.filter { u.ctr with entries := s.ctr.entries }.needs }

/-- The overlap list of a segment (R50): 1 to 8 entries that are not empty and meet end to start from the segment's start to its end;
up to 8 of them, they are the intersections with the entry records in order, each linked to its record with its coil and orientation,
and gaps for coil 0:0; of more than 8, the first 7 stand and an 8th for coil 0:0 with MERGED covers the rest. -/
def Obligations.OverlapListCoversSegment : Prop :=
  ∀ (es : List Entry) (oStart oEnd : Nat), oStart < oEnd →
    es.Pairwise (fun e f => e.eEnd.getD oEnd ≤ f.eStart) →
    let vs := overlapList es oStart oEnd
    let all := coverSegment oEnd oStart es
    (vs.map (·.x0)).head? = some oStart ∧ (vs.map (·.x1)).getLast? = some oEnd ∧ vs.length ≤ 8 ∧ (∀ v ∈ vs, v.x0 < v.x1) ∧
      vs.IsChain (fun v w => v.x1 = w.x0) ∧
      (all.filter fun v => v.link.isSome) = (es.filter fun e =>
          decide (max oStart e.eStart < min oEnd (e.eEnd.getD oEnd))).map (fun e =>
        ⟨e.coil, e.headFirst, max oStart e.eStart, min oEnd (e.eEnd.getD oEnd), some e.id, false⟩) ∧
      (∀ v ∈ all, v.link = none → v.coil = .unknown ∧ v.merged = false) ∧
      all.IsChain (fun v w => v.x1 = w.x0 ∧ (v.link.isSome ∨ w.link.isSome)) ∧
      (all.length ≤ 8 → vs = all) ∧
      (8 < all.length → vs.take 7 = all.take 7 ∧ ∃ x0, vs.drop 7 = [⟨.unknown, false, x0, oEnd, none, true⟩])

/-- The reply timer of a length query stands at 0 (R40, R98, R120): another attempt under the same tag is offered where one is allowed
and the part is not MUTED; under MUTED, and at the last allowed attempt, the query ends without a length, and the producing station is
SILENT where every allowed attempt was sent and timed out.
A length query starts (R40, R42): the oldest record in state WANTED, entry records by JOIN before declarations by their place, takes an
idle slot under its next generation and is ASKED, with 1 attempt allowed where its station is SILENT, else 1 + retry limit, and the first
LINEAGE-QUERY is offered; under MUTED its state is NONE and the slot stays idle. Without a WANTED record or an idle slot nothing starts.
That the idle slot of lowest number is taken is the model's choice (assumption 21). -/
def Obligations.LengthQueryTimesOut : Prop :=
  (∀ (s : State) (i : BitVec 3) (gen : BitVec 2) (b : LengthBusy), s.running = true →
    s.ctr.slots[i.toNat]? = some ⟨gen, some b⟩ → b.timer = some 0 →
    (b.tries < b.allowed → s.bus.muted = false → ∃ t, exec (.lengthQueryTimeout i) s = .next t ∧
      Carried { s with
        ctr := { s.ctr with slots := s.ctr.slots.set i.toNat ⟨gen, some { b with tries := b.tries + 1, timer := none }⟩ }
        bus := { s.bus with waiting := s.bus.waiting ++ [{
          frame := { kind := .lineageQuery, dest := b.coil.station, tag := BitVec.ofNat 8 (128 + i.toNat * 4 + gen.toNat),
                     payload := coilBytes 0 b.coil },
          owner := .ctrQuery i.toNat, collisions := 0, wait := 0, onLine := false, withdrawn := false }] } } t) ∧
    (b.allowed ≤ b.tries ∨ s.bus.muted = true →
      let silent : RosterEntry := { s.rosterEntry b.coil.station with state := .silent }
      ∃ t, exec (.lengthQueryTimeout i) s = .next t ∧
      Carried { s with
        ctr := { s.ctr with
          slots := s.ctr.slots.set i.toNat ⟨gen, none⟩
          decls := s.ctr.decls.map fun d => if d.id = b.link then { d with lq := .none } else d
          entries := s.ctr.entries.map fun e => if e.id = b.link then { e with lq := .none } else e }
        bus := { s.bus with waiting := s.bus.waiting.filter fun e => e.owner != .ctrQuery i.toNat }
        ros := if b.dropped ∨ b.tries < b.allowed ∨ b.coil.station = 0 ∨ b.coil.station = 63 ∨ b.coil.station = s.settings.station
          then s.ros
          else { s.ros with roster := s.ros.roster.set (b.coil.station.toNat - 1) silent } } t)) ∧
  ∀ s : State, s.running = true →
    let wantedEntry := s.ctr.entries.find? fun e => e.lq == .wanted
    let wantedDecl := s.ctr.decls.find? fun d => d.lq == .wanted
    (wantedEntry = none ∧ wantedDecl = none ∨ (∀ x ∈ s.ctr.slots, x.busy.isSome) → startLengthQuery s = none) ∧
    ∀ (id : Nat) (c : Coil) (i : Nat) (gen : BitVec 2),
      (∃ e, wantedEntry = some e ∧ e.id = id ∧ e.coil = c) ∨
        wantedEntry = none ∧ (∃ d, wantedDecl = some d ∧ d.id = id ∧ d.coil = c) →
      s.ctr.slots[i]? = some ⟨gen, none⟩ → (∀ (j : Nat) (x : LengthSlot), j < i → s.ctr.slots[j]? = some x → x.busy.isSome) →
      let turned (lq : LengthState) : Ctr := { s.ctr with
        decls := s.ctr.decls.map fun d => if d.id = id then { d with lq } else d
        entries := s.ctr.entries.map fun e => if e.id = id then { e with lq } else e }
      (s.bus.muted = true → startLengthQuery s = some { s with ctr := turned .none }) ∧
      (s.bus.muted = false → startLengthQuery s = some { s with
        ctr := { turned .asked with slots := s.ctr.slots.set i ⟨gen + 1, some {
          coil := c, link := id, tries := 1, dropped := false, timer := none
          allowed := if (s.rosterEntry c.station).state = .silent then 1 else 1 + s.settings.retryLimit }⟩ }
        bus := { s.bus with waiting := s.bus.waiting ++ [⟨⟨.lineageQuery, c.station,
          BitVec.ofNat 8 (128 + i * 4 + (gen + 1).toNat), coilBytes 0 c⟩, .ctrQuery i, 0, 0, false, false⟩] } })

/-! ### Lineage records (chapter 4) -/

/-- The pieces of a record follow its overlap list (R62, R63, R68): with a list that covers the segment as R50 states, the own
ranges start at 0, meet end to start and end at the length, and every source range ascends. An entry for coil 0:0 gives a gap piece,
or with MERGED a merged one, of source range [0, 0].
A scaled piece (R63, R64): linked to a DONE record with a length, neither BROKEN nor RESUMED, whose span is 1 to 4,294,967,295. Its
ends map onto the declared length, L_E − floor((x − e_s)·L_E / M_E) TAIL-FIRST and floor((x − e_s)·L_E / M_E) HEAD-FIRST, and
the whole coil maps onto the whole length.
An UNSCALED piece (R63, R65 to R67): with the link cut, or linked to a RUNNING record, or to a DONE one that is BROKEN, RESUMED, without
a length or of a longer span. Its ends map at a ratio of 1 from the reference point and the start value S, clamped to [0, L_U], and
it carries BROKEN exactly with a DONE record that is BROKEN. The source range of either lies within the length used. -/
def Obligations.PiecesBuiltFromOverlaps : Prop :=
  (∀ (es : List Entry) (oStart oEnd : Nat) (vs : List Overlap),
     (vs.map (·.x0)).head? = some oStart → (vs.map (·.x1)).getLast? = some oEnd → (∀ v ∈ vs, v.x0 < v.x1) →
     vs.IsChain (fun v w => v.x1 = w.x0) →
     let ps := vs.map (buildPiece es oStart)
     ps.length = vs.length ∧ (ps.map (·.n0)).head? = some 0 ∧ (ps.map (·.n1)).getLast? = some (oEnd - oStart) ∧
       ps.IsChain (fun p q => p.n1 = q.n0) ∧ (∀ p ∈ ps, p.n0 < p.n1 ∧ p.sLo ≤ p.sHi) ∧
       (∀ v ∈ vs, (buildPiece es oStart v).source = v.coil ∧
         ((buildPiece es oStart v).reversed = true ↔ v.coil ≠ .unknown ∧ v.headFirst = false)) ∧
       ∀ v ∈ vs, v.coil = .unknown →
         buildPiece es oStart v = ⟨v.x0 - oStart, v.x1 - oStart, .unknown, 0, 0, false, false, false, v.merged⟩) ∧
  (∀ (es : List Entry) (oStart : Nat) (v : Overlap) (e : Entry) (eEnd len : Nat), v.coil ≠ .unknown →
     v.link.bind (fun id => es.find? fun y => y.id == id) = some e → e.eEnd = some eEnd → e.length = some len →
     e.broken = false → e.offset = none → e.eStart < eEnd → eEnd - e.eStart ≤ 2 ^ 32 - 1 →
     e.eStart ≤ v.x0 → v.x0 < v.x1 → v.x1 ≤ eEnd →
     let q (x : Nat) : Nat := (x - e.eStart) * len / (eEnd - e.eStart)
     let p := buildPiece es oStart v
     p.n0 = v.x0 - oStart ∧ p.n1 = v.x1 - oStart ∧ p.source = v.coil ∧ p.unscaled = false ∧ p.broken = false ∧
       p.merged = false ∧ p.reversed = !v.headFirst ∧ p.sHi ≤ len ∧
       (v.headFirst = true → p.sLo = q v.x0 ∧ p.sHi = q v.x1) ∧
       (v.headFirst = false → p.sLo = len - q v.x1 ∧ p.sHi = len - q v.x0) ∧
       (v.x0 = e.eStart → v.x1 = eEnd → p.sLo = 0 ∧ p.sHi = len)) ∧
  ∀ (es : List Entry) (oStart : Nat) (v : Overlap) (e : Option Entry), v.coil ≠ .unknown → v.x0 < v.x1 →
    v.link.bind (fun id => es.find? fun y => y.id == id) = e → (∀ y, e = some y → y.eStart ≤ v.x0) →
    let eRef := (e.map (·.eStart)).getD v.x0
    let span := ((e.bind (·.eEnd)).getD v.x1) - eRef
    let done := (e.bind (·.eEnd)).isSome
    let length := e.bind (·.length)
    let offset := e.bind (·.offset)
    let broken := (e.map (·.broken)).getD false
    done = false ∨ broken = true ∨ offset ≠ none ∨ length = none ∨ 2 ^ 32 - 1 < span →
    let lu := min (length.getD (span + offset.getD 0)) (2 ^ 32 - 1)
    let start := match offset with
      | some o => min o lu
      | none => if v.headFirst then 0 else lu
    let image (x : Nat) : Int :=
      max 0 (min (lu : Int) (if v.headFirst then (start : Int) + (x - eRef) else (start : Int) - (x - eRef)))
    let p := buildPiece es oStart v
    p.n0 = v.x0 - oStart ∧ p.n1 = v.x1 - oStart ∧ p.source = v.coil ∧ p.reversed = !v.headFirst ∧ p.unscaled = true ∧
      p.broken = (done && broken) ∧ p.merged = false ∧ (p.sLo : Int) = min (image v.x0) (image v.x1) ∧
      (p.sHi : Int) = max (image v.x0) (image v.x1) ∧ p.sHi ≤ lu

/-- R69, whole: the map of a boundary through a piece, its ends, its range, its direction, and the piece whose source range is one
boundary; its flags change no image and are carried to the points, and a source 0:0 ends the point.
R138, whole: the piece whose own range holds the anchor, the last one for an anchor at or beyond the length, ends the point or
carries it on, its images clamped to the piece and mapped.
Beside the two, R139's table: the end flag and source coil of each ended entry, by the state of its source coil in the coil list; that
ended entries are points of their depth and are not fetched stands in `PlaybackAccepted` and `GroupsOfDepth`. -/
def Obligations.BoundaryMap : Prop :=
  (∀ (p : Piece) (t : Nat), p.n0 < p.n1 → p.sLo ≤ p.sHi → p.n0 ≤ t → t ≤ p.n1 →
    (p.reversed = false → p.image t = p.sLo + (t - p.n0) * (p.sHi - p.sLo) / (p.n1 - p.n0)) ∧
    (p.reversed = true → p.image t = p.sHi - (t - p.n0) * (p.sHi - p.sLo) / (p.n1 - p.n0)) ∧
    1 ≤ p.n1 - p.n0 ∧ p.sLo ≤ p.image t ∧ p.image t ≤ p.sHi ∧
    p.image p.n0 = (if p.reversed then p.sHi else p.sLo) ∧ p.image p.n1 = (if p.reversed then p.sLo else p.sHi) ∧
    (∀ t', t ≤ t' → t' ≤ p.n1 → if p.reversed then p.image t' ≤ p.image t else p.image t ≤ p.image t') ∧
    (p.sLo = p.sHi → p.image t = p.sLo) ∧
    (p.sHi ≤ 2 ^ 32 - 1 → p.n1 ≤ 2 ^ 32 - 1 → (t - p.n0) * (p.sHi - p.sLo) < 2 ^ 64) ∧
    (∀ unscaled broken merged, { p with unscaled, broken, merged }.image t = p.image t) ∧
    ∀ oStart v, (gapPiece oStart v).image t = 0 ∧ (gapPiece oStart v).source = .unknown) ∧
  (∀ (r : LineageRec) (p : Piece) (ta tb : Nat) (split unscaled broken short : Bool),
    (r.length ≤ (ta + tb) / 2 ∧ r.pieces.getLast? = some p ∨ (ta + tb) / 2 < r.length ∧
      r.pieces.find? (fun y => decide (y.n0 ≤ (ta + tb) / 2 ∧ (ta + tb) / 2 < y.n1)) = some p) →
    (p.source = .unknown → traceThrough r ta tb split unscaled broken short = .ended .unknown .unknown) ∧
    (p.source.station = 63 → traceThrough r ta tb split unscaled broken short = .ended .unknown p.source) ∧
    (p.source ≠ .unknown → p.source.station = 0 → traceThrough r ta tb split unscaled broken short = .ended .origin p.source) ∧
    (p.source.station ≠ 0 → p.source.station ≠ 63 →
      let inside (x : Nat) : Nat := min (max x p.n0) p.n1
      traceThrough r ta tb split unscaled broken short =
        .traced p.source (p.image (inside ta)) (p.image (inside tb)) (split || inside ta != ta || inside tb != tb)
          (unscaled || p.unscaled) (broken || p.broken) short)) ∧
  ∀ (coils : List (Coil × RecState)) (m c : Coil) (ta tb : Nat) (split unscaled broken short : Bool) (flag : Outcome),
    let state := (coils.find? fun x => x.1 == m).map (·.2)
    let entry := traceEntry coils (.traced m ta tb split unscaled broken short)
    traceEntry coils (.ended flag c) = .ended .ended .unknown ∧ (state = none → entry = .ended .overflow m) ∧
      (∀ close, state = some (.pending close) → entry = .ended .pending m) ∧
      (state = some .unknown → entry = .ended .unknown m) ∧ (state = some .unreachable → entry = .ended .unreachable m) ∧
      ∀ r, state = some (.record r) → entry = traceThrough r ta tb split unscaled broken short

/-- A COIL-ANNOUNCE from another station, addressed to it or to all (R72, R73, R74, R76, R118): the station is heard, and the record is
kept exactly when its bytes pass R99 and R73 and an enabled template selects its coil, equal to the template's base where its mask has
a 1, or the cache holds it; kept, it is the most recently used, replaces the record of its coil, and in a full cache the least recently
used leaves. -/
def Obligations.AnnouncementKept : Prop :=
  ∀ (s : State) (source dest : BitVec 6) (tag : Byte) (payload : List Byte), s.receives = true →
    (Instr.coilAnnounce source dest tag payload).wf = true → source ≠ 0 → source ≠ 63 → source ≠ s.settings.station →
    dest = s.settings.station ∨ dest = 63 →
    let selects (t : Template) (c : Coil) : Prop := t.enable = true ∧
      c.station &&& t.mask.station = t.base.station &&& t.mask.station ∧ c.seq &&& t.mask.seq = t.base.seq &&& t.mask.seq
    let heard : State := s.heardFrom source
    (∀ r, field payload 0 1 < 64 → parseRecord payload = some r → r.coil.station = source → 0 < r.length →
        1 ≤ r.lane → r.lane ≤ r.lanes → 1 ≤ r.pieces.length → r.pieces.length ≤ 8 → piecesMeet 0 r.pieces = true →
        lastEnd r.pieces = r.length →
        (∃ t ∈ s.lch.templates, selects t r.coil) ∨ (∃ y ∈ s.lch.cache, y.coil = r.coil) →
      ∃ t, exec (.coilAnnounce source dest tag payload) s = .next t ∧
        Carried { heard with lch := { s.lch with
          cache := (r :: s.lch.cache.filter fun y => y.coil != r.coil).take 256 } } t) ∧
    (parseRecord payload = none ∨ 64 ≤ field payload 0 1 ∨
        (∀ r, parseRecord payload = some r → r.coil.station ≠ source ∨ r.length = 0 ∨ r.lane = 0 ∨ r.lanes < r.lane ∨
          r.pieces.length = 0 ∨ 8 < r.pieces.length ∨ piecesMeet 0 r.pieces = false ∨ lastEnd r.pieces ≠ r.length ∨
          (∀ t ∈ s.lch.templates, ¬ selects t r.coil) ∧ ∀ y ∈ s.lch.cache, y.coil ≠ r.coil) →
      ∃ t, exec (.coilAnnounce source dest tag payload) s = .next t ∧ Carried heard t)

/-! ### G-bus (chapter 5) -/

/-- Eleven recessive bit times with no frame of this station on the line (R80, R85, R89, R90): the receiver is IDLE and BUS-STUCK clear;
an allowed transmitter drives the start bit of the head frame, of lowest class and there enqueued first, and the receiver takes it. -/
def Obligations.IdleLineStartsHead : Prop :=
  ∀ s : State, s.receives = true → (∀ e ∈ s.bus.queue, e.onLine = false) →
    ((s.bus.queue = [] ∨ s.bus.muted = true ∧ ∀ e ∈ s.bus.queue, e.owner ≠ .busFinal) →
      ∃ t, exec .lineIdle s = .next t ∧
        Carried { s with bus := { s.bus with rx := .idle, stuck := false, driven := true, observed := true } } t) ∧
    (∀ (j : Nat) (e : TxEntry), s.bus.queue[j]? = some e →
      (∀ (i : Nat) (x : TxEntry), s.bus.queue[i]? = some x →
        e.frame.kind.cls ≤ x.frame.kind.cls ∧ (x.frame.kind.cls = e.frame.kind.cls → j ≤ i)) →
      s.bus.muted = false ∨ e.owner = .busFinal →
      ∃ t, exec .lineIdle s = .next t ∧ Carried { s with bus := { s.bus with
        queue := s.bus.queue.set j { e with onLine := true }, rx := .receiving, stuck := false, driven := false
        observed := false } } t)

/-- Sixty-four dominant bit times set BUS-STUCK with its fault (R89); a bad frame sends the receiver to HUNT, is counted to 65,535 and
writes BAD-FRAME at the first since the mark was cleared (R84); a run of bits that is no frame yet leaves the receiver
RECEIVING (R80). -/
def Obligations.StuckLineAndBadFrame : Prop :=
  ∀ (s : State) (bits : List Bool), s.receives = true →
    (∃ t, exec .busStuck s = .next t ∧ Carried { s with
      bus := { s.bus with rx := .hunt, stuck := true, driven := true, observed := false }
      sup := { s.sup with
        fault := some ⟨.busStuck, .bus, none, none, s.ros.clock⟩
        faultCount := if s.sup.faultCount < 65535 then s.sup.faultCount + 1 else s.sup.faultCount } } t) ∧
    (judge bits = .bad → ∃ t, exec (.badFrame bits) s = .next t ∧ Carried { s with
      bus := { s.bus with
        rx := .hunt, badFrames := if s.bus.badFrames < 65535 then s.bus.badFrames + 1 else s.bus.badFrames }
      sup := if s.sup.markBad then s.sup else { s.sup with
        fault := some ⟨.badFrame, .bus, none, none, s.ros.clock⟩, markBad := true
        faultCount := if s.sup.faultCount < 65535 then s.sup.faultCount + 1 else s.sup.faultCount } } t) ∧
    (judge bits = .incomplete → ∃ t, exec (.badFrame bits) s = .next t ∧
      Carried { s with bus := { s.bus with rx := .receiving } } t)

/-- The frame on the line loses arbitration or collides without being dropped (R86, R87, R93): it stays queued where it stood, its
collision counter risen by a collision alone; a withdrawn frame leaves the queue without a report, and without a fault at its third
collision or past its queue-wait limit too (the model's choice, assumption 44). -/
def Obligations.FrameReturnsToQueue : Prop :=
  ∀ (s : State) (j : Nat) (e : TxEntry), s.receives = true → s.bus.queue[j]? = some e → e.onLine = true →
    (∀ (i : Nat) (x : TxEntry), s.bus.queue[i]? = some x → i < j → x.onLine = false) →
    (e.withdrawn = false → e.wait < s.settings.queueWait → ∃ t, exec .lostArbitration s = .next t ∧
      Carried { s with bus := { s.bus with
        queue := s.bus.queue.set j { e with onLine := false }, driven := true, observed := false } } t) ∧
    (e.withdrawn = false → e.wait < s.settings.queueWait → e.collisions < 2 → ∃ t, exec .collision s = .next t ∧
      Carried { s with bus := { s.bus with
        queue := s.bus.queue.set j { e with onLine := false, collisions := e.collisions + 1 }, driven := true
        collisions := if s.bus.collisions < 65535 then s.bus.collisions + 1 else s.bus.collisions } } t) ∧
    (e.withdrawn = true →
      (∃ t, exec .lostArbitration s = .next t ∧ Carried { s with bus := { s.bus with
        queue := s.bus.queue.eraseIdx j, driven := true, observed := false } } t) ∧
      ∃ t, exec .collision s = .next t ∧ Carried { s with bus := { s.bus with
        queue := s.bus.queue.eraseIdx j, driven := true
        collisions := if s.bus.collisions < 65535 then s.bus.collisions + 1 else s.bus.collisions } } t)

/-- A frame is dropped (R87, R92): at its third collision with BUS-COLLISION, past its queue-wait limit too (the model's choice,
assumption 45); at another collision or lost arbitration past that limit, and off the line when its timer reaches the limit, with
TX-WAIT. It leaves the queue. After TX-WAIT off the line the next head is offered at an idle line.
CTR, PSE, ROS and BUS do nothing at the report of an announcement, a reply, a TIME, an ANSWER or the final PRESENCE (R57, R103, R123,
R126); ROS offers a START again while MUTED is clear (R122).
To a slot that waits for the report it is a failed attempt (R40, R130, R147, R148): while another is allowed and MUTED is clear the
next one is offered under the same tag, and the slot notes the drop; the last ends the slot without a report to ROS, a length query
with no length, a lineage query UNREACHABLE, a fetch UNANSWERED, or UNREACHABLE under MUTED. A descent query is offered again
up to the retry limit, or given up with the walk's dropped count risen (R164). -/
def Obligations.FrameDropped : Prop :=
  ∀ (s : State) (j : Nat) (e : TxEntry), s.running = true → s.bus.queue[j]? = some e → e.withdrawn = false →
    let gone (kind : FaultKind) (b : Bus) : State := { s with
      bus := { b with queue := s.bus.queue.eraseIdx j }
      sup := { s.sup with
        fault := some ⟨kind, .bus, none, none, s.ros.clock⟩
        faultCount := if s.sup.faultCount < 65535 then s.sup.faultCount + 1 else s.sup.faultCount } }
    let counted : Bus := { s.bus with
      driven := true, collisions := if s.bus.collisions < 65535 then s.bus.collisions + 1 else s.bus.collisions }
    let first := s.sup.resetPin = false ∧ ∀ (i : Nat) (x : TxEntry), s.bus.queue[i]? = some x → i < j → x.onLine = false
    let drops (c : Instr) (v : State) : Prop :=
      (c = .collision ∧ e.onLine = true ∧ first ∧ 2 ≤ e.collisions ∧ v = gone .busCollision counted) ∨
      (c = .collision ∧ e.onLine = true ∧ first ∧ e.collisions < 2 ∧ s.settings.queueWait ≤ e.wait ∧
        v = gone .txWait counted) ∨
      (c = .lostArbitration ∧ e.onLine = true ∧ first ∧ s.settings.queueWait ≤ e.wait ∧
        v = gone .txWait { s.bus with driven := true, observed := false }) ∨
      (∃ place : BitVec 4, c = .txWait place ∧ place.toNat = j ∧ e.onLine = false ∧ s.settings.queueWait ≤ e.wait ∧
        v = gone .txWait s.bus)
    let ends (c : Instr) (u : State) : Prop :=
      ∃ t, exec c s = .next t ∧ Carried (if e.onLine then u else u.startHead) t
    let offered (v : State) (f : Frame) : Bus := { v.bus with waiting := v.bus.waiting ++ [⟨f, e.owner, 0, 0, false, false⟩] }
    let gen : BitVec 2 := BitVec.ofNat 2 (e.frame.tag.toNat % 4)
    ∀ (c : Instr) (v : State), drops c v →
      (e.owner = .ctrAnnounce ∨ e.owner = .pseReply ∨ e.owner = .rosTime ∨ e.owner = .rosAnswer ∨ e.owner = .busFinal ∨
        e.owner = .rosStart ∧ s.bus.muted = true → ends c v) ∧
      (e.owner = .rosStart → s.bus.muted = false → ends c { v with bus := offered v e.frame }) ∧
      (∀ (i : Nat) (b : LengthBusy), e.owner = .ctrQuery i → s.ctr.slots[i]? = some ⟨gen, some b⟩ →
        (b.tries < b.allowed → s.bus.muted = false → ends c { v with
          ctr := { s.ctr with
            slots := s.ctr.slots.set i ⟨gen, some { b with tries := b.tries + 1, dropped := true, timer := none }⟩ }
          bus := offered v ⟨.lineageQuery, b.coil.station, BitVec.ofNat 8 (128 + i * 4 + gen.toNat), coilBytes 0 b.coil⟩ }) ∧
        (b.allowed ≤ b.tries ∨ s.bus.muted = true → ends c { v with
          ctr := { s.ctr with
            slots := s.ctr.slots.set i ⟨gen, none⟩
            decls := s.ctr.decls.map fun d => if d.id = b.link then { d with lq := .none } else d
            entries := s.ctr.entries.map fun y => if y.id = b.link then { y with lq := .none } else y }
          bus := { v.bus with waiting := v.bus.waiting.filter fun y => y.owner != .ctrQuery i } })) ∧
      (∀ (i : Nat) (b : QueryBusy), e.owner = .reqQuery i → s.req.queries[i]? = some ⟨gen, some b⟩ →
        (b.tries < b.allowed → s.bus.muted = false → ends c { v with
          req := { s.req with
            queries := s.req.queries.set i ⟨gen, some { b with tries := b.tries + 1, dropped := true, timer := none }⟩ }
          bus := offered v ⟨.lineageQuery, b.coil.station, BitVec.ofNat 8 (64 + i * 4 + gen.toNat), coilBytes 0 b.coil⟩ }) ∧
        (b.allowed ≤ b.tries ∨ s.bus.muted = true →
          let idle : Req := { s.req with queries := s.req.queries.set i ⟨gen, none⟩ }
          ends c { v with
            bus := (v.withdraw fun o => o == .reqQuery i).bus
            req := match b.serves with
              | .resolution => { idle with refusal := some .unreachable }
              | .coilList => { idle with plan := s.req.plan.map fun p => { p with coils := p.coils.map fun x =>
                  if x = (b.coil, .looking) then (b.coil, .unreachable) else x } }
              | .place => { idle with walk := { s.req.walk with places := s.req.walk.places.map fun p =>
                  if p.coil = b.coil ∧ p.outcome = .looking then { p with outcome := .unreachable } else p } } })) ∧
      (∀ (i : Nat) (b : FetchBusy), e.owner = .reqFetch i → s.req.fetches[i]? = some ⟨gen, some b⟩ →
        (b.tries < b.group.allowed → s.bus.muted = false → ends c { v with
          req := { s.req with
            fetches := s.req.fetches.set i ⟨gen, some { b with tries := b.tries + 1, dropped := true, timer := none }⟩ }
          bus := offered v ⟨.sampleFetch, b.group.coil.station, BitVec.ofNat 8 (i * 4 + gen.toNat),
            fetchBytes ⟨b.group.coil, s.req.play.quantity, b.group.posFrom, b.group.posTo, b.group.count⟩⟩ }) ∧
        (b.group.allowed ≤ b.tries ∨ s.bus.muted = true → ∃ depths, ends c { v with
            bus := (v.withdraw fun o => o == .reqFetch i).bus
            req := { s.req with fetches := s.req.fetches.set i ⟨gen, none⟩, depths } } ∧
          GroupFilled s.req.depths depths b.group (fun _ => none) false
            (some (if s.bus.muted then .unreachable else .unanswered)))) ∧
      (e.owner = .reqDescent → s.req.collector.state = .offering →
        e.frame.tag = BitVec.ofNat 8 (192 + s.req.collector.gen.toNat) → ∀ p, s.req.walk.places[s.req.walk.expanded]? = some p →
        (s.req.collector.tries < 1 + s.settings.retryLimit → s.bus.muted = false → ends c { v with
          req := { s.req with collector := { s.req.collector with tries := s.req.collector.tries + 1 } }
          bus := offered v ⟨.descentQuery, 63, BitVec.ofNat 8 (192 + s.req.collector.gen.toNat), coilBytes 0 p.coil⟩ }) ∧
        (1 + s.settings.retryLimit ≤ s.req.collector.tries ∨ s.bus.muted = true → ends c { v with
          req := { s.req with
            collector := { s.req.collector with state := .idle, tries := 0, quiet := 0, overall := 0, parts := [] }
            walk := { s.req.walk with expanded := s.req.walk.expanded + 1, dropped := s.req.walk.dropped + 1 } } }))

/-- The frame on the line is sent (R80, R88): it leaves the queue and the receiver hunts; a slot that waits for the report starts its
reply timer (R40, R130, R147) and the collector its two timers (R164); the report of a withdrawn frame or of
a frame whose owner needs nothing further changes nothing more (R57, R93).
A free entry of the transmit queue is given out (R56, R90, R91): in a running part with fewer than 16 frames queued, the waiting frame of
lowest class, of several the one that has waited longest, joins the queue; the announce-pending record first in close order competes as
class 3 behind waiting frames of classes up to 3, and its mark is cleared when its COIL-ANNOUNCE joins; MUTED offers none. When a
reply of PSE joins, its next part waits, and without one PSE is IDLE (R103, R107). Otherwise no frame joins. -/
def Obligations.FrameSentReported : Prop :=
  (∀ (s : State) (j : Nat) (e : TxEntry), s.receives = true → s.bus.queue[j]? = some e → e.onLine = true →
    (∀ (i : Nat) (x : TxEntry), s.bus.queue[i]? = some x → i < j → x.onLine = false) →
    let sent : State := { s with bus := { s.bus with
      queue := s.bus.queue.eraseIdx j, rx := .hunt, driven := true, observed := true } }
    let gen : BitVec 2 := BitVec.ofNat 2 (e.frame.tag.toNat % 4)
    ((e.withdrawn = true ∨ e.owner = .ctrAnnounce ∨ e.owner = .pseReply ∨ e.owner = .rosTime ∨ e.owner = .rosStart ∨
        e.owner = .rosAnswer ∨ e.owner = .busFinal) → ∃ t, exec .frameSent s = .next t ∧ Carried sent t) ∧
    (e.withdrawn = false → ∀ (i : Nat) (b : LengthBusy), e.owner = .ctrQuery i → s.ctr.slots[i]? = some ⟨gen, some b⟩ →
      ∃ t, exec .frameSent s = .next t ∧ Carried { sent with ctr := { s.ctr with
        slots := s.ctr.slots.set i ⟨gen, some { b with timer := some s.settings.replyTimeout }⟩ } } t) ∧
    (e.withdrawn = false → ∀ (i : Nat) (b : QueryBusy), e.owner = .reqQuery i → s.req.queries[i]? = some ⟨gen, some b⟩ →
      ∃ t, exec .frameSent s = .next t ∧ Carried { sent with req := { s.req with
        queries := s.req.queries.set i ⟨gen, some { b with timer := some s.settings.replyTimeout }⟩ } } t) ∧
    (e.withdrawn = false → ∀ (i : Nat) (b : FetchBusy), e.owner = .reqFetch i → s.req.fetches[i]? = some ⟨gen, some b⟩ →
      ∃ t, exec .frameSent s = .next t ∧ Carried { sent with req := { s.req with
        fetches := s.req.fetches.set i ⟨gen, some { b with timer := some s.settings.replyTimeout }⟩ } } t) ∧
    (e.withdrawn = false → e.owner = .reqDescent → s.req.collector.state = .offering →
      e.frame.tag = BitVec.ofNat 8 (192 + s.req.collector.gen.toNat) →
      ∃ t, exec .frameSent s = .next t ∧ Carried { sent with req := { s.req with
        collector := { s.req.collector with state := .collecting, quiet := 100, overall := 1000 } } } t)) ∧
  ∀ s : State,
    let marked := if s.bus.muted then none else s.ctr.exits.find? fun r => match r.body with
      | .final _ mark => mark
      | .pending .. => false
    (s.running = false ∨ 16 ≤ s.bus.queue.length ∨ s.bus.waiting = [] ∧ marked = none → fillStep s = none) ∧
    (s.running = true → s.bus.queue.length < 16 →
      (∀ (j : Nat) (e : TxEntry), s.bus.waiting[j]? = some e →
        (∀ (i : Nat) (x : TxEntry), s.bus.waiting[i]? = some x →
          e.frame.kind.cls ≤ x.frame.kind.cls ∧ (x.frame.kind.cls = e.frame.kind.cls → j ≤ i)) →
        e.frame.kind.cls ≤ 3 ∨ marked = none →
        ∃ b, s.Joins [⟨e.frame, e.owner, 0, 0, false, false⟩] b ∧
          let joined : Bus := { b with waiting := s.bus.waiting.eraseIdx j }
          let idle : State := { s with bus := joined, pse := { s.pse with engine := .idle } }
          fillStep s = some (match e.owner, s.pse.engine with
            | .pseReply, .holding [] => idle
            | .pseReply, .holding (f :: rest) => if s.bus.muted then idle else { s with
                bus := { joined with waiting := joined.waiting ++ [⟨f, .pseReply, 0, 0, false, false⟩] }
                pse := { s.pse with engine := .holding rest } }
            | _, _ => { s with bus := joined })) ∧
      ∀ (r : ExitRec) (ps : List Piece), marked = some r → r.body = .final ps true →
        (∀ x ∈ s.bus.waiting, 3 < x.frame.kind.cls) →
        ∃ b, s.Joins [⟨⟨.coilAnnounce, 63, 0, recordBytes 0 (r.lineageWith ps)⟩, .ctrAnnounce, 0, 0, false, false⟩] b ∧
          fillStep s = some { s with
            bus := b
            ctr := { s.ctr with exits := s.ctr.exits.map fun y =>
              if y.coil = r.coil then y.unmarked else y } })

/-- Sending and receiving agree (R81, R82, R83): the line bits of a frame with any class, kind, stations, tag and payload of at most 160
bytes are judged good with exactly these fields, and no proper part of them from the start bit on is judged good or bad.
The frame of this station on the line is sent as such bits, of the class and code of its kind and with the own station as source. -/
def Obligations.FrameBitsRoundTrip : Prop :=
  (∀ (cls : BitVec 3) (source dest : BitVec 6) (kind : BitVec 4) (tag : Byte) (payload : List Byte), payload.length ≤ 160 →
    let bits := lineBits cls.toNat source.toNat kind.toNat dest.toNat tag.toNat payload
    judge bits = .good ⟨cls.toNat, source, kind.toNat, dest, tag, payload⟩ ∧
      ∀ n < bits.length, judge (bits.take n) = .incomplete) ∧
  ∀ (s : State) (j : Nat) (e : TxEntry), s.bus.queue[j]? = some e → e.onLine = true → e.frame.payload.length ≤ 160 →
    (∀ (i : Nat) (x : TxEntry), s.bus.queue[i]? = some x → i < j → x.onLine = false) →
    ∃ bits, s.lineFrame = some bits ∧
      judge bits = .good ⟨e.frame.kind.cls, s.settings.station, e.frame.kind.code, e.frame.dest, e.frame.tag, e.frame.payload⟩

/-- What makes a frame bad (R84): eight equal bits in the stuffed region, in the header after whatever bits and anywhere in the region
of any frame, payload and CRC included; a payload length above 160, a CRC field that is not the remainder, and a 0 within the end
field. -/
def Obligations.BadFrameCauses : Prop :=
  (∀ (pre rest : List Bool) (b : Bool), takeFrameBits 36 true 0 [] (pre ++ List.replicate 7 b) ≠ .violation →
    pre.length ≤ 28 → judge (pre ++ List.replicate 8 b ++ rest) = .bad) ∧
  (∀ (head : List Bool), head.length = 35 → 160 < bitsNat (head.drop 27) →
    judge (stuff true 0 (false :: head)) = .bad) ∧
  (∀ (cls : BitVec 3) (source dest : BitVec 6) (kind : BitVec 4) (tag : Byte) (payload : List Byte) (crc : BitVec 16),
    payload.length ≤ 160 →
    let body := frameBody cls.toNat source.toNat kind.toNat dest.toNat tag.toNat payload
    let region := stuff true 0 (false :: (body ++ natBits 16 crc.toNat))
    (∀ (n : Nat) (b : Bool) (rest : List Bool), (region.take n).drop (n - 7) = List.replicate 7 b → n < region.length →
      judge (region.take n ++ b :: rest) = .bad) ∧
    (crc ≠ crcBits body → judge region = .bad) ∧
    (crc = crcBits body → ∀ n < 8, judge (region ++ List.replicate n true ++ [false]) = .bad))

/-- A good PRESENCE from the own station number (R96, R97, R104): the part is MUTED with DUPLICATE-STATION, PSE is cleared, and the only
frame left queued is the final PRESENCE, with mode ANSWER and the own quantity list. Odometer, store, caches, roster, clock, console
and the tables of coils stay but for what the dropped reports do: every queued or waiting frame, withdrawn ones apart, is reported to its
owner, and further attempts are refused (R98). A length-query slot whose attempt is among them ends, with the length state of its
record NONE (R40). A lineage-query slot ends with UNREACHABLE for what it serves (R130, R132, R136, R158, R160), a fetch slot with
UNREACHABLE for its points (R148, R158), and an offering collector gives its query up (R164). A slot whose last attempt is sent keeps its
timer. Where MUTED is set it has no further effect (the model's reading, assumption 37). -/
def Obligations.DuplicateStationMutes : Prop :=
  ∀ (s : State) (dest : BitVec 6) (tag : Byte) (payload : List Byte), s.receives = true →
    (Instr.presence s.settings.station dest tag payload).wf = true → s.settings.station ≠ 0 → s.settings.station ≠ 63 →
    (s.bus.muted = true → ∃ t, exec (.presence s.settings.station dest tag payload) s = .next t ∧
      Carried { s with bus := { s.bus with rx := .hunt, driven := true, observed := true } } t) ∧
    (s.bus.muted = false →
      let lost (o : Owner) (gen : BitVec 2) : Bool := (s.bus.queue ++ s.bus.waiting).any fun e =>
        !e.withdrawn && e.owner == o && BitVec.ofNat 2 (e.frame.tag.toNat % 4) == gen
      let query (c : Coil) (w : Serves) : Bool := s.req.queries.zipIdx.any fun x =>
        lost (.reqQuery x.2) x.1.gen && (x.1.busy.map fun b => (b.coil, b.serves)) == some (c, w)
      let listed (x : Coil × RecState) : Coil × RecState :=
        if x.2 = .looking ∧ query x.1 .coilList = true then (x.1, .unreachable) else x
      let placed (p : Place) : Place :=
        if p.outcome = .looking ∧ query p.coil .place = true then { p with outcome := .unreachable } else p
      let unlinked (id : Nat) : Bool := s.ctr.slots.zipIdx.any fun x =>
        lost (.ctrQuery x.2) x.1.gen && (x.1.busy.map (·.link)) == some id
      let filled (d n : Nat) : Bool := s.req.fetches.zipIdx.any fun x =>
        lost (.reqFetch x.2) x.1.gen && (x.1.busy.map fun b =>
          decide (b.group.depth = d ∧ b.group.first ≤ n ∧ n < b.group.first + b.group.count)) == some true
      let givenUp := s.req.collector.state = .offering ∧ s.req.walk.expanded < s.req.walk.places.length ∧
        ∃ e ∈ s.bus.queue ++ s.bus.waiting, e.withdrawn = false ∧ e.owner = .reqDescent ∧
          e.frame.tag = BitVec.ofNat 8 (192 + s.req.collector.gen.toNat)
      ∃ (t : State) (depths : List DepthTable), exec (.presence s.settings.station dest tag payload) s = .next t ∧
        Carried { s with
          bus := { s.bus with
            muted := true, waiting := [], rx := .hunt, driven := true, observed := true
            queue := [{ frame := { kind := .presence, dest := 63, tag := 0, payload :=
                          BitVec.ofNat 8 (if s.tsc.storeFault then 5 else 1) ::
                            s.settings.channels.map fun d => BitVec.ofNat 8 d.quantity },
                        owner := .busFinal, collisions := 0, wait := 0, onLine := false, withdrawn := false }] }
          pse := { s.pse with service := [], engine := .idle }
          sup := { s.sup with
            fault := some ⟨.duplicateStation, .bus, none, none, s.ros.clock⟩
            faultCount := if s.sup.faultCount < 65535 then s.sup.faultCount + 1 else s.sup.faultCount }
          ctr := { s.ctr with
            slots := s.ctr.slots.zipIdx.map fun x => if lost (.ctrQuery x.2) x.1.gen then ⟨x.1.gen, none⟩ else x.1
            decls := s.ctr.decls.map fun d => if unlinked d.id then { d with lq := .none } else d
            entries := s.ctr.entries.map fun e => if unlinked e.id then { e with lq := .none } else e }
          req := { s.req with
            queries := s.req.queries.zipIdx.map fun x => if lost (.reqQuery x.2) x.1.gen then ⟨x.1.gen, none⟩ else x.1
            fetches := s.req.fetches.zipIdx.map fun x => if lost (.reqFetch x.2) x.1.gen then ⟨x.1.gen, none⟩ else x.1
            refusal := if s.req.queries.zipIdx.any fun x => lost (.reqQuery x.2) x.1.gen &&
                x.1.busy.map (·.serves) == some Serves.resolution then some .unreachable else s.req.refusal
            plan := s.req.plan.map fun p => { p with coils := p.coils.map listed }
            depths
            walk := { s.req.walk with
              places := s.req.walk.places.map placed
              expanded := if givenUp then s.req.walk.expanded + 1 else s.req.walk.expanded
              dropped := if givenUp then s.req.walk.dropped + 1 else s.req.walk.dropped }
            collector := if givenUp then { s.req.collector with state := .idle, tries := 0, quiet := 0, overall := 0, parts := [] }
                         else s.req.collector } } t ∧
        depths.length = s.req.depths.length ∧ ∀ (d : Nat) (x : DepthTable), s.req.depths[d]? = some x →
          ∃ y, depths[d]? = some y ∧ y.attrs = x.attrs ∧ ∀ n, y.results[n]? =
            if filled d n = true then match x.results[n]?, x.attrs[n]? with
              | some none, some (.traced source _ _ split unscaled broken _) =>
                some (some (.bare false split unscaled broken .unreachable source))
              | some none, some (.ended flag source) => some (some (.bare false false false false flag source))
              | r, _ => r
            else x.results[n]?)

/-! ### Messages and peer service (chapter 6) -/

/-- Good frames that bring no content to a block (R95, R118): from source 0 or 63 nothing but the receiver moves; from another station
but to a third one, and of an undefined kind or a class that is not its kind's, the station is heard: ABSENT and SILENT become
PRESENT. From the own station number, a request, COIL-ANNOUNCE or DESCENT-REPLY, and any kind but PRESENCE to a third station or of an
undefined kind or class, moves nothing but the receiver (R73, R95, R96, R102, R117, R165). From another station, an ill-formed
LINEAGE-, SAMPLE- or DESCENT-REPLY is only heard (R99). -/
def Obligations.FramesWithoutContent : Prop :=
  ∀ (s : State) (mk : BitVec 6 → BitVec 6 → Byte → List Byte → Instr) (source dest : BitVec 6) (tag : Byte)
    (payload : List Byte), s.receives = true →
    mk = .time ∨ mk = .lineageReply ∨ mk = .sampleReply ∨ mk = .descentReply ∨ mk = .lineageQuery ∨ mk = .sampleFetch ∨
      mk = .descentQuery ∨ mk = .coilAnnounce ∨ mk = .presence ∨
      (∃ cls kind, mk = (fun a d t p => .undefinedFrameKind cls a kind d t p) ∧ definedKind cls kind = false) →
    (mk source dest tag payload).wf = true →
    let line : State := { s with bus := { s.bus with rx := .hunt, driven := true, observed := true } }
    let e := s.rosterEntry source
    let heard : RosterEntry := if e.state = .absent ∨ e.state = .silent then { e with state := .present } else e
    (source = 0 ∨ source = 63 → ∃ t, exec (mk source dest tag payload) s = .next t ∧ Carried line t) ∧
    (source ≠ 0 → source ≠ 63 → source ≠ s.settings.station →
      dest ≠ s.settings.station ∧ dest ≠ 63 ∨
        (∃ cls kind, mk = (fun a d t p => .undefinedFrameKind cls a kind d t p)) →
      ∃ t, exec (mk source dest tag payload) s = .next t ∧
        Carried { line with ros := { s.ros with roster := s.ros.roster.set (source.toNat - 1) heard } } t) ∧
    (source = s.settings.station → mk ≠ .presence →
      mk = .lineageQuery ∨ mk = .sampleFetch ∨ mk = .descentQuery ∨ mk = .coilAnnounce ∨ mk = .descentReply ∨
        dest ≠ s.settings.station ∧ dest ≠ 63 ∨
        (∃ cls kind, mk = (fun a d t p => .undefinedFrameKind cls a kind d t p)) →
      ∃ t, exec (mk source dest tag payload) s = .next t ∧ Carried line t) ∧
    (source ≠ 0 → source ≠ 63 → source ≠ s.settings.station →
      mk = .lineageReply ∧ parseLineageAnswer payload = none ∨ mk = .sampleReply ∧ parseFetchResult payload = none ∨
        mk = .descentReply ∧ parseDescentPart payload = none →
      ∃ t, exec (mk source dest tag payload) s = .next t ∧
        Carried { line with ros := { s.ros with roster := s.ros.roster.set (source.toNat - 1) heard } } t)

/-- A LINEAGE-QUERY, SAMPLE-FETCH or DESCENT-QUERY from another station (R99, R102): taken when its payload is well formed, MUTED is
clear and it is addressed to this station, a DESCENT-QUERY also to all; it joins the service queue, or of a full one is dropped and
counted, the first drop since the mark was cleared with SERVICE-DROP. Otherwise the station is only heard. -/
def Obligations.PeerRequestQueued : Prop :=
  ∀ (s : State) (kind : FrameKind) (mk : BitVec 6 → BitVec 6 → Byte → List Byte → Instr) (source dest : BitVec 6) (tag : Byte)
    (payload : List Byte), s.receives = true →
    mk = .lineageQuery ∧ kind = .lineageQuery ∨ mk = .sampleFetch ∧ kind = .sampleFetch ∨
      mk = .descentQuery ∧ kind = .descentQuery →
    (mk source dest tag payload).wf = true → source ≠ 0 → source ≠ 63 → source ≠ s.settings.station →
    let heard : State := { s with
      bus := { s.bus with rx := .hunt, driven := true, observed := true }
      ros := { s.ros with roster := s.ros.roster.set (source.toNat - 1) (s.rosterEntry source).heard } }
    let good := field payload 0 1 < 64 ∧ payload.length = (if kind = .sampleFetch then 15 else 5) ∧ s.bus.muted = false ∧
      (dest = s.settings.station ∨ dest = 63 ∧ kind = .descentQuery)
    (good → s.pse.service.length < 8 → ∃ t, exec (mk source dest tag payload) s = .next t ∧
      Carried { heard with pse := { s.pse with service := s.pse.service ++ [⟨source, tag, kind, payload⟩] } } t) ∧
    (good → 8 ≤ s.pse.service.length → ∃ t, exec (mk source dest tag payload) s = .next t ∧
      Carried { heard with
        pse := { s.pse with drops := if s.pse.drops < 65535 then s.pse.drops + 1 else s.pse.drops }
        sup := if s.sup.markService then s.sup else { s.sup with
          fault := some ⟨.serviceDrop, .pse, some (coilAt payload 0), none, s.ros.clock⟩, markService := true
          faultCount := if s.sup.faultCount < 65535 then s.sup.faultCount + 1 else s.sup.faultCount } } t) ∧
    (¬ good → ∃ t, exec (mk source dest tag payload) s = .next t ∧ Carried heard t)

/-- In IDLE the engine takes the head request (R103) and answers (R105, R106, R108): a LINEAGE-QUERY with NOT-MINE, UNKNOWN, PENDING
with length and close time, or the whole FINAL record; a DESCENT-QUERY with the child list of its coil, or with silence where that is
empty; a SAMPLE-FETCH that a check stops with the first status that applies, and one that passes the checks by an evaluation of its
points over the bounds of R109 and R110, which asks for the least page that holds a used bin; each reply to the source under the
request's tag.
The child list (R106): in close order one child for each own exit record that an overlap or piece traces to the coil, 0:0 apart.
The parts of a child list (R107): ceil(n / 10) of them with indices from 0, together the list in order, each of 1 to 10 children,
MORE in every part but the last; the first is held and the others wait behind it. -/
def Obligations.PeerRequestAnswered : Prop :=
  (∀ (s : State) (r : ServiceReq) (rest : List ServiceReq), s.running = true → s.pse.engine = .idle → s.pse.service = r :: rest →
     s.bus.muted = false →
     let reply (kind : FrameKind) (payload : List Byte) (held : List Frame) : State := { s with
       pse := { s.pse with service := rest, engine := .holding held }
       bus := { s.bus with waiting := s.bus.waiting ++
         [⟨⟨kind, r.source, r.tag, payload⟩, .pseReply, 0, 0, false, false⟩] } }
     let c := coilAt r.payload 0
     let found := s.ctr.exits.find? fun y => y.coil == c
     (r.kind = .lineageQuery →
       (c.station ≠ s.settings.station → pseStep s = some (reply .lineageReply (coilBytes 3 c) [])) ∧
       (c.station = s.settings.station → found = none → pseStep s = some (reply .lineageReply (coilBytes 2 c) [])) ∧
       (∀ y os n, c.station = s.settings.station → found = some y → y.body = .pending os n →
         pseStep s = some (reply .lineageReply (coilBytes 1 c ++ beBytes 4 (y.oEnd - y.oStart) ++ beBytes 6 y.close) [])) ∧
       (∀ y ps m, c.station = s.settings.station → found = some y → y.body = .final ps m →
         pseStep s = some (reply .lineageReply
           (recordBytes 0 ⟨y.coil, y.oEnd - y.oStart, y.close, y.stop, y.lane, y.lanes, y.timedOut, ps⟩) []))) ∧
     (r.kind = .descentQuery →
       let traced := s.ctr.exits.filter fun y => c != .unknown && match y.body with
         | .pending os _ => os.any fun v => v.coil == c
         | .final ps _ => ps.any fun p => p.source == c
       let children : List Child := traced.map fun y => ⟨y.coil, y.lane, !y.body.isFinal, y.oEnd - y.oStart⟩
       let parts := descentParts children.length 0 children
       (children = [] → pseStep s = some { s with pse := { s.pse with service := rest, engine := .idle } }) ∧
       (∀ p ps, parts = p :: ps → pseStep s = some (reply .descentReply (descentPartBytes p)
         (ps.map fun q => ⟨.descentReply, r.source, r.tag, descentPartBytes q⟩)))) ∧
     (r.kind = .sampleFetch → ∀ f, parseFetch r.payload = some f →
       let stopped (code : Nat) := pseStep s = some (reply .sampleReply [BitVec.ofNat 8 (code * 32)] [])
       let foundF := s.ctr.exits.find? fun y => y.coil == f.coil
       (f.coil.station ≠ s.settings.station → stopped 2) ∧
       (f.coil.station = s.settings.station → foundF = none → stopped 1) ∧
       (f.coil.station = s.settings.station → foundF.isSome → (f.count = 0 ∨ 14 < f.count) → stopped 5) ∧
       (f.coil.station = s.settings.station → foundF.isSome → 1 ≤ f.count → f.count ≤ 14 →
         (∀ d ∈ s.settings.channels, d.quantity ≠ f.quantity) → stopped 3) ∧
       (f.coil.station = s.settings.station → foundF.isSome → 1 ≤ f.count → f.count ≤ 14 →
         (∃ d ∈ s.settings.channels, d.quantity = f.quantity) → s.tsc.storeFault = true → stopped 4) ∧
       (∀ y d, f.coil.station = s.settings.station → foundF = some y → 1 ≤ f.count → f.count ≤ 14 →
         s.settings.channels.find? (fun d => d.quantity == f.quantity) = some d → s.tsc.storeFault = false →
         let len := y.oEnd - y.oStart
         let bound (i : Nat) : Nat := boundary (min f.posFrom len) (min f.posTo len) f.count i
         let points := (List.range f.count).map fun i =>
           usedBins d.step (y.oStart + min (bound i) (bound (i + 1))) (y.oStart + max (bound i) (bound (i + 1)))
         ∃ page, pseStep s = some { s with pse := { s.pse with
             service := rest, engine := .evaluating r ⟨d.index, decide (len < f.posFrom ∨ len < f.posTo), points, page⟩ } } ∧
           ((∀ p ∈ points, p.kLo ≤ p.kHi) → (∃ p ∈ points, p.kLo / 64 = page) ∧ ∀ p ∈ points, page ≤ p.kLo / 64)))) ∧
  (∀ cs : List Child, cs ≠ [] →
     let ps := descentParts cs.length 0 cs
     ps.length = (cs.length + 9) / 10 ∧ ps.flatMap (·.children) = cs ∧ ps.map (·.index) = List.range ps.length ∧
       (∀ p ∈ ps, 1 ≤ p.children.length ∧ p.children.length ≤ 10) ∧ (∀ p ∈ ps.dropLast, p.children.length = 10) ∧
       ps.map (·.more) = List.replicate (ps.length - 1) true ++ [false])

/-- The division of a clamped range into points (R110): the boundaries run from `from` to `to`, neighbours differ by at most
ceil(d / count) and at least floor(d / count), and never turn back.
The used bins of a point on [x0, x1) at an even step (R111): the bins whose centre lies in the interval; without one, the point is
SPARSE and uses the bin that holds the middle. -/
def Obligations.FetchBoundariesAndUsedBins : Prop :=
  (∀ a b count : Nat, 1 ≤ count →
     let d := if a < b then b - a else a - b
     boundary a b count 0 = a ∧ boundary a b count count = b ∧
       ∀ i < count,
         let x := boundary a b count i
         let y := boundary a b count (i + 1)
         (a < b → x ≤ y ∧ d / count ≤ y - x ∧ y - x ≤ (d + count - 1) / count ∧ a ≤ x ∧ y ≤ b) ∧
         (b ≤ a → y ≤ x ∧ d / count ≤ x - y ∧ x - y ≤ (d + count - 1) / count ∧ b ≤ y ∧ x ≤ a)) ∧
  (∀ (step x0 x1 : Nat), 0 < step → step % 2 = 0 → x0 ≤ x1 →
     let p := usedBins step x0 x1
     let centreIn (k : Nat) : Prop := x0 ≤ k * step + step / 2 ∧ k * step + step / 2 < x1
     ((∃ k, centreIn k) → p.sparse = false ∧ ∀ k, p.kLo ≤ k ∧ k ≤ p.kHi ↔ centreIn k) ∧
       ((∀ k, ¬ centreIn k) → p.sparse = true ∧ p.kLo = p.kHi ∧
         p.kLo * step ≤ (x0 + x1) / 2 ∧ (x0 + x1) / 2 < (p.kLo + 1) * step))

/-- A point from the classes of its used bins (R113, R114): EXPIRED with zero values when none is available; PARTIAL when some are;
VOID when every available bin is VOID; otherwise the mean of the means rounded half away from zero, between least and greatest,
which are the extremes of the valued bins; HELD, STOP and SAT are the unions over the available bins.
The 64 bins of a page reach each point whose used bins lie among them, in order (R112); the evaluation goes on to the next page that
holds a used bin of any point, and without one it is finished with DATA, its points and CLAMPED (R115). -/
def Obligations.PointFromUsedBins : Prop :=
  (∀ (lo hi : Nat) (sparse : Bool) (bs : List BinClass),
    (∀ b ∈ bs, ∀ x, b = .closed x → x.flags.void = false → x.least ≤ x.mean ∧ x.mean ≤ x.most) →
    (∀ b ∈ bs, ∀ x, b = .closed x → x.flags.void = true → x.flags.held = false ∧ x.flags.sat = false) →
    let closed := bs.filterMap fun b => match b with
      | .closed x => some x
      | _ => none
    let valued := closed.filter fun x => !x.flags.void
    let p := (bs.foldl PointAcc.add ⟨lo, hi, sparse, 0, 0, 0, 0, none, false, false, false⟩).point
    p.sparse = sparse ∧ p.expired = closed.isEmpty ∧
      p.partly = (!closed.isEmpty && decide (closed.length < bs.length)) ∧
      p.flags = ⟨closed.any (·.flags.held), !closed.isEmpty && valued.isEmpty, closed.any (·.flags.stop),
        closed.any (·.flags.sat)⟩ ∧
      (valued = [] → p.mean = 0 ∧ p.least = 0 ∧ p.most = 0) ∧
      (valued ≠ [] → p.mean = roundDiv (valued.map (·.mean)).sum valued.length ∧ p.least ≤ p.mean ∧ p.mean ≤ p.most ∧
        (∀ x ∈ valued, p.least ≤ x.least ∧ x.most ≤ p.most) ∧ (∃ x ∈ valued, x.least = p.least) ∧
        ∃ x ∈ valued, x.most = p.most)) ∧
  ∀ (ev : Eval) (bins : List BinClass), bins.length = 64 → (∀ p ∈ ev.points, p.kLo ≤ p.kHi) →
    let fed := ev.points.map fun p => ((List.range 64).filterMap fun n =>
      if p.kLo ≤ 64 * ev.page + n ∧ 64 * ev.page + n ≤ p.kHi then bins[n]? else none).foldl PointAcc.add p
    let used (j : Nat) : Prop := ∃ p ∈ ev.points, p.kLo / 64 ≤ j ∧ j ≤ p.kHi / 64
    (∀ j, ev.page < j → used j → (∀ i, ev.page < i → i < j → ¬ used i) →
      ev.feed bins = .more ⟨ev.chan, ev.clamped, fed, j⟩) ∧
    ((∀ j, ev.page < j → ¬ used j) → ev.feed bins = .finished ⟨.data, ev.clamped, fed.map PointAcc.point⟩)

/-- Every payload a station writes is read back with the fields it was written from (R99, R183, 12.3, 12.4), each field at every value
its width holds. -/
def Obligations.PayloadsRoundTrip : Prop :=
  (∀ c : Coil, parseCoil (coilBytes 0 c) = some c) ∧
  (∀ v < 2 ^ 48, parseTime (beBytes 6 v) = some v) ∧
  (∀ f : Fetch, f.quantity < 256 → f.posFrom < 2 ^ 32 → f.posTo < 2 ^ 32 → f.count < 256 →
    parseFetch (fetchBytes f) = some f) ∧
  (∀ p : Presence, p.codes.length ≤ 32 → parsePresence (presenceBytes p) = some p) ∧
  (∀ (c : Coil) (len close : Nat), len < 2 ^ 32 → close < 2 ^ 48 →
    parseLineageAnswer (lineageAnswerBytes (.pending c len close)) = some (.pending c len close) ∧
    parseLineageAnswer (lineageAnswerBytes (.unknown c)) = some (.unknown c) ∧
    parseLineageAnswer (lineageAnswerBytes (.notMine c)) = some (.notMine c)) ∧
  (∀ r : LineageRec, r.close < 2 ^ 48 → r.stop < 2 ^ 32 → 1 ≤ r.lane → r.lane ≤ 8 → 1 ≤ r.lanes → r.lanes ≤ 8 →
    1 ≤ r.pieces.length → r.pieces.length ≤ 8 →
    (∀ p ∈ r.pieces, p.n1 < 2 ^ 32 ∧ p.sLo < 2 ^ 32 ∧ p.sHi < 2 ^ 32) →
    (r.pieces.map (·.n0)).head? = some 0 → r.pieces.IsChain (fun p q => p.n1 = q.n0) →
    (r.pieces.map (·.n1)).getLast? = some r.length →
    parseLineageAnswer (lineageAnswerBytes (.record r)) = some (.record r) ∧ parseRecord (recordBytes 0 r) = some r) ∧
  (∀ x : FetchResult, (x.status = .data ∧ 1 ≤ x.points.length ∧ x.points.length ≤ 14 ∨ x.status ≠ .data ∧ x.points = []) →
    (∀ p ∈ x.points, -32768 ≤ p.mean ∧ p.mean ≤ 32767 ∧ -32768 ≤ p.least ∧ p.least ≤ 32767 ∧ -32768 ≤ p.most ∧ p.most ≤ 32767) →
    parseFetchResult (fetchResultBytes x) = some x) ∧
  (∀ d : DescentPart, d.index < 128 → 1 ≤ d.children.length → d.children.length ≤ 10 →
    (∀ c ∈ d.children, 1 ≤ c.lane ∧ c.lane ≤ 8 ∧ c.length < 2 ^ 32) →
    parseDescentPart (descentPartBytes d) = some d)

/-- A LINEAGE-REPLY (R41, R73, R75, R76): one with a RECORD that passes R73 enters the cache whatever its tag; one of unit 2 whose slot is
busy under its generation for a coil of its source ends that length query: the length of such a RECORD of the slot's coil, or of a
PENDING that carries one, goes into the linked declaration or entry record where that has none; the slot is idle. A tag of unit 0 or 3,
and a unit 2 slot that is idle or of another generation or station, has no further effect. The model's choices in this: the state after
a query that gave a length is NONE (assumption 20), a PENDING of length 0 carries no length (assumption 19), and a retry already in the
transmit queue stays there (assumption 12). -/
def Obligations.LineageReplyToTracker : Prop :=
  ∀ (s : State) (source dest : BitVec 6) (tag : Byte) (payload : List Byte) (a : LineageAnswer), s.receives = true →
    (Instr.lineageReply source dest tag payload).wf = true → source ≠ 0 → source ≠ 63 →
    dest = s.settings.station ∨ dest = 63 → parseLineageAnswer payload = some a →
    let passes (r : LineageRec) : Bool := r.passes s.settings.station source
    let cache : List LineageRec := match a with
      | .record r => if passes r then (r :: s.lch.cache.filter fun y => y.coil != r.coil).take 256 else s.lch.cache
      | _ => s.lch.cache
    let heard : State := { s.heardFrom source with lch := { s.lch with cache } }
    let gen : BitVec 2 := BitVec.ofNat 2 (tag.toNat % 4)
    let slot := s.ctr.slots[tag.toNat / 4 % 16]?
    (∀ b : LengthBusy, tag.toNat / 64 = 2 → slot = some ⟨gen, some b⟩ → b.coil.station = source →
      ∃ (t : State) (len : Option Nat), exec (.lineageReply source dest tag payload) s = .next t ∧
        Carried { heard with
          ctr := { s.ctr with
            slots := s.ctr.slots.set (tag.toNat / 4 % 16) ⟨gen, none⟩
            decls := s.ctr.decls.map fun d =>
              if d.id = b.link then { d with lq := .none, length := d.length.or len } else d
            entries := s.ctr.entries.map fun e =>
              if e.id = b.link then { e with lq := .none, length := e.length.or len } else e }
          bus := { heard.bus with waiting := s.bus.waiting.filter fun e => e.owner != .ctrQuery (tag.toNat / 4 % 16) } } t ∧
        (∀ r, a = .record r → len = if r.coil = b.coil ∧ passes r then some r.length else none) ∧
        (∀ c n x, a = .pending c n x → len = if n = 0 then none else some n) ∧
        (∀ c, a = .unknown c ∨ a = .notMine c → len = none)) ∧
    ((tag.toNat / 64 = 0 ∨ tag.toNat / 64 = 3 ∨ tag.toNat / 64 = 2 ∧
        (∀ b, slot = some ⟨gen, some b⟩ → b.coil.station ≠ source)) →
      ∃ t, exec (.lineageReply source dest tag payload) s = .next t ∧ Carried heard t)

/-! ### Roster and plant time (chapter 7) -/

/-- A TIME frame from a station of the bus, whichever (R95, R99, R127): it sets the clock of a station whose time-source flag is clear to
the value it carries, unless that is 0; another station is heard in any case.
The time-frame timer at 10,000 (R126): the timer is 0 and a TIME with the clock is offered in place of an older one not yet sent,
which on the line is marked withdrawn; MUTED refuses it (R98). A tick that finds the clock at its top makes it not set (R124,
R126; that this row is the clock's part of the tick is the model's reading, assumption 5). -/
def Obligations.TimeFramesAndClockWrap : Prop :=
  (∀ (s : State) (source dest : BitVec 6) (tag : Byte) (payload : List Byte), s.receives = true →
     (Instr.time source dest tag payload).wf = true → source ≠ 0 → source ≠ 63 →
     dest = s.settings.station ∨ dest = 63 →
     ∃ t, exec (.time source dest tag payload) s = .next t ∧ Carried { s.heardFrom source with
       ros := { (s.heardFrom source).ros with
         clock := if payload.length = 6 ∧ beNat payload ≠ 0 ∧ s.settings.timeSource = false then beNat payload
                  else s.ros.clock } } t) ∧
  (∀ s : State,
     (s.running = true → s.settings.timeSource = true → 10000 ≤ s.ros.timeTimer →
       (s.bus.muted = true → ∃ t, exec .timeFrameTimer s = .next t ∧ Carried { s with ros := { s.ros with timeTimer := 0 } } t) ∧
       (s.bus.muted = false → ∃ t, exec .timeFrameTimer s = .next t ∧ Carried { s with
         ros := { s.ros with timeTimer := 0 }
         bus := { s.bus with
           queue := (s.bus.queue.filter fun e => e.owner != .rosTime || e.onLine).map fun e =>
             if e.owner = .rosTime then { e with withdrawn := true } else e
           waiting := (s.bus.waiting.filter fun e => e.owner != .rosTime) ++
             [⟨⟨.time, 63, 0, beBytes 6 s.ros.clock⟩, .rosTime, 0, 0, false, false⟩] } } t)) ∧
     (s.sup.part = .loading ∨ s.sup.part = .checking ∨ s.sup.part = .configFault ∨ s.running = true →
       2 ^ 48 - 1 ≤ s.ros.clock → ∃ t, exec .plantClockWrap s = .next t ∧
         Carried { s with ros := { s.ros with clock := 0, timeTimer := 0 } } t))

/-- A PRESENCE from another station (R78, R119, R123): with a well-formed payload the entry is PRESENT, or DEGRADED when it says
FAULT, with the codes carried; a START with COLD removes that station's records from the cache; a START is answered with a PRESENCE
ANSWER unless MUTED is set or a PRESENCE of ROS is queued or waits. With an ill-formed payload the station is only heard. -/
def Obligations.PresenceTaken : Prop :=
  ∀ (s : State) (source dest : BitVec 6) (tag : Byte) (payload : List Byte), s.receives = true →
    (Instr.presence source dest tag payload).wf = true → source ≠ 0 → source ≠ 63 → source ≠ s.settings.station →
    dest = s.settings.station ∨ dest = 63 →
    let line : Bus := { s.bus with rx := .hunt, driven := true, observed := true }
    let own : TxEntry := ⟨⟨.presence, 63, 0, BitVec.ofNat 8 (if s.tsc.storeFault then 5 else 1) ::
      s.settings.channels.map fun d => BitVec.ofNat 8 d.quantity⟩, .rosAnswer, 0, 0, false, false⟩
    let quiet := s.bus.muted = false ∧ ∀ e ∈ s.bus.queue ++ s.bus.waiting, e.owner ≠ .rosStart ∧ e.owner ≠ .rosAnswer
    (∀ p, parsePresence payload = some p →
      let entry : RosterEntry := ⟨if p.fault then .degraded else .present, some p.codes⟩
      let taken : State := { s with
        bus := line
        ros := { s.ros with roster := s.ros.roster.set (source.toNat - 1) entry }
        lch := if p.answer = false ∧ p.cold = true then
          { s.lch with cache := s.lch.cache.filter fun r => r.coil.station != source } else s.lch }
      (p.answer = true ∨ ¬ quiet → ∃ t, exec (.presence source dest tag payload) s = .next t ∧ Carried taken t) ∧
      (p.answer = false → quiet → ∃ t, exec (.presence source dest tag payload) s = .next t ∧
        Carried { taken with bus := { line with waiting := s.bus.waiting ++ [own] } } t)) ∧
    (parsePresence payload = none → ∃ t, exec (.presence source dest tag payload) s = .next t ∧ Carried { s with
      bus := line
      ros := { s.ros with roster := s.ros.roster.set (source.toNat - 1) (s.rosterEntry source).heard } } t)

/-! ### Playback (chapters 8 and 9) -/

/-- The idle engine takes a PLAYBACK (R128, R129, R130, R172): of a coil of no bus station, or an own coil without an exit record, it is
refused with UNKNOWN-COIL; an own exit record or a cached record, which becomes the most recently used, goes on to acceptance; for
another station's coil that is not cached an idle lineage-query slot asks that station, once where it is SILENT and up to
1 + retry limit times otherwise; under MUTED the refusal is UNREACHABLE. That the idle slot of lowest number asks, and that with no
slot idle the refusal is UNREACHABLE, are the model's choices (assumption 21). -/
def Obligations.PlaybackTaken : Prop :=
  ∀ (s : State) (coil : Coil) (quantity : Byte) (a b step : BitVec 32) (depth : Byte), s.receives = true →
    s.con.assembler = none → s.con.complete = none → s.req.engine = .idle → 1 ≤ step.toNat → step.toNat ≤ 1000000 →
    depth.toNat ≤ 4 →
    let c := Instr.playback coil quantity a b step depth
    let taken : State := { s with req := { s.req with
      engine := .resolving
      play := { PlayRequest.empty with
        coil, quantity := quantity.toNat, a := a.toNat, b := b.toNat, step := step.toNat, depth := depth.toNat } } }
    let refused (why : Reason) : State := { taken with req := { taken.req with refusal := some why } }
    let own := s.ctr.exits.find? fun r => r.coil == coil
    let held := s.lch.cache.find? fun r => r.coil == coil
    (coil.station = 0 ∨ coil.station = 63 ∨ coil.station = s.settings.station ∧ own = none →
      ∃ t, exec c s = .next t ∧ Carried (refused .unknownCoil) t) ∧
    (∀ r, coil.station ≠ 0 → coil.station ≠ 63 → coil.station = s.settings.station → own = some r →
      (∀ os n, r.body = .pending os n →
        ∃ t, exec c s = .next t ∧ Carried (acceptPlayback (r.oEnd - r.oStart) (.pending r.close) taken) t) ∧
      (∀ ps m, r.body = .final ps m → ∃ t, exec c s = .next t ∧
        Carried (acceptPlayback (r.oEnd - r.oStart)
          (.record ⟨r.coil, r.oEnd - r.oStart, r.close, r.stop, r.lane, r.lanes, r.timedOut, ps⟩) taken) t)) ∧
    (coil.station ≠ 0 → coil.station ≠ 63 → coil.station ≠ s.settings.station →
      (∀ r, held = some r → ∃ t, exec c s = .next t ∧
        Carried (acceptPlayback r.length (.record r)
          { taken with lch := { s.lch with cache := r :: s.lch.cache.filter fun x => x.coil != coil } }) t) ∧
      (held = none → s.bus.muted = true ∨ (∀ x ∈ s.req.queries, x.busy.isSome) →
        ∃ t, exec c s = .next t ∧ Carried (refused .unreachable) t) ∧
      (∀ (i : Nat) (gen : BitVec 2), held = none → s.bus.muted = false → s.req.queries[i]? = some ⟨gen, none⟩ →
        (∀ (j : Nat) (x : QuerySlot), j < i → s.req.queries[j]? = some x → x.busy.isSome) →
        ∃ t, exec c s = .next t ∧ Carried { taken with
          req := { taken.req with queries := s.req.queries.set i ⟨gen + 1, some {
            coil, serves := .resolution, tries := 1, dropped := false, timer := none
            allowed := if (s.rosterEntry coil.station).state = .silent then 1 else 1 + s.settings.retryLimit }⟩ }
          bus := { s.bus with waiting := s.bus.waiting ++ [⟨⟨.lineageQuery, coil.station,
            BitVec.ofNat 8 (64 + i * 4 + (gen + 1).toNat), coilBytes 0 coil⟩, .reqQuery i, 0, 0, false, false⟩] } } t))

/-- Acceptance (R133, R134, R142, R144, R151): RANGE where the bound b′ = min(b, L) is not above a, TOO-MANY above 4,096 points;
otherwise ACCEPT is due and the grid on N stands at depth 0, point i on [a + i·s, min(a + (i + 1)·s, b′)), the last marked short where
it is shorter than s, no result present but of groups not sent, the groups that are sent in the issue list (`DepthAdded`), planning of
depth 1 begun from N's copy where the request asks for it.
Planning of a depth (R135 to R137, R142, R143): it waits while a listed coil is LOOKING; then every entry is traced, the depth is added
in the same way, and planning of the next depth begins, up to the depth asked for, with its coil list: the sources of the traced entries
in order of first appearance, up to 64, each in the state R136 gives it, cached records in the order of their use; a coil of the own
station by the exit table, another by the cache, and without a record UNREACHABLE under MUTED, else LOOKING.
The tracing of one entry (R137, R138, R139) by the state of its source coil in the list; BoundaryMap says what a piece makes of it.
A LOOKING coil of the list, or place of an upward walk, is asked for (R130, R136, R160): the first that no busy slot asks for takes an
idle lineage-query slot, of the lowest number (the model's choice, assumption 21), under its next generation, and its LINEAGE-QUERY is
offered; MUTED refuses it, and the coil is UNREACHABLE. -/
def Obligations.PlaybackAccepted : Prop :=
  (∀ (s : State) (len : Nat) (copy : RecState), 1 ≤ s.req.play.step →
    let p := s.req.play
    let bound := min p.b len
    let points := (bound - p.a + p.step - 1) / p.step
    let grid : List Attr := (List.range points).map fun i =>
      .traced p.coil (p.a + i * p.step) (min (p.a + (i + 1) * p.step) bound) false false false
        (decide (i + 1 = points ∧ bound < p.a + points * p.step))
    let u := acceptPlayback len copy s
    { u with req := s.req } = s ∧
    (bound ≤ p.a → u.req = { s.req with refusal := some .range }) ∧
    (p.a < bound → 4096 < points → u.req = { s.req with refusal := some .tooMany }) ∧
    (p.a < bound → points ≤ 4096 →
      { u.req with depths := [], issue := [] } = { s.req with
        engine := .playing, acceptDue := true, depths := [], issue := []
        play := { p with length := len, bound, points, copy }
        plan := if p.depth = 0 then none else some ⟨1, [(p.coil, copy)]⟩ } ∧
      1 ≤ points ∧ p.a + (points - 1) * p.step < bound ∧ bound ≤ p.a + points * p.step ∧
      DepthAdded { s with req := { s.req with depths := [] } } grid u.req)) ∧
  (∀ (s : State) (p : Plan), s.req.plan = some p →
    ((∃ x ∈ p.coils, x.2 = .looking) → planStep s = none) ∧
    ((∀ x ∈ p.coils, x.2 ≠ .looking) → ∃ u, planStep s = some u ∧ { u with req := s.req, lch := s.lch } = s ∧
      { u.req with depths := s.req.depths, issue := s.req.issue, plan := s.req.plan } = s.req ∧
      let as := ((s.req.depths.getLast?.map (·.attrs)).getD []).map (traceEntry p.coils)
      DepthAdded s as u.req ∧
      (s.req.play.depth ≤ p.depth → u.req.plan = none ∧ u.lch = s.lch) ∧
      (p.depth < s.req.play.depth → ∃ coils, u.req.plan = some ⟨p.depth + 1, coils⟩ ∧
        coils.map (·.1) = (as.filterMap fun a => match a with
          | Attr.traced c .. => some c
          | Attr.ended .. => none).foldl (fun l c => if c ∈ l ∨ 64 ≤ l.length then l else l ++ [c]) [] ∧
        (∀ x ∈ coils,
          let own := s.ctr.exits.find? fun r => r.coil == x.1
          let held := s.lch.cache.find? fun r => r.coil == x.1
          (x.1.station = s.settings.station → own = none → x.2 = .unknown) ∧
          (∀ r os n, x.1.station = s.settings.station → own = some r → r.body = .pending os n → x.2 = .pending r.close) ∧
          (∀ r ps m, x.1.station = s.settings.station → own = some r → r.body = .final ps m →
            x.2 = .record (r.lineageWith ps)) ∧
          (∀ r, x.1.station ≠ s.settings.station → held = some r → x.2 = .record r) ∧
          (x.1.station ≠ s.settings.station → held = none → x.2 = if s.bus.muted then .unreachable else .looking)) ∧
        let usedNow (cache : List LineageRec) (x : Coil × RecState) : List LineageRec := match x.2 with
          | .record r => if x.1.station = s.settings.station then cache else r :: cache.filter fun y => y.coil != x.1
          | _ => cache
        u.lch = { s.lch with cache := coils.foldl usedNow s.lch.cache }))) ∧
  (∀ (coils : List (Coil × RecState)) (m c : Coil) (ta tb : Nat) (split unscaled broken short : Bool) (flag : Outcome),
    let state := (coils.find? fun x => x.1 == m).map (·.2)
    let traced := traceEntry coils (.traced m ta tb split unscaled broken short)
    traceEntry coils (.ended flag c) = .ended .ended .unknown ∧ (state = none → traced = .ended .overflow m) ∧
      (∀ close, state = some (.pending close) → traced = .ended .pending m) ∧
      (state = some .unknown → traced = .ended .unknown m) ∧ (state = some .unreachable → traced = .ended .unreachable m) ∧
      ∀ r p, state = some (.record r) →
        (r.length ≤ (ta + tb) / 2 ∧ r.pieces.getLast? = some p ∨ (ta + tb) / 2 < r.length ∧
          r.pieces.find? (fun y => decide (y.n0 ≤ (ta + tb) / 2 ∧ (ta + tb) / 2 < y.n1)) = some p) →
        r.pieceFor ((ta + tb) / 2) = some p ∧ traced = traceThrough r ta tb split unscaled broken short) ∧
  ∀ s : State,
    let looking : List (Coil × Serves) := match s.req.engine with
      | .playing => ((s.req.plan.map (·.coils)).getD []).filterMap fun x =>
          if x.2 = .looking then some (x.1, .coilList) else none
      | .walkingUp => s.req.walk.places.filterMap fun p => if p.outcome = .looking then some (p.coil, .place) else none
      | _ => []
    let asked (c : Coil) : Prop := ∃ x ∈ s.req.queries, ∃ b, x.busy = some b ∧ b.coil = c
    ((∀ x ∈ looking, asked x.1) ∨ (∀ x ∈ s.req.queries, x.busy.isSome) → queryStep s = none) ∧
    ∀ (pre post : List (Coil × Serves)) (c : Coil) (serves : Serves) (i : Nat) (gen : BitVec 2),
      looking = pre ++ (c, serves) :: post → (∀ x ∈ pre, asked x.1) → ¬ asked c → s.req.queries[i]? = some ⟨gen, none⟩ →
      (∀ (j : Nat) (x : QuerySlot), j < i → s.req.queries[j]? = some x → x.busy.isSome) →
      let given (b : Option QueryBusy) : Req := { s.req with queries := s.req.queries.set i ⟨gen + 1, b⟩ }
      (s.bus.muted = false → queryStep s = some { s with
        req := given (some {
          coil := c, serves, tries := 1, dropped := false, timer := none
          allowed := if (s.rosterEntry c.station).state = .silent then 1 else 1 + s.settings.retryLimit })
        bus := { s.bus with waiting := s.bus.waiting ++ [⟨⟨.lineageQuery, c.station,
          BitVec.ofNat 8 (64 + i * 4 + (gen + 1).toNat), coilBytes 0 c⟩, .reqQuery i, 0, 0, false, false⟩] } }) ∧
      (s.bus.muted = true → queryStep s = some { s with
        bus := (s.withdraw fun o => o == .reqQuery i).bus
        req := if s.req.engine = .playing then
            { given none with plan := s.req.plan.map fun p => { p with coils := p.coils.map fun x =>
                if x = (c, .looking) then (c, .unreachable) else x } }
          else
            { given none with walk := { s.req.walk with places := s.req.walk.places.map fun p =>
                if p.coil = c ∧ p.outcome = .looking then { p with outcome := .unreachable } else p } } })

/-- The fetch groups of a depth (R140, R141): in ascending grid index each traced entry belongs to exactly one group of 1 to 14 entries
in a row, of one source coil, with `from` the first and `to` the last image; neighbours in a group neither split nor short, run the
same way and meet image to image; and a group ends before 14 entries only where the next entry is not traced or does not follow in this
way. -/
def Obligations.GroupsOfDepth : Prop :=
  ∀ (depth : Nat) (attrs : List Attr),
    let gs := groupsFrom depth 0 none attrs
    gs.flatMap (fun g => List.range' g.first g.count) =
      (List.range attrs.length).filter (fun i => match attrs[i]? with
        | some (.traced ..) => true
        | _ => false) ∧
    ∀ g ∈ gs, 1 ≤ g.count ∧ g.count ≤ 14 ∧ g.depth = depth ∧
      (∃ tb sp un br sh, attrs[g.first]? = some (.traced g.coil g.posFrom tb sp un br sh)) ∧
      (∃ ta sp un br sh, attrs[g.first + g.count - 1]? = some (.traced g.coil ta g.posTo sp un br sh)) ∧
      (∀ i, g.first ≤ i → i + 1 < g.first + g.count → ∃ ta t tb un br un' br',
        attrs[i]? = some (.traced g.coil ta t false un br false) ∧ attrs[i + 1]? = some (.traced g.coil t tb false un' br' false) ∧
        (ta < t ∧ t < tb ∨ tb < t ∧ t < ta)) ∧
      (g.count < 14 → ∀ c ta t sp un br sh c' t' tb sp' un' br' sh',
        attrs[g.first + g.count - 1]? = some (.traced c ta t sp un br sh) →
        attrs[g.first + g.count]? = some (.traced c' t' tb sp' un' br' sh') →
        c ≠ c' ∨ sp = true ∨ sp' = true ∨ sh = true ∨ sh' = true ∨ t ≠ t' ∨ ¬ (ta < t ∧ t' < tb ∨ t < ta ∧ tb < t'))

/-- The reply timer of a lineage-query slot or REMOTE fetch slot stands at 0 (R120, R130, R147, R148, R150): another attempt under the
same tag is offered where one is allowed and MUTED is clear; an attempt under MUTED, and the last allowed attempt, end the slot,
its frames withdrawn: the query's coil is UNREACHABLE, the fetch's points UNANSWERED, or UNREACHABLE under MUTED, and the producing
station is SILENT unless an attempt was dropped. -/
def Obligations.RequestTimesOut : Prop :=
  ∀ s : State, s.running = true →
    let silent (st : BitVec 6) (dropped : Bool) : Ros :=
      if dropped ∨ st = 0 ∨ st = 63 ∨ st = s.settings.station then s.ros
      else { s.ros with roster := s.ros.roster.set (st.toNat - 1) { s.rosterEntry st with state := .silent } }
    (∀ (i : BitVec 3) (gen : BitVec 2) (b : QueryBusy), s.req.queries[i.toNat]? = some ⟨gen, some b⟩ → b.timer = some 0 →
      (b.tries < b.allowed → s.bus.muted = false → ∃ t, exec (.lineageQueryTimeout i) s = .next t ∧ Carried { s with
        req := { s.req with queries := s.req.queries.set i.toNat ⟨gen, some { b with tries := b.tries + 1, timer := none }⟩ }
        bus := { s.bus with waiting := s.bus.waiting ++ [⟨⟨.lineageQuery, b.coil.station,
          BitVec.ofNat 8 (64 + i.toNat * 4 + gen.toNat), coilBytes 0 b.coil⟩, .reqQuery i.toNat, 0, 0, false, false⟩] } } t) ∧
      (b.allowed ≤ b.tries ∨ s.bus.muted = true →
        let idle : Req := { s.req with queries := s.req.queries.set i.toNat ⟨gen, none⟩ }
        ∃ t, exec (.lineageQueryTimeout i) s = .next t ∧ Carried { s with
          ros := silent b.coil.station (b.dropped || decide (b.tries < b.allowed))
          bus := (s.withdraw fun o => o == .reqQuery i.toNat).bus
          req := match b.serves with
            | .resolution => { idle with refusal := some .unreachable }
            | .coilList => { idle with plan := s.req.plan.map fun p => { p with coils := p.coils.map fun x =>
                if x = (b.coil, .looking) then (b.coil, .unreachable) else x } }
            | .place => { idle with walk := { s.req.walk with places := s.req.walk.places.map fun p =>
                if p.coil = b.coil ∧ p.outcome = .looking then { p with outcome := .unreachable } else p } } } t)) ∧
    ∀ (i : BitVec 4) (gen : BitVec 2) (b : FetchBusy), s.req.fetches[i.toNat]? = some ⟨gen, some b⟩ → b.timer = some 0 →
      (b.tries < b.group.allowed → s.bus.muted = false → ∃ t, exec (.fetchTimeout i) s = .next t ∧ Carried { s with
        req := { s.req with fetches := s.req.fetches.set i.toNat ⟨gen, some { b with tries := b.tries + 1, timer := none }⟩ }
        bus := { s.bus with waiting := s.bus.waiting ++ [⟨⟨.sampleFetch, b.group.coil.station,
          BitVec.ofNat 8 (i.toNat * 4 + gen.toNat), fetchBytes ⟨b.group.coil, s.req.play.quantity, b.group.posFrom, b.group.posTo,
            b.group.count⟩⟩, .reqFetch i.toNat, 0, 0, false, false⟩] } } t) ∧
      (b.group.allowed ≤ b.tries ∨ s.bus.muted = true → ∃ u t, exec (.fetchTimeout i) s = .next t ∧ Carried u t ∧
        u = { s with
          ros := silent b.group.coil.station (b.dropped || s.bus.muted)
          bus := (s.withdraw fun o => o == .reqFetch i.toNat).bus
          req := { s.req with fetches := s.req.fetches.set i.toNat ⟨gen, none⟩, depths := u.req.depths } } ∧
        GroupFilled s.req.depths u.req.depths b.group (fun _ => none) false
          (some (if s.bus.muted then .unreachable else .unanswered)))

/-- A SAMPLE-REPLY with a well-formed payload (R101, R149, R150): to the busy REMOTE slot its tag of unit 0 names, from the slot's
producing station, it ends the slot, whose frames are withdrawn: DATA with the group's count gives the points' values, every other
reply their outcome, and every point takes CLAMPED where the reply carries it. A reply that matches no slot has no effect beyond the
roster.
A slot becomes busy (R144, R145, R147): the next idle one in rotation after the slot given last takes the group at the head of the
issue list under its next generation, a LOCAL one joining the local evaluator's order, a REMOTE one offering its first attempt, which
MUTED refuses, so that its points are UNREACHABLE (R98, R148). The idle local evaluator takes the next LOCAL slot in that order and
evaluates its fetch, or ends the slot with the status of the check that stops it (R108, R116, R146). -/
def Obligations.SampleReplyTaken : Prop :=
  (∀ (s : State) (source dest : BitVec 6) (tag : Byte) (payload : List Byte) (x : FetchResult), s.receives = true →
    (Instr.sampleReply source dest tag payload).wf = true → source ≠ 0 → source ≠ 63 →
    dest = s.settings.station ∨ dest = 63 → parseFetchResult payload = some x →
    let heard : State := s.heardFrom source
    let gen : BitVec 2 := BitVec.ofNat 2 (tag.toNat % 4)
    let i := tag.toNat / 4 % 16
    (∀ b : FetchBusy, tag.toNat / 64 = 0 → s.req.fetches[i]? = some ⟨gen, some b⟩ → b.isLocal = false →
      b.group.coil.station = source →
      ∃ u t, exec (.sampleReply source dest tag payload) s = .next t ∧ Carried u t ∧
        u = { heard with
          bus := (heard.withdraw fun o => o == .reqFetch i).bus
          req := { s.req with fetches := s.req.fetches.set i ⟨gen, none⟩, depths := u.req.depths } } ∧
        if x.status = .data ∧ x.points.length = b.group.count then
          GroupFilled s.req.depths u.req.depths b.group (fun n => x.points[n]?) x.clamped none
        else GroupFilled s.req.depths u.req.depths b.group (fun _ => none) x.clamped (some (match x.status with
          | .unknown | .notMine => .unknown
          | .noQuantity => .noQuantity
          | .storeFault => .storeFault
          | .data | .badRequest => .unanswered))) ∧
    ((tag.toNat / 64 ≠ 0 ∨ ∀ b, s.req.fetches[i]? = some ⟨gen, some b⟩ → b.isLocal = true ∨ b.group.coil.station ≠ source) →
      ∃ t, exec (.sampleReply source dest tag payload) s = .next t ∧ Carried heard t)) ∧
  ∀ s : State,
    (∀ (g : Group) (rest : List Group) (n : Nat) (gen : BitVec 2), s.req.issue = g :: rest → n < 16 →
      let i := (s.req.lastGiven + 1 + n) % 16
      s.req.fetches[i]? = some ⟨gen, none⟩ →
      (∀ k < n, ∀ x, s.req.fetches[(s.req.lastGiven + 1 + k) % 16]? = some x → x.busy.isSome) →
      let given (b : FetchBusy) : Req := { s.req with
        issue := rest, lastGiven := i, fetches := s.req.fetches.set i ⟨gen + 1, some b⟩ }
      (g.coil.station = s.settings.station →
        assignStep s = some { s with
          req := { given ⟨g, true, 0, false, none⟩ with localOrder := s.req.localOrder ++ [i] } }) ∧
      (g.coil.station ≠ s.settings.station → s.bus.muted = false → assignStep s = some { s with
        req := given ⟨g, false, 1, false, none⟩
        bus := { s.bus with waiting := s.bus.waiting ++ [⟨⟨.sampleFetch, g.coil.station,
          BitVec.ofNat 8 (i * 4 + (gen + 1).toNat), fetchBytes ⟨g.coil, s.req.play.quantity, g.posFrom, g.posTo, g.count⟩⟩,
          .reqFetch i, 0, 0, false, false⟩] } }) ∧
      (g.coil.station ≠ s.settings.station → s.bus.muted = true → ∃ depths, assignStep s = some { s with
        req := { s.req with
          issue := rest, lastGiven := i, fetches := s.req.fetches.set i ⟨gen + 1, none⟩, depths }
        bus := (s.withdraw fun o => o == .reqFetch i).bus } ∧
        GroupFilled s.req.depths depths g (fun _ => none) false (some .unreachable))) ∧
    ((s.req.issue = [] ∨ ∀ x ∈ s.req.fetches, x.busy.isSome) → assignStep s = none) ∧
    ∀ (i : Nat) (rest : List Nat) (gen : BitVec 2) (b : FetchBusy), s.req.localEval = .idle → s.req.localOrder = i :: rest →
      s.req.fetches[i]? = some ⟨gen, some b⟩ →
      let fetch : Fetch := ⟨b.group.coil, s.req.play.quantity, b.group.posFrom, b.group.posTo, b.group.count⟩
      (∀ ev, startEval s fetch = .go ev →
        localStep s = some { s with req := { s.req with localOrder := rest, localEval := .running i ev } }) ∧
      (∀ st, st ≠ .data → startEval s fetch = .stop st → ∃ u, localStep s = some u ∧
        u = { s with
          bus := (s.withdraw fun o => o == .reqFetch i).bus
          req := { s.req with
            localOrder := rest, localEval := .idle, fetches := s.req.fetches.set i ⟨gen, none⟩, depths := u.req.depths } } ∧
        GroupFilled s.req.depths u.req.depths b.group (fun _ => none) false (some (match st with
          | .unknown | .notMine => .unknown
          | .noQuantity => .noQuantity
          | .storeFault => .storeFault
          | .data | .badRequest => .unanswered)))

/-- A LINEAGE-REPLY of tag unit 1 to a busy slot of its generation, from the station asked (R75, R101, R131, R132, R136, R160): the slot
is idle, its frames withdrawn, and what the reply says, a record only where it is the slot's coil and passes R73, reaches what the
slot serves; a record that passes R73 also enters the cache. Otherwise the slots stay as they are. That the frames of the ended slot
are withdrawn is the model's reading (R93, R150, R153; assumption 22). -/
def Obligations.LineageReplyToRequest : Prop :=
  ∀ (s : State) (source dest : BitVec 6) (tag : Byte) (payload : List Byte) (a : LineageAnswer), s.receives = true →
    (Instr.lineageReply source dest tag payload).wf = true → source ≠ 0 → source ≠ 63 →
    dest = s.settings.station ∨ dest = 63 → parseLineageAnswer payload = some a → tag.toNat / 64 = 1 →
    let passes (r : LineageRec) : Bool := r.passes s.settings.station source
    let heard : State := { s.heardFrom source with
      lch := { s.lch with cache := match a with
        | .record r => if passes r then (r :: s.lch.cache.filter fun y => y.coil != r.coil).take 256 else s.lch.cache
        | _ => s.lch.cache } }
    let gen : BitVec 2 := BitVec.ofNat 2 (tag.toNat % 4)
    let i := tag.toNat / 4 % 16
    (∀ b : QueryBusy, s.req.queries[i]? = some ⟨gen, some b⟩ → b.coil.station = source →
      let idle : State := { heard with
        bus := (heard.withdraw fun o => o == .reqQuery i).bus
        req := { s.req with queries := s.req.queries.set i ⟨gen, none⟩ } }
      let listed (o : RecState) : State := { idle with req := { idle.req with plan := s.req.plan.map fun p =>
        { p with coils := p.coils.map fun x => if x = (b.coil, .looking) then (b.coil, o) else x } } }
      let placed (o : PlaceOutcome) : State := { idle with req := { idle.req with walk := { s.req.walk with
        places := s.req.walk.places.map fun p => if p.coil = b.coil ∧ p.outcome = .looking then { p with outcome := o } else p } } }
      let next (u : State) : Prop := ∃ t, exec (.lineageReply source dest tag payload) s = .next t ∧ Carried u t
      (∀ r, a = .record r → r.coil = b.coil → passes r = true →
        (b.serves = .resolution → next (acceptPlayback r.length (.record r) idle)) ∧
        (b.serves = .coilList → next (listed (.record r))) ∧ (b.serves = .place → next (placed (.record r)))) ∧
      (∀ c len close, a = .pending c len close →
        (b.serves = .resolution → next (acceptPlayback len (.pending close) idle)) ∧
        (b.serves = .coilList → next (listed (.pending close))) ∧ (b.serves = .place → next (placed (.pending len close 0 0)))) ∧
      ((∃ c, a = .unknown c ∨ a = .notMine c) ∨ (∃ r, a = .record r ∧ (r.coil ≠ b.coil ∨ passes r = false)) →
        (b.serves = .resolution → next { idle with req := { idle.req with refusal := some .unknownCoil } }) ∧
        (b.serves = .coilList → next (listed .unknown)) ∧ (b.serves = .place → next (placed .unknown)))) ∧
    ((∀ b, s.req.queries[i]? = some ⟨gen, some b⟩ → b.coil.station ≠ source) →
      ∃ t, exec (.lineageReply source dest tag payload) s = .next t ∧ Carried heard t)

/-! ### Genealogy and listing (chapter 10) -/

/-- The idle engine takes a GENEALOGY or a COIL-LIST (R159, R160, R164, R167, R172): N alone in the visited set, settled at once where
the own table, the cache, its station or MUTED settles it; the listing buffer filled with the records of the window or the last n of
those admitted, an unset close time being admitted where the request says so.
An upward walk goes on place by place (R160, R161): a LOOKING place holds it back; one that is not due is passed over; one with a
record, above the walk's depth, gives a place for each piece in order, one deeper with that piece as its link, but none for a
source other than 0:0 that is in the set or was just given one, and each is settled by the first case of R160 that applies; the
257th place truncates the walk and is not made (R163, `Req.withPlaces`). -/
def Obligations.WalkAndListingTaken : Prop :=
  (∀ s : State, s.receives = true → s.con.assembler = none → s.con.complete = none → s.req.engine = .idle →
    (∀ (coil : Coil) (direction depth : Byte), direction.toNat < 2 → 1 ≤ depth.toNat → depth.toNat ≤ 8 →
      let own := s.ctr.exits.find? fun r => r.coil == coil
      let held := s.lch.cache.find? fun r => r.coil == coil
      let off := coil.station = 0 ∨ coil.station = 63
      ∃ (t : State) (o : PlaceOutcome) (cache : List LineageRec), exec (.genealogy coil direction depth) s = .next t ∧
        Carried { s with
          lch := { s.lch with cache }
          req := { s.req with
            engine := if direction = 0 then .walkingUp else .walkingDown, emitted := 0
            play := { PlayRequest.empty with coil, depth := depth.toNat }
            walk := ⟨depth.toNat, [⟨coil, 0, .unknown, none, o⟩], 0, false, 0⟩ } } t ∧
        (direction ≠ 0 → o = .root ∧ cache = s.lch.cache) ∧
        (direction = 0 →
          (coil = .unknown ∨ coil.station = 63 → o = .unknown) ∧ (coil ≠ .unknown → coil.station = 0 → o = .origin) ∧
          (¬ off → coil.station = s.settings.station →
            (own = none → o = .unknown) ∧
            (∀ r os n, own = some r → r.body = .pending os n → o = .pending (r.oEnd - r.oStart) r.close r.stop r.lane) ∧
            (∀ r ps m, own = some r → r.body = .final ps m →
              o = .record ⟨r.coil, r.oEnd - r.oStart, r.close, r.stop, r.lane, r.lanes, r.timedOut, ps⟩)) ∧
          (¬ off → coil.station ≠ s.settings.station →
            (∀ r, held = some r → o = .record r ∧ cache = r :: s.lch.cache.filter fun x => x.coil != coil) ∧
            (held = none → o = if s.bus.muted then .unreachable else .looking)) ∧
          (off ∨ coil.station = s.settings.station ∨ held = none → cache = s.lch.cache))) ∧
    (∀ (t1 t2 : BitVec 48) (unstamped : Bool), ∃ t, exec (.coilList (.window t1 t2) unstamped) s = .next t ∧
      Carried { s with req := { s.req with
        engine := .listing, emitted := 0
        listing := s.ctr.exits.filter fun r =>
          if r.close = 0 then unstamped else decide (t1.toNat ≤ r.close) && decide (r.close ≤ t2.toNat) } } t) ∧
    (∀ (n : BitVec 16) (unstamped : Bool), 1 ≤ n.toNat → n.toNat ≤ 1024 →
      ∃ t, exec (.coilList (.last n) unstamped) s = .next t ∧
        Carried { s with req := { s.req with
          engine := .listing, emitted := 0
          listing := ((s.ctr.exits.filter fun r => unstamped || r.close != 0).reverse.take n.toNat).reverse } } t)) ∧
  ∀ (s : State) (p : Place), s.req.engine = .walkingUp → s.req.walk.places[s.req.walk.expanded]? = some p →
    let w := s.req.walk
    let passed : State := { s with req := { s.req with walk := { w with expanded := w.expanded + 1 } } }
    (p.outcome = .looking → walkStep s = none) ∧
    (p.outcome ≠ .looking → (∀ r, p.outcome ≠ .record r) ∨ w.depth ≤ p.depth ∨ w.truncated = true → walkStep s = some passed) ∧
    (∀ r, p.outcome = .record r → p.depth < w.depth → w.truncated = false →
      let taken := r.pieces.foldl (fun l (x : Piece) =>
        if x.source ≠ .unknown ∧ ((∃ q ∈ w.places, q.coil = x.source) ∨ ∃ y ∈ l, y.source = x.source) then l else l ++ [x]) []
      ∃ (new : List Place) (cache : List LineageRec),
        walkStep s = some { passed with
          lch := { s.lch with cache }
          req := passed.req.withPlaces new } ∧
        new.map (fun q => (q.coil, q.depth, q.parent, q.link)) =
          taken.map (fun x => (x.source, p.depth + 1, p.coil, some x)) ∧
        (∀ c, (cache.find? fun y => y.coil == c) = s.lch.cache.find? fun y => y.coil == c) ∧
        ∀ q ∈ new.take (256 - w.places.length),
          let own := s.ctr.exits.find? fun y => y.coil == q.coil
          let held := s.lch.cache.find? fun y => y.coil == q.coil
          let off := q.coil.station = 0 ∨ q.coil.station = 63
          (q.coil = .unknown ∨ q.coil.station = 63 → q.outcome = .unknown) ∧
          (q.coil ≠ .unknown → q.coil.station = 0 → q.outcome = .origin) ∧
          (¬ off → q.coil.station = s.settings.station →
            (own = none → q.outcome = .unknown) ∧
            (∀ y os n, own = some y → y.body = .pending os n →
              q.outcome = .pending (y.oEnd - y.oStart) y.close y.stop y.lane) ∧
            (∀ y ps m, own = some y → y.body = .final ps m → q.outcome = .record (y.lineageWith ps))) ∧
          (¬ off → q.coil.station ≠ s.settings.station →
            (∀ y, held = some y → q.outcome = .record y) ∧
            (held = none → q.outcome = if s.bus.muted then .unreachable else .looking)))

/-- A downward walk goes on place by place while the collector is idle (R163, R164, R166): one that is not due is passed over; one that is
due gives a place for each own exit record made from its coil, in close order, that is new to the walk. Unless the 257th place truncates
it, the descent query follows: the collector, under its next generation, offers a DESCENT-QUERY to all; under MUTED the query is given
up, and the dropped count rises.
The descendant collector (R163 to R166): a part of a child list that answers the query in hand restarts the quiet timer and is noted;
the children of the part that come from its station and are new to the walk become places, of which the 257th truncates the walk and
ends the collection. A part already taken, one under another tag, and one that comes while no collection runs, the collector idle or
its query not yet sent, only passes the roster (R118). At the quiet timer's end collection goes
on while a station is incomplete, and ends otherwise, as it does at the overall timer's end: the walk passes to the next place. -/
def Obligations.DescendantsCollected : Prop :=
  (∀ s : State, s.req.engine = .walkingDown →
    let w := s.req.walk
    let col := s.req.collector
    let passed (r : Req) : Req := { r with walk := { r.walk with expanded := w.expanded + 1 } }
    (col.state ≠ .idle ∨ w.places[w.expanded]? = none → walkStep s = none) ∧
    ∀ p, col.state = .idle → w.places[w.expanded]? = some p →
      (w.depth ≤ p.depth ∨ w.truncated = true ∨ p.coil = .unknown → walkStep s = some { s with req := passed s.req }) ∧
      (p.depth < w.depth → w.truncated = false → p.coil ≠ .unknown →
        let made := s.ctr.exits.filter fun r => match r.body with
          | .pending os _ => os.any fun v => v.coil == p.coil
          | .final ps _ => ps.any fun x => x.source == p.coil
        let taken := made.foldl (fun l (r : ExitRec) =>
          if r.coil ≠ .unknown ∧ ((∃ q ∈ w.places, q.coil = r.coil) ∨ ∃ y ∈ l, y.coil = r.coil) then l else l ++ [r]) []
        let grown : Req := s.req.withPlaces (taken.map fun r =>
          ⟨r.coil, p.depth + 1, p.coil, none, .child r.lane (r.oEnd - r.oStart) (!r.body.isFinal)⟩)
        (grown.walk.truncated = true → walkStep s = some { s with req := passed grown }) ∧
        (grown.walk.truncated = false → s.bus.muted = false → walkStep s = some { s with
          req := { grown with collector := { col with gen := col.gen + 1, state := .offering, tries := 1, parts := [] } }
          bus := { s.bus with waiting := s.bus.waiting ++ [⟨⟨.descentQuery, 63,
            BitVec.ofNat 8 (192 + (col.gen + 1).toNat), coilBytes 0 p.coil⟩, .reqDescent, 0, 0, false, false⟩] } }) ∧
        (grown.walk.truncated = false → s.bus.muted = true → walkStep s = some { s with
          req := { passed grown with
            collector := ⟨col.gen + 1, .idle, 0, 0, 0, []⟩
            walk := { (passed grown).walk with dropped := w.dropped + 1 } } }))) ∧
  (∀ (s : State) (source dest : BitVec 6) (tag : Byte) (payload : List Byte) (x : DescentPart), s.receives = true →
    s.req.collector.state ≠ .collecting → (Instr.descentReply source dest tag payload).wf = true → source ≠ 0 → source ≠ 63 →
    source ≠ s.settings.station → dest = s.settings.station ∨ dest = 63 → parseDescentPart payload = some x →
    ∃ t, exec (.descentReply source dest tag payload) s = .next t ∧ Carried (s.heardFrom source) t) ∧
  ∀ s : State, s.running = true → s.req.collector.state = .collecting →
    let col := s.req.collector
    let done : State := { s with req := { s.req with
      collector := { col with state := .idle, tries := 0, quiet := 0, overall := 0, parts := [] }
      walk := { s.req.walk with expanded := s.req.walk.expanded + 1 } } }
    (col.quiet = 0 →
      (anyIncomplete col.parts = true → ∃ t, exec .quietTimerExpiry s = .next t ∧
        Carried { s with req := { s.req with collector := { col with quiet := 100 } } } t) ∧
      (anyIncomplete col.parts = false → ∃ t, exec .quietTimerExpiry s = .next t ∧ Carried done t)) ∧
    (col.overall = 0 → ∃ t, exec .overallTimerExpiry s = .next t ∧ Carried done t) ∧
    (anyIncomplete col.parts = true ↔ ∃ x ∈ col.parts,
      let mine := col.parts.filter fun y => y.1 == x.1
      (∃ y ∈ mine, y.2.2 = true ∧ ∀ z ∈ mine, z.2.1 ≤ y.2.1) ∨ ∃ y ∈ mine, mine.length < y.2.1 + 1) ∧
    ∀ (source dest : BitVec 6) (tag : Byte) (payload : List Byte) (x : DescentPart), s.sup.resetPin = false →
      (Instr.descentReply source dest tag payload).wf = true → source ≠ 0 → source ≠ 63 → source ≠ s.settings.station →
      dest = s.settings.station ∨ dest = 63 → parseDescentPart payload = some x →
      let heard : State := s.heardFrom source
      let answers := tag = BitVec.ofNat 8 (192 + col.gen.toNat) ∧ ∀ y ∈ col.parts, y.1 = source → y.2.1 ≠ x.index
      (¬ answers → ∃ t, exec (.descentReply source dest tag payload) s = .next t ∧ Carried heard t) ∧
      ∀ p, answers → s.req.walk.places[s.req.walk.expanded]? = some p →
        let new := if s.req.walk.truncated then [] else (x.children.filter fun c => c.coil.station == source).foldl
          (fun l c => if (∃ q ∈ s.req.walk.places, q.coil = c.coil) ∨ ∃ y ∈ l, y.coil = c.coil then l else l ++ [c]) []
        let taken : Req := { s.req with
          collector := { col with quiet := 100, parts := col.parts ++ [(source, x.index, x.more)] } }
        ∃ t, exec (.descentReply source dest tag payload) s = .next t ∧ Carried { heard with
          req := taken.withPlaces (new.map fun c => ⟨c.coil, p.depth + 1, p.coil, none, .child c.lane c.length c.pending⟩) } t

/-! ### Console link (chapter 11) -/

/-- Console records that are answered without reaching a block (R170, R171, R172, R177, R185): a record cut short, by a framing error,
by a length above 32 or by 100 ms of silence, or with a check failure, or malformed by a kind byte of no request, a payload length not
that of its kind, an undefined bit or value or a field out of its range, a request of REQ in a part not running or while REQ has one in
hand, and a SET-TIME in a part not running (the model's reading, assumption 43); any record that completes while the buffer is occupied
is discarded and refused with OVERRUN, once; outside the states in which the link runs, and while the reset input is held, nothing
happens. In HUNTING every byte but 3CH is discarded, and the bytes after a 3CH that complete no record stay in the assembler. A record
cut short is answered with its kind byte, also where that byte had the framing error (the model's reading, assumption 26), the overrun
mark keeps the kind of the first overrun (the model's reading, assumption 25), and the reason of a REFUSE that waits for a full output
queue is that of the arrival (the model's choice, assumption 46). -/
def Obligations.ConsoleRecordsRefused : Prop :=
  ∀ s : State,
    let refused (rec : ConRecord) (why : Reason) : State := { s with con := s.con.answered rec (.refuse rec.kind why) }
    let next (c : Instr) (u : State) : Prop := ∃ t, exec c s = .next t ∧ Carried u t
    let overrun (kind : Byte) : State :=
      if s.con.overrun.isSome then s
      else if s.con.out.length < 16 then { s with con := { s.con with out := s.con.out ++ [.refuse kind .overrun] } }
      else { s with con := { s.con with overrun := some kind } }
    let anyRequest (u : Byte → State) : Prop :=
      (∀ coil quantity a b step depth, next (.playback coil quantity a b step depth) (u 1)) ∧
        (∀ coil direction depth, next (.genealogy coil direction depth) (u 2)) ∧
        (∀ mode unstamped, next (.coilList mode unstamped) (u 3)) ∧ next .status (u 4) ∧ next .abort (u 5) ∧
        next .clearFault (u 6) ∧ ∀ clock, next (.setTime clock) (u 7)
    (s.linkRuns = false → s.con.assembler = none → (∀ bytes framing,
      next (.consoleBadRecord bytes framing) s ∧ next (.consoleByteTimeout bytes) s) ∧ anyRequest fun _ => s) ∧
    (s.linkRuns = true → s.con.assembler = none → s.con.complete.isSome → anyRequest overrun) ∧
    (s.linkRuns = true → s.con.assembler = none → s.con.complete.isSome ∨ s.con.overrun = none →
      let turned (rec : ConRecord) (why : Reason) : State :=
        if s.con.complete.isSome then overrun rec.kind else refused rec why
      ∀ pre : List Byte, (∀ b ∈ pre, b ≠ 0x3C) →
        (∀ framing, next (.consoleBadRecord pre framing) s ∧ next (.consoleByteTimeout pre) s) ∧
        (∀ (len : Byte) framing, 32 < len.toNat →
          next (.consoleBadRecord (pre ++ [0x3C, len]) framing) (turned (.cutShort 0) .format) ∧
          next (.consoleByteTimeout (pre ++ [0x3C, len])) (turned (.cutShort 0) .format)) ∧
        ∀ record : List Byte, field record 0 1 ≤ 32 →
          let bytes := pre ++ 0x3C :: record
          (record ≠ [] → record.length ≤ field record 0 1 + 4 →
            next (.consoleBadRecord bytes true) (turned (.cutShort (record.getD 1 0)) .format)) ∧
          (record.length < field record 0 1 + 4 →
            next (.consoleByteTimeout bytes) (turned (.cutShort (record.getD 1 0)) .format) ∧
            next (.consoleBadRecord bytes false) { s with con := { s.con with assembler := some record } }) ∧
          (record.length = field record 0 1 + 4 →
            let n := field record 0 1
            let byte (i : Nat) : Nat := field record (2 + i) 1
            let good := field record (n + 2) 2 = (crcBytes (record.take (n + 2))).toNat
            let formed := match field record 1 1 with
              | 1 => n = 19 ∧ byte 0 < 64 ∧ 1 ≤ field record 16 4 ∧ field record 16 4 ≤ 1000000 ∧ byte 18 ≤ 4
              | 2 => n = 7 ∧ byte 0 < 64 ∧ byte 5 < 2 ∧ 1 ≤ byte 6 ∧ byte 6 ≤ 8
              | 3 => n = 13 ∧ (byte 0 = 0 ∨ byte 0 = 2) ∨
                  n = 3 ∧ (byte 0 = 1 ∨ byte 0 = 3) ∧ 1 ≤ field record 3 2 ∧ field record 3 2 ≤ 1024
              | 4 | 5 | 6 => n = 0
              | 7 => n = 6
              | _ => False
            (¬ good → next (.consoleBadRecord bytes false) (turned (.badCheck (record.getD 1 0)) .check)) ∧
            (good → ¬ formed → next (.consoleBadRecord bytes false) (turned (.badFormat (record.getD 1 0)) .format)))) ∧
    (s.linkRuns = true → s.con.assembler = none → s.con.complete = none → s.con.overrun = none →
      (∀ coil quantity a b step depth, step = 0 ∨ 1000000 < step.toNat ∨ 4 < depth.toNat →
        next (.playback coil quantity a b step depth) (refused (.badFormat 1) .format)) ∧
      (∀ coil direction depth, 2 ≤ direction.toNat ∨ depth = 0 ∨ 8 < depth.toNat →
        next (.genealogy coil direction depth) (refused (.badFormat 2) .format)) ∧
      (∀ n unstamped, n = 0 ∨ 1024 < n.toNat → next (.coilList (.last n) unstamped) (refused (.badFormat 3) .format)) ∧
      (s.running = false ∨ s.req.engine ≠ .idle →
        let turnedAway (q : Request) : State := refused (.request q) (if s.running then .busy else .notRunning)
        (∀ coil quantity a b step depth, step ≠ 0 → step.toNat ≤ 1000000 → depth.toNat ≤ 4 →
          next (.playback coil quantity a b step depth)
            (turnedAway (.playback coil quantity.toNat a.toNat b.toNat step.toNat depth.toNat))) ∧
        (∀ coil direction depth, direction.toNat < 2 → depth ≠ 0 → depth.toNat ≤ 8 →
          next (.genealogy coil direction depth) (turnedAway (.genealogy coil (direction == 0) depth.toNat))) ∧
        (∀ t1 t2 unstamped, next (.coilList (.window t1 t2) unstamped) (turnedAway (.coilList (.window t1 t2) unstamped))) ∧
        ∀ n unstamped, n ≠ 0 → n.toNat ≤ 1024 →
          next (.coilList (.last n) unstamped) (turnedAway (.coilList (.last n) unstamped))) ∧
      (s.running = false → ∀ clock, next (.setTime clock) (refused (.request (.setTime clock.toNat)) .notRunning)))

/-- Console requests CON serves (R125, R126, R173, R174, R175): STATUS with the report of the values current when it joins, CLEAR-FAULT
that empties the fault record, SET-TIME at the time source, which sends a TIME frame, and refused elsewhere, ABORT with no request in
hand; and the end of a response record, which leaves the output queue. The levels of the line in the report are free within a frame
(assumption 3), and CLEAR-FAULT and SET-TIME act at the arrival while DONE waits for a full queue (the model's choice, assumption 46).
CON's own record joins the output queue where an entry is free (R171, R173, R174): a pending REFUSE OVERRUN first, then the answer that
waits in the complete buffer, a STATUS-REPORT being assembled at that moment.
REQ's next record joins where an entry is free and CON wants none (R132, R133, R152 to R154, R162, R166, R168, R169, R173): ACCEPT,
then the present results in depth and grid order up to the first that is absent, TRACE-END with the points that have data and those
that do not, PLAYBACK-END with the emitted counts; the settled places in order up to the first that is LOOKING, and GEN-END when every
place is emitted and none is due; the listed records and LIST-END; after ABORT the end record with ABORTED. With an end record or a
REFUSE the engine is IDLE. -/
def Obligations.ConsoleRequestsServed : Prop :=
  (∀ s : State,
    let next (c : Instr) (u : State) : Prop := ∃ t, exec c s = .next t ∧ Carried u t
    (s.con.out ≠ [] → next .outputRecordSent { s with con := { s.con with out := s.con.out.tail } }) ∧
    (s.con.assembler = none → s.con.complete = none → s.con.overrun = none →
      (s.linkRuns = true → s.con.out.length < 16 → ∃ r : StatusReport,
        next .status { s with con := { s.con with out := s.con.out ++ [.statusReport r] }, freeSeq := s.freeSeq + 2 } ∧
        s.Reports r) ∧
      (s.linkRuns = true → 16 ≤ s.con.out.length →
        next .status { s with con := { s.con with complete := some ⟨.request .status, .report⟩ } }) ∧
      (s.receives = true →
        next .clearFault { s with
          con := s.con.answered (.request .clearFault) (.done 6)
          sup := { s.sup with fault := none, faultCount := 0, markBad := false, markService := false, markLf := false } } ∧
        (s.req.engine = .idle → next .abort { s with con := s.con.answered (.request .abort) (.done 5) }) ∧
        ∀ clock : BitVec 48,
          let answered (r : Response) : Con := s.con.answered (.request (.setTime clock.toNat)) r
          (s.settings.timeSource = false → next (.setTime clock) { s with con := answered (.refuse 7 .notTimeSource) }) ∧
          (s.settings.timeSource = true → clock = 0 →
            next (.setTime clock) { s with con := answered (.done 7), ros := { s.ros with clock := 0, timeTimer := 0 } }) ∧
          (s.settings.timeSource = true → clock ≠ 0 → s.bus.muted = true → next (.setTime clock) { s with
            con := answered (.done 7), ros := { s.ros with clock := clock.toNat, timeTimer := 0 } }) ∧
          (s.settings.timeSource = true → clock ≠ 0 → s.bus.muted = false → next (.setTime clock) { s with
            con := answered (.done 7)
            ros := { s.ros with clock := clock.toNat, timeTimer := 0 }
            bus := { (s.withdraw fun o => o == .rosTime).bus with waiting := (s.withdraw fun o => o == .rosTime).bus.waiting ++
              [⟨⟨.time, 63, 0, beBytes 6 clock.toNat⟩, .rosTime, 0, 0, false, false⟩] } }))) ∧
    (s.linkRuns = true → s.running = false → s.con.assembler = none → s.con.complete = none →
      s.con.overrun = none →
      next .clearFault { s with con := s.con.answered (.request .clearFault) (.refuse 6 .notRunning) } ∧
      next .abort { s with con := s.con.answered (.request .abort) (.refuse 5 .notRunning) })) ∧
  (∀ s : State,
    (16 ≤ s.con.out.length ∨ s.con.overrun = none ∧ s.con.complete = none → conStep s = none) ∧
    (s.con.out.length < 16 →
      (∀ kind, s.con.overrun = some kind →
        conStep s = some { s with con := { s.con with overrun := none, out := s.con.out ++ [.refuse kind .overrun] } }) ∧
      (∀ rec r, s.con.overrun = none → s.con.complete = some ⟨rec, .place r⟩ →
        conStep s = some { s with con := { s.con with complete := none, out := s.con.out ++ [r] } }) ∧
      ∀ rec, s.con.overrun = none → s.con.complete = some ⟨rec, .report⟩ → ∃ r, s.Reports r ∧
        conStep s = some { s with
          con := { s.con with complete := none, out := s.con.out ++ [.statusReport r] }, freeSeq := s.freeSeq + 2 })) ∧
  ∀ s : State,
    let r := s.req
    let idle : Req := { r with
      engine := .idle, play := ⟨.unknown, 0, 0, 0, 0, 0, 0, 0, 0, .unknown⟩, refusal := none, acceptDue := false, aborting := false
      depths := [], plan := none, issue := [], emitDepth := 0, emitIndex := 0, counts := [0, 0, 0, 0, 0]
      walk := ⟨0, [], 0, false, 0⟩, listing := [], emitted := 0 }
    (16 ≤ s.con.out.length ∨ s.con.overrun.isSome ∨ s.con.complete.isSome → emitStep s = none) ∧
    (s.con.out.length < 16 → s.con.overrun = none → s.con.complete = none →
      let emits (x : Response) (after : Req) : Prop :=
        emitStep s = some { s with req := after, con := { s.con with out := s.con.out ++ [x] } }
      (r.engine = .idle → emitStep s = none) ∧
      (r.engine = .resolving →
        (r.refusal = none → emitStep s = none) ∧ ∀ why, r.refusal = some why → emits (.refuse 1 why) idle) ∧
      (r.engine = .playing →
        (r.acceptDue = true →
          emits (.accept r.play.points r.play.depth r.play.bound (decide (r.play.bound < r.play.b))) { r with acceptDue := false }) ∧
        (r.acceptDue = false → r.aborting = true → emits (.playbackEnd true r.counts) idle) ∧
        (r.acceptDue = false → r.aborting = false →
          (r.play.depth < r.emitDepth → emits (.playbackEnd false r.counts) idle) ∧
          (r.emitDepth ≤ r.play.depth → r.depths[r.emitDepth]? = none → emitStep s = none) ∧
          ∀ t, r.emitDepth ≤ r.play.depth → r.depths[r.emitDepth]? = some t →
            (t.results[r.emitIndex]? = some none → emitStep s = none) ∧
            (∀ x, t.results[r.emitIndex]? = some (some x) → emits (.tracePoint r.emitDepth r.emitIndex x) { r with
              emitIndex := r.emitIndex + 1, counts := r.counts.modify r.emitDepth (· + 1) }) ∧
            (t.results.length ≤ r.emitIndex →
              let data := t.results.countP fun x => match x with
                | some y => y.outcome.isNone && !y.expired
                | none => false
              emits (.traceEnd r.emitDepth data (t.results.length - data)) { r with
                emitDepth := r.emitDepth + 1, emitIndex := 0 }))) ∧
      (r.engine = .walkingUp ∨ r.engine = .walkingDown →
        (r.aborting = true → emits (.genEnd .aborted r.emitted r.walk.dropped) idle) ∧
        (r.aborting = false →
          (∀ p, r.walk.places[r.emitted]? = some p →
            let entry (length close stop lane : Nat) (timedOut : Bool) (flag : GenFlag) : Prop :=
              emits (.genEntry ⟨p.depth, p.coil, p.parent, p.link, length, close, stop, lane, timedOut, flag⟩) { r with
                emitted := r.emitted + 1 }
            match p.outcome with
            | .looking => emitStep s = none
            | .record y => entry y.length y.close y.stop y.lane y.timedOut .none
            | .pending length close stop lane => entry length close stop lane false .pending
            | .unknown => entry 0 0 0 0 false .unknown
            | .unreachable => entry 0 0 0 0 false .unreachable
            | .origin => entry 0 0 0 0 false .origin
            | .child lane length pending => entry length 0 0 lane false (if pending then .pending else .none)
            | .root => entry 0 0 0 0 false .none) ∧
          (r.walk.places.length ≤ r.emitted →
            (r.walk.expanded < r.walk.places.length ∨ r.collector.state ≠ .idle → emitStep s = none) ∧
            (r.walk.places.length ≤ r.walk.expanded → r.collector.state = .idle →
              emits (.genEnd (if r.walk.truncated then .truncated else .complete) r.emitted r.walk.dropped) idle)))) ∧
      (r.engine = .listing →
        (r.aborting = true → emits (.listEnd true r.emitted) idle) ∧
        (r.aborting = false →
          (∀ x, r.listing[r.emitted]? = some x → emits (.listEntry x) { r with emitted := r.emitted + 1 }) ∧
          (r.listing.length ≤ r.emitted → emits (.listEnd false r.emitted) idle))))

/-- ABORT with a request in hand (R132, R155, R169, R175), which is taken without an answer of CON: every busy slot is idle under its next
generation, its frames withdrawn; in RESOLVING the request is refused with ABORTED, in PLAYING the plan, issue list and local
evaluation go, in a walk or listing the places, the collection, the collector stepping its generation, and the listing buffer go, and
the end record with outcome ABORTED is due. A second ABORT has no effect. -/
def Obligations.AbortEndsRequest : Prop :=
  ∀ s : State, s.receives = true → s.con.assembler = none → s.con.complete = none →
    let next (u : State) : Prop := ∃ t, exec .abort s = .next t ∧ Carried u t
    let queries := s.req.queries.map fun x => if x.busy.isSome then (⟨x.gen + 1, none⟩ : QuerySlot) else x
    let isQuery (o : Owner) : Bool := match o with
      | .reqQuery _ => true
      | _ => false
    let isFetch (o : Owner) : Bool := match o with
      | .reqFetch _ => true
      | _ => false
    (s.req.engine = .resolving → s.req.refusal ≠ some .aborted → next { s with
      bus := (s.withdraw isQuery).bus, req := { s.req with queries, refusal := some .aborted } }) ∧
    (s.req.engine = .playing → s.req.aborting = false → next { s with
      bus := (s.withdraw fun o => isQuery o || isFetch o).bus
      req := { s.req with
        aborting := true, acceptDue := false, plan := none, issue := [], queries, localOrder := []
        fetches := s.req.fetches.map fun x => if x.busy.isSome then ⟨x.gen + 1, none⟩ else x
        localEval := match s.req.localEval, s.tsc.transfer with
          | .idle, _ => .idle
          | _, some (.read .localEval _) => .draining
          | _, _ => .idle } }) ∧
    (s.req.engine = .walkingUp ∨ s.req.engine = .walkingDown ∨ s.req.engine = .listing → s.req.aborting = false → next { s with
      bus := (s.withdraw fun o => isQuery o || o == .reqDescent).bus
      req := { s.req with
        aborting := true, queries, listing := [], walk := { s.req.walk with places := [] }
        collector := ⟨s.req.collector.gen + 1, .idle, 0, 0, 0, []⟩ } }) ∧
    (s.req.engine = .resolving ∧ s.req.refusal = some .aborted ∨
      s.req.engine ≠ .idle ∧ s.req.engine ≠ .resolving ∧ s.req.aborting = true → next s)

/-! ### Starts and supply (chapter 11) -/

/-- A start (R29 to R35, R122, R174, R176 to R181): the settle count ends in LOADING, the fault record emptied where the retention mark is
clear and the channel table not yet loaded (the model's reading, assumption 28). A fatal image ends in CONFIG-FAULT with CONFIG. Any
other gives the settings, clamped field by field, the enabled channels, with one CONFIG for each clamp and each channel disabled, and
CHECKING; the start is cold where the retention mark is clear or the image's checksum is new, else warm. Every block takes the values of
the start (R1, R7, R9, R11, R17, R25, R33 to R37, R59, R60, R71, R76, R94, R104, R117, R124, R126, R128, R144, R157, R164, R170,
R171, R173): a warm one keeps the odometer, the stop time, the tables of the tracker, with unknown lengths looked up again and full
finalization timers, every slot's generation, and the pages of an intact store, the test buffer written back into a marked slot.
The self-test ends in RUN where every read-back is what was written, or at the first that is not with STORE-FAULT in RUN-DEGRADED, with
the store empty, every horizon at the open bin and the test mark and buffer of a live slot in hand still set (the model's reading,
assumption 34); and PRESENCE START is queued. The model's choices in this: undefined bits of the image are ignored (assumption 23), a
channel disabled for two reasons writes one CONFIG (assumption 24), the store state is OK until the self-test ends (assumption 29), the
write pointer is kept in RUN-DEGRADED (assumption 35), START joins the transmit queue before CTR's announcements (assumption 36), and a
cold start keeps the names of tracker records and the free-value counter, which are the model's own (assumption 41). -/
def Obligations.StartSequence : Prop :=
  ∀ s : State,
    let next (c : Instr) (u : State) : Prop := ∃ t, exec c s = .next t ∧ Carried u t
    let kept : Sup := if s.sup.retention then s.sup else
      { s.sup with fault := none, faultCount := 0, markBad := false, markService := false, markLf := false }
    (s.sup.part = .settling → next .settleCountEnd { s with
      settings := { s.settings with tableLoaded := false }, sup := { kept with part := .loading } }) ∧
    (s.sup.part = .loading → ∀ image : List (BitVec 16),
      let word (i : Nat) : Nat := (image.getD i 0xFFFF).toNat
      let fatal := word 0 ≠ 0x0742 ∨
        ((List.range 90).map word).foldl (fun a b => if 65536 ≤ a + b then a + b - 65535 else a + b) 0 ≠ 65535 ∨ word 1 = 0 ∨ 63 ≤ word 1
      (fatal → next (.configLoad image) { s with sup := { kept with
        part := .configFault, fault := some ⟨.config, .sup, none, none, s.ros.clock⟩
        faultCount := if kept.faultCount < 65535 then kept.faultCount + 1 else kept.faultCount } }) ∧
      (¬ fatal → ∃ (g : Settings) (tsc : Tsc),
        let clamp (low high v : Nat) : Nat := min (max v low) high
        let outside (low high v : Nat) : Nat := if v < low ∨ high < v then 1 else 0
        let faults := outside 0 31 (word 2) + outside 1 65535 (word 3) + outside 100 60000 (word 4) + outside 1 24 (word 5) +
          outside 10 1000 (word 6) + outside 0 2 (word 7 / 256 % 4) + outside 50 2000 (word 8) +
          (List.range 32).countP fun i => 256 ≤ word (9 + i) && g.channels.all fun d => d.index != i
        let pair (i : Nat) : BitVec 32 := BitVec.ofNat 32 (word i * 65536 + word (i + 1))
        let checksum : BitVec 16 := crcBytes ((List.range 90).flatMap fun i => beBytes 2 (word i))
        let cold := !s.sup.retention || s.sup.checksum != checksum
        let counted := if cold then 0 else s.sup.faultCount
        let odometer := if cold then 0 else s.smp.odometer
        let again (c : Coil) (length : Option Nat) : Option Nat × LengthState := match length with
          | some n => (some n, .none)
          | none => if c.station = 0 ∨ c.station = 63 then (none, .none)
            else if c.station = g.station then
              ((s.ctr.exits.find? fun r => r.coil == c).map (fun r => r.oEnd - r.oStart), .none)
            else (none, .wanted)
        next (.configLoad image) {
          settings := g
          smp := { odometer, fraction := if cold then 0 else s.smp.fraction, debt := if cold then 0 else s.smp.debt
                   sampler := .standstill, timer := 0, stopTime := if cold then 0 else s.smp.stopTime
                   chans := g.channels.map fun d => ⟨d.index, ⟨0, 0, none, true, false⟩, none⟩ }
          tsc
          lfr := { assembler := [], errors := 0, lastPos := if cold then 0 else s.lfr.lastPos }
          ctr := if cold then { decls := [], entries := [], segStart := 0, exits := [], slots := List.replicate 8 ⟨0, none⟩
                                nextId := s.ctr.nextId }
            else { s.ctr with
              decls := s.ctr.decls.map fun d => { d with length := (again d.coil d.length).1, lq := (again d.coil d.length).2 }
              entries := s.ctr.entries.map fun e => { e with length := (again e.coil e.length).1, lq := (again e.coil e.length).2 }
              exits := s.ctr.exits.map fun r => match r.body with
                | .pending os _ => { r with body := .pending os (g.finalHours * 3600000) }
                | .final .. => r
              slots := s.ctr.slots.map fun x => ⟨x.gen, none⟩ }
          lch := { cache := [], templates := (List.range 8).map fun i =>
            ⟨decide (32768 ≤ word (41 + 6 * i)), ⟨BitVec.ofNat 6 (word (41 + 6 * i)), pair (42 + 6 * i)⟩,
              ⟨BitVec.ofNat 6 (word (44 + 6 * i)), pair (45 + 6 * i)⟩⟩ }
          bus := ⟨.hunt, [], [], 0, 0, false, false, true, true⟩
          pse := ⟨[], .idle, 0⟩
          ros := ⟨(List.replicate 62 ⟨.absent, none⟩).set (g.station.toNat - 1) ⟨.self, none⟩, 0, 0⟩
          req := {
            engine := .idle, play := ⟨.unknown, 0, 0, 0, 0, 0, 0, 0, 0, .unknown⟩, refusal := none, acceptDue := false
            aborting := false, depths := [], plan := none, issue := []
            fetches := if cold then List.replicate 16 ⟨0, none⟩ else s.req.fetches.map fun x => ⟨x.gen, none⟩
            lastGiven := if cold then 15 else s.req.lastGiven, localOrder := [], localEval := .idle, emitDepth := 0, emitIndex := 0
            counts := [0, 0, 0, 0, 0]
            queries := if cold then List.replicate 8 ⟨0, none⟩ else s.req.queries.map fun x => ⟨x.gen, none⟩
            walk := ⟨0, [], 0, false, 0⟩, collector := ⟨if cold then 0 else s.req.collector.gen, .idle, 0, 0, 0, []⟩
            listing := [], emitted := 0 }
          con := ⟨none, none, none, []⟩
          sup := { s.sup with
            part := .checking, retention := true, checksum, coldStart := cold
            fault := if 0 < faults then some ⟨.config, .sup, none, none, 0⟩ else if cold then none else s.sup.fault
            faultCount := if counted < 65535 then min (counted + faults) 65535 else counted
            markBad := !cold && s.sup.markBad, markService := !cold && s.sup.markService, markLf := !cold && s.sup.markLf }
          freeSeq := s.freeSeq
          pending := s.pending } ∧
        g = { station := BitVec.ofNat 6 (word 1), busRate := BitVec.ofNat 2 (word 2), lfRate := BitVec.ofNat 2 (word 2 / 4)
              timeSource := decide (word 2 / 16 % 2 = 1), pulseWeight := clamp 1 65535 (word 3)
              standstillTime := clamp 100 60000 (word 4), finalHours := clamp 1 24 (word 5), replyTimeout := clamp 10 1000 (word 6)
              retryLimit := word 7 % 4, storeCode := clamp 0 2 (word 7 / 256 % 4), queueWait := clamp 50 2000 (word 8)
              channels := g.channels, tableLoaded := true } ∧
        (g.channels.map (·.index)).Pairwise (· < ·) ∧
        (∀ d, d ∈ g.channels ↔ d.index < 32 ∧ 0 < d.quantity ∧ d.stepCode ≤ 7 ∧ word (9 + d.index) = d.quantity * 256 + d.stepCode ∧
          ∀ e ∈ g.channels, e.index < d.index → e.quantity ≠ d.quantity) ∧
        tsc = if cold = false ∧ s.tsc.intact = true then
            { s.tsc with
              ring := match s.tsc.testMark with
                | none => s.tsc.ring
                | some (slot, page) => s.tsc.ring.map fun e => if e.1 = slot then (slot, page) else e
              transfer := none, mark := .localEval, storeFault := false, testMark := none }
          else {
            ring := [], writePtr := 0, flush := [], transfer := none, mark := .localEval, storeFault := false, intact := true
            testMark := none
            chans := g.channels.map fun d =>
              ⟨d.index, [], odometer / d.step, ⟨d.index, odometer / d.step / 64, odometer / d.step, []⟩⟩ })) ∧
    (s.sup.part = .checking →
      let start (fault : Bool) : TxEntry := ⟨⟨.presence, 63, 0,
        BitVec.ofNat 8 ((if s.sup.coldStart then 2 else 0) + if fault then 4 else 0) ::
          s.settings.channels.map fun d => BitVec.ofNat 8 d.quantity⟩, .rosStart, 0, 0, false, false⟩
      let tested (i : BitVec 20) : Prop :=
        slotCount s.settings.storeCode - 16 ≤ i.toNat ∧ i.toNat < slotCount s.settings.storeCode
      let slot (r : TestRead) : BitVec 20 := match r with
        | .address i _ _ | .complement i _ _ | .restored i _ => i
      let differs (r : TestRead) : Prop := match r with
        | .address i address read => tested i ∧ read ≠ BitVec.ofNat 16 address
        | .complement i address read => tested i ∧ read ≠ ~~~ BitVec.ofNat 16 address
        | .restored i same => tested i ∧ (ringAt s.tsc.ring i.toNat).isSome ∧ same = false
      ∀ reads : List TestRead,
        ((∀ r ∈ reads, ¬ differs r) → next (.selfTestComplete reads) { s with
          tsc := { s.tsc with storeFault := false }, sup := { s.sup with part := .run }
          bus := { s.bus with rx := .hunt, queue := s.bus.queue ++ [start false] } }) ∧
        ∀ pre r post, reads = pre ++ r :: post → (∀ x ∈ pre, ¬ differs x) → differs r →
          next (.selfTestComplete reads) { s with
            tsc := { s.tsc with
              ring := [], flush := [], transfer := none, storeFault := true
              testMark := (ringAt s.tsc.ring (slot r).toNat).map fun p => ((slot r).toNat, p)
              chans := s.settings.channels.map fun d =>
                ⟨d.index, [], s.smp.odometer / d.step, ⟨d.index, s.smp.odometer / d.step / 64, s.smp.odometer / d.step, []⟩⟩ }
            sup := { s.sup with
              part := .runDegraded, fault := some ⟨.storeFault, .tsc, none, none, s.ros.clock⟩
              faultCount := if s.sup.faultCount < 65535 then s.sup.faultCount + 1 else s.sup.faultCount }
            bus := { s.bus with rx := .hunt, queue := s.bus.queue ++ [start true] } })

/-- The reset input and the supply (R31, R34, R35, R94, R104, R116, R128, R144, R157, R164, R171, R173, R177, R182): asserting reset
holds the part in reset, its bus, service, requests and console empty, every slot and the collector idle under its generation, and
leaves all else as it was: the retained contents, the store-intact mark, the test mark and the test buffer among them. In CHECKING a
live slot that the self-test has in hand is noted in the test mark, its page in the test buffer. The release begins a settle count,
every block leaving its running work as at the assertion. While the input is held, and in a settle count or SUPPLY-LOW, no pulse, line
feed byte, console byte or bus bit is taken; in CONFIG-FAULT, LOADING and CHECKING none but console bytes (R170, R177, R178, R182).
Below the operating threshold the part is in SUPPLY-LOW with its fault, the store-intact mark clear and the page contents lost, all
else as after a reset; the test mark and test buffer stay as they are, also where a self-test is cut off in a live slot (the model's
choice, assumption 49), and there the reset input moves its level alone. Below the retention threshold every retained content is lost,
and the values of power-on stand. Recovery begins a settle count. The model's choices in this: the console is emptied at the assertion
(assumption 27), the values after a retention loss are those of power-on (assumption 30), a release without an assertion has no effect
(assumption 16), and an input held through SUPPLY-LOW leaves recovery its settle count, the part taking nothing until the release begins
another (assumption 31). -/
def Obligations.ResetAndSupply : Prop :=
  ∀ s : State,
    let next (c : Instr) (u : State) : Prop := ∃ t, exec c s = .next t ∧ Carried u t
    let left (tsc : Tsc) (sup : Sup) : State := { s with
      bus := { s.bus with rx := .hunt, queue := [], waiting := [], driven := true }
      pse := { s.pse with service := [], engine := .idle }
      req := { s.req with
        engine := .idle, play := ⟨.unknown, 0, 0, 0, 0, 0, 0, 0, 0, .unknown⟩, refusal := none, acceptDue := false, aborting := false
        depths := [], plan := none, issue := [], localOrder := [], localEval := .idle, emitDepth := 0, emitIndex := 0
        counts := [0, 0, 0, 0, 0], walk := ⟨0, [], 0, false, 0⟩, listing := [], emitted := 0
        queries := s.req.queries.map fun x => ⟨x.gen, none⟩
        fetches := s.req.fetches.map fun x => ⟨x.gen, none⟩
        collector := ⟨s.req.collector.gen, .idle, 0, 0, 0, []⟩ }
      con := ⟨none, none, none, []⟩
      lfr := { s.lfr with assembler := [] }
      tsc := { tsc with transfer := none }
      sup }
    let held : Sup := { s.sup with part := .resetHeld, resetPin := true }
    let inHand (slot : BitVec 20) (p : Page) : Prop := s.sup.part = .checking ∧ slotCount s.settings.storeCode - 16 ≤ slot.toNat ∧
      slot.toNat < slotCount s.settings.storeCode ∧ ringAt s.tsc.ring slot.toNat = some p
    (s.sup.part ≠ .supplyLow → ∀ testing : Option (BitVec 20), (∀ slot p, testing = some slot → ¬ inHand slot p) →
      next (.externalResetAssert testing) (left s.tsc held)) ∧
    (∀ slot p, inHand slot p → ∃ ring : List (Nat × Page),
      next (.externalResetAssert (some slot)) (left { s.tsc with ring, testMark := some (slot.toNat, p) } held) ∧
        ring.map Prod.fst = s.tsc.ring.map Prod.fst ∧ ∀ n, n ≠ slot.toNat → ringAt ring n = ringAt s.tsc.ring n) ∧
    (s.sup.part = .supplyLow → ∀ testing,
      next (.externalResetAssert testing) { s with sup := { s.sup with resetPin := true } }) ∧
    (s.sup.resetPin = true → s.sup.part ≠ .supplyLow →
      next .externalResetRelease (left s.tsc { s.sup with part := .settling, resetPin := false })) ∧
    (s.sup.resetPin = true → s.sup.part = .supplyLow →
      next .externalResetRelease { s with sup := { s.sup with resetPin := false } }) ∧
    (s.sup.resetPin = false → next .externalResetRelease s) ∧
    (s.sup.resetPin = true ∨ s.sup.part ≠ .run ∧ s.sup.part ≠ .runDegraded →
      ∀ c : Instr, fromPlant c = true → next c s) ∧
    (s.sup.resetPin = true ∨ s.sup.part = .settling ∨ s.sup.part = .resetHeld ∨ s.sup.part = .supplyLow →
      ∀ c : Instr, fromDesk c = true → next c s) ∧
    (s.sup.monitor = .above → ∃ ring : List (Nat × Page), ring.map Prod.fst = s.tsc.ring.map Prod.fst ∧
      next .supplyLow (left { s.tsc with ring, intact := false } { s.sup with
        part := .supplyLow, monitor := .between
        fault := some ⟨.supplyLow, .sup, none, some s.smp.odometer, s.ros.clock⟩
        faultCount := if s.sup.faultCount < 65535 then s.sup.faultCount + 1 else s.sup.faultCount })) ∧
    (s.sup.monitor = .between → next .retentionLoss { State.reset with
      freeSeq := s.freeSeq, pending := s.pending
      sup := { State.reset.sup with part := .supplyLow, monitor := .below, resetPin := s.sup.resetPin } }) ∧
    (s.sup.monitor ≠ .above → next .supplyRecovery { s with sup := { s.sup with
      part := .settling, monitor := .above } })

/-! ### What every step keeps -/

/-- Every command leaves the capacities and ranges as R1 to R3, R8, R23, R36, R84, R87, R90, R102, R124, R163, R173 and R176 give them,
the transmit queue empty in a part that does not run (R94), and the part in SUPPLY-LOW exactly below the operating threshold (R182). -/
def Obligations.StepKeepsBounds : Prop :=
  ∀ s t : State, s.Bounded → step s = .next t → t.Bounded

/-- Every command leaves the tables of the tracker, the lineage cache, the slots of the page ring and the open bins in form (R12, R13,
R19, R38, R43, R51, R52, R71, R76): at most one RUNNING record, no coil number twice among the exit records or in the cache, no record
of the own station in the cache, every sum between its count times least and greatest value.
Within the bounds of `StepKeepsBounds` every command leaves the event positions in order (R37, R43, R44, R48): the last one not above
the odometer, the entry intervals one after the other and not past it.
Within those bounds every command leaves the trend store in form (R18 to R24, R26, R31 to R35, `State.StoreSound`): channels ascending,
the live slots exactly those the directories name, each channel's bins exactly those from its horizon to its open bin. The image of a
warm start is that of the start before (R34): one that has the kept checksum has the kept channel table and store size. -/
def Obligations.StepKeepsTables : Prop :=
  (∀ s t : State, s.ctr.Sound → s.CacheSound → ringWf s.tsc.ring = true → (∀ c ∈ s.smp.chans, c.acc.Sound) →
    step s = .next t → t.ctr.Sound ∧ t.CacheSound ∧ ringWf t.tsc.ring = true ∧ ∀ c ∈ t.smp.chans, c.acc.Sound) ∧
  (∀ s t : State, s.Bounded → s.lfr.lastPos ≤ s.smp.odometer → s.ctr.Ordered s.lfr.lastPos → step s = .next t →
    t.lfr.lastPos ≤ t.smp.odometer ∧ t.ctr.Ordered t.lfr.lastPos) ∧
  ∀ s t : State, s.Bounded → s.StoreSound →
    (∀ image rest, s.pending = .configLoad image :: rest → s.sup.retention = true → s.sup.checksum = imageChecksum image →
      (imageSettings image).channels = s.settings.channels ∧ (imageSettings image).storeCode = s.settings.storeCode) →
    step s = .next t → t.StoreSound

/-- Every command leaves a MUTED part without a frame to send but its final PRESENCE, MUTED clear in CHECKING, and at most one frame of
this station on the line, none while the receiver is IDLE (R85, R94, R97, R98). -/
def Obligations.StepKeepsSilence : Prop :=
  ∀ s t : State, s.MutedSilent → s.bus.OneOnLine → step s = .next t → t.MutedSilent ∧ t.bus.OneOnLine

/-- The state right after reset has every form that the steps keep; that the cold values stand there already is the model's choice
(assumption 2). -/
def Obligations.ResetHasForms : Prop :=
  State.reset.Bounded ∧ State.reset.ctr.Sound ∧ State.reset.CacheSound ∧ ringWf State.reset.tsc.ring = true ∧
    (∀ c ∈ State.reset.smp.chans, c.acc.Sound) ∧ State.reset.lfr.lastPos ≤ State.reset.smp.odometer ∧
    State.reset.ctr.Ordered State.reset.lfr.lastPos ∧ State.reset.StoreSound ∧ State.reset.MutedSilent ∧ State.reset.bus.OneOnLine

end
end

