-- ==== Sys2Proof/Laws/State.lean ====
section
/-! SUPPORT. One lemma for each field of State under each named update, true by unfolding. -/

namespace Sys2Proof.Machine

@[simp] theorem State.setReq_settings (s : State) (f : Req → Req) : (s.setReq f).settings = s.settings := rfl
@[simp] theorem State.setReq_smp (s : State) (f : Req → Req) : (s.setReq f).smp = s.smp := rfl
@[simp] theorem State.setReq_tsc (s : State) (f : Req → Req) : (s.setReq f).tsc = s.tsc := rfl
@[simp] theorem State.setReq_lfr (s : State) (f : Req → Req) : (s.setReq f).lfr = s.lfr := rfl
@[simp] theorem State.setReq_ctr (s : State) (f : Req → Req) : (s.setReq f).ctr = s.ctr := rfl
@[simp] theorem State.setReq_lch (s : State) (f : Req → Req) : (s.setReq f).lch = s.lch := rfl
@[simp] theorem State.setReq_bus (s : State) (f : Req → Req) : (s.setReq f).bus = s.bus := rfl
@[simp] theorem State.setReq_pse (s : State) (f : Req → Req) : (s.setReq f).pse = s.pse := rfl
@[simp] theorem State.setReq_ros (s : State) (f : Req → Req) : (s.setReq f).ros = s.ros := rfl
@[simp] theorem State.setReq_req (s : State) (f : Req → Req) : (s.setReq f).req = f s.req := rfl
@[simp] theorem State.setReq_con (s : State) (f : Req → Req) : (s.setReq f).con = s.con := rfl
@[simp] theorem State.setReq_sup (s : State) (f : Req → Req) : (s.setReq f).sup = s.sup := rfl
@[simp] theorem State.setReq_freeSeq (s : State) (f : Req → Req) : (s.setReq f).freeSeq = s.freeSeq := rfl
@[simp] theorem State.setReq_pending (s : State) (f : Req → Req) : (s.setReq f).pending = s.pending := rfl

@[simp] theorem State.setPse_settings (s : State) (f : Pse → Pse) : (s.setPse f).settings = s.settings := rfl
@[simp] theorem State.setPse_smp (s : State) (f : Pse → Pse) : (s.setPse f).smp = s.smp := rfl
@[simp] theorem State.setPse_tsc (s : State) (f : Pse → Pse) : (s.setPse f).tsc = s.tsc := rfl
@[simp] theorem State.setPse_lfr (s : State) (f : Pse → Pse) : (s.setPse f).lfr = s.lfr := rfl
@[simp] theorem State.setPse_ctr (s : State) (f : Pse → Pse) : (s.setPse f).ctr = s.ctr := rfl
@[simp] theorem State.setPse_lch (s : State) (f : Pse → Pse) : (s.setPse f).lch = s.lch := rfl
@[simp] theorem State.setPse_bus (s : State) (f : Pse → Pse) : (s.setPse f).bus = s.bus := rfl
@[simp] theorem State.setPse_pse (s : State) (f : Pse → Pse) : (s.setPse f).pse = f s.pse := rfl
@[simp] theorem State.setPse_ros (s : State) (f : Pse → Pse) : (s.setPse f).ros = s.ros := rfl
@[simp] theorem State.setPse_req (s : State) (f : Pse → Pse) : (s.setPse f).req = s.req := rfl
@[simp] theorem State.setPse_con (s : State) (f : Pse → Pse) : (s.setPse f).con = s.con := rfl
@[simp] theorem State.setPse_sup (s : State) (f : Pse → Pse) : (s.setPse f).sup = s.sup := rfl
@[simp] theorem State.setPse_freeSeq (s : State) (f : Pse → Pse) : (s.setPse f).freeSeq = s.freeSeq := rfl
@[simp] theorem State.setPse_pending (s : State) (f : Pse → Pse) : (s.setPse f).pending = s.pending := rfl

@[simp] theorem State.setCon_settings (s : State) (f : Con → Con) : (s.setCon f).settings = s.settings := rfl
@[simp] theorem State.setCon_smp (s : State) (f : Con → Con) : (s.setCon f).smp = s.smp := rfl
@[simp] theorem State.setCon_tsc (s : State) (f : Con → Con) : (s.setCon f).tsc = s.tsc := rfl
@[simp] theorem State.setCon_lfr (s : State) (f : Con → Con) : (s.setCon f).lfr = s.lfr := rfl
@[simp] theorem State.setCon_ctr (s : State) (f : Con → Con) : (s.setCon f).ctr = s.ctr := rfl
@[simp] theorem State.setCon_lch (s : State) (f : Con → Con) : (s.setCon f).lch = s.lch := rfl
@[simp] theorem State.setCon_bus (s : State) (f : Con → Con) : (s.setCon f).bus = s.bus := rfl
@[simp] theorem State.setCon_pse (s : State) (f : Con → Con) : (s.setCon f).pse = s.pse := rfl
@[simp] theorem State.setCon_ros (s : State) (f : Con → Con) : (s.setCon f).ros = s.ros := rfl
@[simp] theorem State.setCon_req (s : State) (f : Con → Con) : (s.setCon f).req = s.req := rfl
@[simp] theorem State.setCon_con (s : State) (f : Con → Con) : (s.setCon f).con = f s.con := rfl
@[simp] theorem State.setCon_sup (s : State) (f : Con → Con) : (s.setCon f).sup = s.sup := rfl
@[simp] theorem State.setCon_freeSeq (s : State) (f : Con → Con) : (s.setCon f).freeSeq = s.freeSeq := rfl
@[simp] theorem State.setCon_pending (s : State) (f : Con → Con) : (s.setCon f).pending = s.pending := rfl

@[simp] theorem State.setWalk_settings (s : State) (f : Walk → Walk) : (s.setWalk f).settings = s.settings := rfl
@[simp] theorem State.setWalk_smp (s : State) (f : Walk → Walk) : (s.setWalk f).smp = s.smp := rfl
@[simp] theorem State.setWalk_tsc (s : State) (f : Walk → Walk) : (s.setWalk f).tsc = s.tsc := rfl
@[simp] theorem State.setWalk_lfr (s : State) (f : Walk → Walk) : (s.setWalk f).lfr = s.lfr := rfl
@[simp] theorem State.setWalk_ctr (s : State) (f : Walk → Walk) : (s.setWalk f).ctr = s.ctr := rfl
@[simp] theorem State.setWalk_lch (s : State) (f : Walk → Walk) : (s.setWalk f).lch = s.lch := rfl
@[simp] theorem State.setWalk_bus (s : State) (f : Walk → Walk) : (s.setWalk f).bus = s.bus := rfl
@[simp] theorem State.setWalk_pse (s : State) (f : Walk → Walk) : (s.setWalk f).pse = s.pse := rfl
@[simp] theorem State.setWalk_ros (s : State) (f : Walk → Walk) : (s.setWalk f).ros = s.ros := rfl
@[simp] theorem State.setWalk_req (s : State) (f : Walk → Walk) : (s.setWalk f).req = { s.req with walk := f s.req.walk } := rfl
@[simp] theorem State.setWalk_con (s : State) (f : Walk → Walk) : (s.setWalk f).con = s.con := rfl
@[simp] theorem State.setWalk_sup (s : State) (f : Walk → Walk) : (s.setWalk f).sup = s.sup := rfl
@[simp] theorem State.setWalk_freeSeq (s : State) (f : Walk → Walk) : (s.setWalk f).freeSeq = s.freeSeq := rfl
@[simp] theorem State.setWalk_pending (s : State) (f : Walk → Walk) : (s.setWalk f).pending = s.pending := rfl

@[simp] theorem State.setCollector_settings (s : State) (f : Collector → Collector) : (s.setCollector f).settings = s.settings := rfl
@[simp] theorem State.setCollector_smp (s : State) (f : Collector → Collector) : (s.setCollector f).smp = s.smp := rfl
@[simp] theorem State.setCollector_tsc (s : State) (f : Collector → Collector) : (s.setCollector f).tsc = s.tsc := rfl
@[simp] theorem State.setCollector_lfr (s : State) (f : Collector → Collector) : (s.setCollector f).lfr = s.lfr := rfl
@[simp] theorem State.setCollector_ctr (s : State) (f : Collector → Collector) : (s.setCollector f).ctr = s.ctr := rfl
@[simp] theorem State.setCollector_lch (s : State) (f : Collector → Collector) : (s.setCollector f).lch = s.lch := rfl
@[simp] theorem State.setCollector_bus (s : State) (f : Collector → Collector) : (s.setCollector f).bus = s.bus := rfl
@[simp] theorem State.setCollector_pse (s : State) (f : Collector → Collector) : (s.setCollector f).pse = s.pse := rfl
@[simp] theorem State.setCollector_ros (s : State) (f : Collector → Collector) : (s.setCollector f).ros = s.ros := rfl
@[simp] theorem State.setCollector_req (s : State) (f : Collector → Collector) : (s.setCollector f).req = { s.req with collector := f s.req.collector } := rfl
@[simp] theorem State.setCollector_con (s : State) (f : Collector → Collector) : (s.setCollector f).con = s.con := rfl
@[simp] theorem State.setCollector_sup (s : State) (f : Collector → Collector) : (s.setCollector f).sup = s.sup := rfl
@[simp] theorem State.setCollector_freeSeq (s : State) (f : Collector → Collector) : (s.setCollector f).freeSeq = s.freeSeq := rfl
@[simp] theorem State.setCollector_pending (s : State) (f : Collector → Collector) : (s.setCollector f).pending = s.pending := rfl

@[simp] theorem State.offer_settings (f : Frame) (o : Owner) (s : State) : (s.offer f o).settings = s.settings := rfl
@[simp] theorem State.offer_smp (f : Frame) (o : Owner) (s : State) : (s.offer f o).smp = s.smp := rfl
@[simp] theorem State.offer_tsc (f : Frame) (o : Owner) (s : State) : (s.offer f o).tsc = s.tsc := rfl
@[simp] theorem State.offer_lfr (f : Frame) (o : Owner) (s : State) : (s.offer f o).lfr = s.lfr := rfl
@[simp] theorem State.offer_ctr (f : Frame) (o : Owner) (s : State) : (s.offer f o).ctr = s.ctr := rfl
@[simp] theorem State.offer_lch (f : Frame) (o : Owner) (s : State) : (s.offer f o).lch = s.lch := rfl
@[simp] theorem State.offer_bus (f : Frame) (o : Owner) (s : State) : (s.offer f o).bus = { s.bus with waiting := s.bus.waiting ++ [.fresh f o] } := rfl
@[simp] theorem State.offer_pse (f : Frame) (o : Owner) (s : State) : (s.offer f o).pse = s.pse := rfl
@[simp] theorem State.offer_ros (f : Frame) (o : Owner) (s : State) : (s.offer f o).ros = s.ros := rfl
@[simp] theorem State.offer_req (f : Frame) (o : Owner) (s : State) : (s.offer f o).req = s.req := rfl
@[simp] theorem State.offer_con (f : Frame) (o : Owner) (s : State) : (s.offer f o).con = s.con := rfl
@[simp] theorem State.offer_sup (f : Frame) (o : Owner) (s : State) : (s.offer f o).sup = s.sup := rfl
@[simp] theorem State.offer_freeSeq (f : Frame) (o : Owner) (s : State) : (s.offer f o).freeSeq = s.freeSeq := rfl
@[simp] theorem State.offer_pending (f : Frame) (o : Owner) (s : State) : (s.offer f o).pending = s.pending := rfl

@[simp] theorem State.withdraw_settings (m : Owner → Bool) (s : State) : (s.withdraw m).settings = s.settings := rfl
@[simp] theorem State.withdraw_smp (m : Owner → Bool) (s : State) : (s.withdraw m).smp = s.smp := rfl
@[simp] theorem State.withdraw_tsc (m : Owner → Bool) (s : State) : (s.withdraw m).tsc = s.tsc := rfl
@[simp] theorem State.withdraw_lfr (m : Owner → Bool) (s : State) : (s.withdraw m).lfr = s.lfr := rfl
@[simp] theorem State.withdraw_ctr (m : Owner → Bool) (s : State) : (s.withdraw m).ctr = s.ctr := rfl
@[simp] theorem State.withdraw_lch (m : Owner → Bool) (s : State) : (s.withdraw m).lch = s.lch := rfl
@[simp] theorem State.withdraw_pse (m : Owner → Bool) (s : State) : (s.withdraw m).pse = s.pse := rfl
@[simp] theorem State.withdraw_ros (m : Owner → Bool) (s : State) : (s.withdraw m).ros = s.ros := rfl
@[simp] theorem State.withdraw_req (m : Owner → Bool) (s : State) : (s.withdraw m).req = s.req := rfl
@[simp] theorem State.withdraw_con (m : Owner → Bool) (s : State) : (s.withdraw m).con = s.con := rfl
@[simp] theorem State.withdraw_sup (m : Owner → Bool) (s : State) : (s.withdraw m).sup = s.sup := rfl
@[simp] theorem State.withdraw_freeSeq (m : Owner → Bool) (s : State) : (s.withdraw m).freeSeq = s.freeSeq := rfl
@[simp] theorem State.withdraw_pending (m : Owner → Bool) (s : State) : (s.withdraw m).pending = s.pending := rfl

@[simp] theorem State.removeTx_settings (j : Nat) (s : State) : (s.removeTx j).settings = s.settings := rfl
@[simp] theorem State.removeTx_smp (j : Nat) (s : State) : (s.removeTx j).smp = s.smp := rfl
@[simp] theorem State.removeTx_tsc (j : Nat) (s : State) : (s.removeTx j).tsc = s.tsc := rfl
@[simp] theorem State.removeTx_lfr (j : Nat) (s : State) : (s.removeTx j).lfr = s.lfr := rfl
@[simp] theorem State.removeTx_ctr (j : Nat) (s : State) : (s.removeTx j).ctr = s.ctr := rfl
@[simp] theorem State.removeTx_lch (j : Nat) (s : State) : (s.removeTx j).lch = s.lch := rfl
@[simp] theorem State.removeTx_bus (j : Nat) (s : State) : (s.removeTx j).bus = { s.bus with queue := s.bus.queue.eraseIdx j } := rfl
@[simp] theorem State.removeTx_pse (j : Nat) (s : State) : (s.removeTx j).pse = s.pse := rfl
@[simp] theorem State.removeTx_ros (j : Nat) (s : State) : (s.removeTx j).ros = s.ros := rfl
@[simp] theorem State.removeTx_req (j : Nat) (s : State) : (s.removeTx j).req = s.req := rfl
@[simp] theorem State.removeTx_con (j : Nat) (s : State) : (s.removeTx j).con = s.con := rfl
@[simp] theorem State.removeTx_sup (j : Nat) (s : State) : (s.removeTx j).sup = s.sup := rfl
@[simp] theorem State.removeTx_freeSeq (j : Nat) (s : State) : (s.removeTx j).freeSeq = s.freeSeq := rfl
@[simp] theorem State.removeTx_pending (j : Nat) (s : State) : (s.removeTx j).pending = s.pending := rfl

@[simp] theorem State.emit_settings (r : Response) (s : State) : (s.emit r).settings = s.settings := rfl
@[simp] theorem State.emit_smp (r : Response) (s : State) : (s.emit r).smp = s.smp := rfl
@[simp] theorem State.emit_tsc (r : Response) (s : State) : (s.emit r).tsc = s.tsc := rfl
@[simp] theorem State.emit_lfr (r : Response) (s : State) : (s.emit r).lfr = s.lfr := rfl
@[simp] theorem State.emit_ctr (r : Response) (s : State) : (s.emit r).ctr = s.ctr := rfl
@[simp] theorem State.emit_lch (r : Response) (s : State) : (s.emit r).lch = s.lch := rfl
@[simp] theorem State.emit_bus (r : Response) (s : State) : (s.emit r).bus = s.bus := rfl
@[simp] theorem State.emit_pse (r : Response) (s : State) : (s.emit r).pse = s.pse := rfl
@[simp] theorem State.emit_ros (r : Response) (s : State) : (s.emit r).ros = s.ros := rfl
@[simp] theorem State.emit_req (r : Response) (s : State) : (s.emit r).req = s.req := rfl
@[simp] theorem State.emit_con (r : Response) (s : State) : (s.emit r).con = { s.con with out := s.con.out ++ [r] } := rfl
@[simp] theorem State.emit_sup (r : Response) (s : State) : (s.emit r).sup = s.sup := rfl
@[simp] theorem State.emit_freeSeq (r : Response) (s : State) : (s.emit r).freeSeq = s.freeSeq := rfl
@[simp] theorem State.emit_pending (r : Response) (s : State) : (s.emit r).pending = s.pending := rfl

@[simp] theorem State.writeFault_settings (k : FaultKind) (b : Block) (c : Option Coil) (o : Option Nat) (s : State) : (s.writeFault k b c o).settings = s.settings := rfl
@[simp] theorem State.writeFault_smp (k : FaultKind) (b : Block) (c : Option Coil) (o : Option Nat) (s : State) : (s.writeFault k b c o).smp = s.smp := rfl
@[simp] theorem State.writeFault_tsc (k : FaultKind) (b : Block) (c : Option Coil) (o : Option Nat) (s : State) : (s.writeFault k b c o).tsc = s.tsc := rfl
@[simp] theorem State.writeFault_lfr (k : FaultKind) (b : Block) (c : Option Coil) (o : Option Nat) (s : State) : (s.writeFault k b c o).lfr = s.lfr := rfl
@[simp] theorem State.writeFault_ctr (k : FaultKind) (b : Block) (c : Option Coil) (o : Option Nat) (s : State) : (s.writeFault k b c o).ctr = s.ctr := rfl
@[simp] theorem State.writeFault_lch (k : FaultKind) (b : Block) (c : Option Coil) (o : Option Nat) (s : State) : (s.writeFault k b c o).lch = s.lch := rfl
@[simp] theorem State.writeFault_bus (k : FaultKind) (b : Block) (c : Option Coil) (o : Option Nat) (s : State) : (s.writeFault k b c o).bus = s.bus := rfl
@[simp] theorem State.writeFault_pse (k : FaultKind) (b : Block) (c : Option Coil) (o : Option Nat) (s : State) : (s.writeFault k b c o).pse = s.pse := rfl
@[simp] theorem State.writeFault_ros (k : FaultKind) (b : Block) (c : Option Coil) (o : Option Nat) (s : State) : (s.writeFault k b c o).ros = s.ros := rfl
@[simp] theorem State.writeFault_req (k : FaultKind) (b : Block) (c : Option Coil) (o : Option Nat) (s : State) : (s.writeFault k b c o).req = s.req := rfl
@[simp] theorem State.writeFault_con (k : FaultKind) (b : Block) (c : Option Coil) (o : Option Nat) (s : State) : (s.writeFault k b c o).con = s.con := rfl
@[simp] theorem State.writeFault_freeSeq (k : FaultKind) (b : Block) (c : Option Coil) (o : Option Nat) (s : State) : (s.writeFault k b c o).freeSeq = s.freeSeq := rfl
@[simp] theorem State.writeFault_pending (k : FaultKind) (b : Block) (c : Option Coil) (o : Option Nat) (s : State) : (s.writeFault k b c o).pending = s.pending := rfl

/-- A fault write replaces the record, raises the count and leaves the rest of SUP alone (R176). -/
theorem State.writeFault_sup (k : FaultKind) (b : Block) (c : Option Coil) (o : Option Nat) (s : State) :
    (s.writeFault k b c o).sup = { s.sup with fault := some ⟨k, b, c, o, s.ros.clock⟩,
                                              faultCount := satSucc Config.max16 s.sup.faultCount } := rfl

/-- When the part takes pulses, line feed bytes and bus bits (R177). -/
theorem State.receives_iff (s : State) : s.receives = true ↔ s.running = true ∧ s.sup.resetPin = false := by
  simp [State.receives]

/-- When the part takes console bytes (R170, R177). -/
theorem State.linkRuns_iff (s : State) : s.linkRuns = true ↔ s.sup.part.linkRuns = true ∧ s.sup.resetPin = false := by
  simp [State.linkRuns]

/-- A part that takes its inputs runs (R177). -/
theorem State.running_of_receives {s : State} (h : s.receives = true) : s.running = true := (s.receives_iff.1 h).1

/-- In a part that takes bus bits the console link runs (R170, R177). -/
theorem State.linkRuns_of_receives {s : State} (h : s.receives = true) : s.linkRuns = true := by
  obtain ⟨hr, hp⟩ := s.receives_iff.1 h
  refine s.linkRuns_iff.2 ⟨?_, hp⟩
  unfold State.running at hr
  cases hs : s.sup.part <;> rw [hs] at hr <;> first | rfl | cases hr

end Sys2Proof.Machine
end

