-- ==== Sys2Proof/Laws/Kept.lean ====
section
/-! SUPPORT. What the blocks leave alone while they go on by themselves: `Kept` for each shared operation of a micro step. -/

namespace Sys2Proof.Machine

theorem Kept.refl (s : State) : Kept s s := by
  constructor <;> first | rfl | exact fun _ => rfl | exact fun e h _ => ⟨e, h, rfl, rfl⟩

theorem Kept.trans {s u t : State} (h : Kept s u) (k : Kept u t) : Kept s t where
  settings := k.settings.trans h.settings
  smp := k.smp.trans h.smp
  lfr := k.lfr.trans h.lfr
  ros := k.ros.trans h.ros
  sup := k.sup.trans h.sup
  pending := k.pending.trans h.pending
  segStart := k.segStart.trans h.segStart
  decls := k.decls.trans h.decls
  entries := k.entries.trans h.entries
  exits := k.exits.trans h.exits
  templates := k.templates.trans h.templates
  cache := fun c => (k.cache c).trans (h.cache c)
  badFrames := k.badFrames.trans h.badFrames
  collisions := k.collisions.trans h.collisions
  stuck := k.stuck.trans h.stuck
  muted := k.muted.trans h.muted
  drops := k.drops.trans h.drops
  flush := k.flush.trans h.flush
  current := k.current.trans h.current
  writePtr := k.writePtr.trans h.writePtr
  storeFault := k.storeFault.trans h.storeFault
  intact := k.intact.trans h.intact
  testMark := k.testMark.trans h.testMark
  frames := fun e he ho => by
    obtain ⟨e1, m1, f1, o1⟩ := h.frames e he ho
    obtain ⟨e2, m2, f2, o2⟩ := k.frames e1 m1 (o1 ▸ ho)
    exact ⟨e2, m2, f2.trans f1, o2.trans o1⟩
  out := h.out.trans k.out

/-! ### Updates of one block -/

theorem kept_req (s : State) (r : Req) : Kept s { s with req := r } := by
  constructor <;> first | rfl | exact fun _ => rfl | exact fun e h _ => ⟨e, h, rfl, rfl⟩

theorem State.setReq_kept (s : State) (f : Req → Req) : Kept s (s.setReq f) := kept_req s _

theorem State.setWalk_kept (s : State) (f : Walk → Walk) : Kept s (s.setWalk f) := kept_req s _

theorem State.setCollector_kept (s : State) (f : Collector → Collector) : Kept s (s.setCollector f) := kept_req s _

theorem State.setPse_kept (s : State) (f : Pse → Pse) (h : (f s.pse).drops = s.pse.drops) : Kept s (s.setPse f) := by
  constructor <;> first | rfl | exact h | exact fun _ => rfl | exact fun e h _ => ⟨e, h, rfl, rfl⟩

/-- A change of CON and the free-level index that only lengthens the output queue. -/
theorem kept_con (s : State) (c : Con) (n : Nat) (h : s.con.out <+: c.out) : Kept s { s with con := c, freeSeq := n } := by
  constructor <;> first | rfl | exact fun _ => rfl | exact fun e h _ => ⟨e, h, rfl, rfl⟩ | exact h

/-- A change of CTR that only moves length-query states, slots and announce-pending marks. -/
theorem kept_ctr (s : State) (c : Ctr) (h1 : c.segStart = s.ctr.segStart) (h2 : c.decls.map Decl.told = s.ctr.decls.map Decl.told)
    (h3 : c.entries.map Entry.told = s.ctr.entries.map Entry.told)
    (h4 : c.exits.map ExitRec.unmarked = s.ctr.exits.map ExitRec.unmarked) : Kept s { s with ctr := c } := by
  constructor <;> first | rfl | exact h1 | exact h2 | exact h3 | exact h4 | exact fun _ => rfl
                        | exact fun e h _ => ⟨e, h, rfl, rfl⟩

/-- A change of the transmit queue and waiting frames that keeps every frame not of REQ. -/
theorem kept_bus (s : State) (b : Bus) (h1 : b.badFrames = s.bus.badFrames) (h2 : b.collisions = s.bus.collisions)
    (h3 : b.stuck = s.bus.stuck) (h4 : b.muted = s.bus.muted)
    (h5 : ∀ e ∈ s.bus.queue ++ s.bus.waiting, e.owner.ofReq = false →
      ∃ e' ∈ b.queue ++ b.waiting, e'.frame = e.frame ∧ e'.owner = e.owner) : Kept s { s with bus := b } := by
  constructor <;> first | rfl | exact h1 | exact h2 | exact h3 | exact h4 | exact h5 | exact fun _ => rfl

/-- A change of the cache that keeps every lookup. -/
theorem kept_cache (s : State) (cache : List LineageRec)
    (h : ∀ c, (cache.find? fun r => r.coil == c) = s.lch.cache.find? fun r => r.coil == c) :
    Kept s { s with lch := { s.lch with cache } } := by
  constructor <;> first | rfl | exact h | exact fun e h _ => ⟨e, h, rfl, rfl⟩

/-- A change of TSC that leaves flush queue, current pages, write pointer and marks alone. -/
theorem kept_tsc (s : State) (t : Tsc) (h1 : t.flush = s.tsc.flush)
    (h2 : (t.chans.map fun c => (c.index, c.cur)) = s.tsc.chans.map fun c => (c.index, c.cur)) (h3 : t.writePtr = s.tsc.writePtr)
    (h4 : t.storeFault = s.tsc.storeFault) (h5 : t.intact = s.tsc.intact) (h6 : t.testMark = s.tsc.testMark) :
    Kept s { s with tsc := t } := by
  constructor <;> first | rfl | exact h1 | exact h2 | exact h3 | exact h4 | exact h5 | exact h6 | exact fun _ => rfl
                        | exact fun e h _ => ⟨e, h, rfl, rfl⟩

/-! ### Transmit queue -/

theorem State.offer_kept (f : Frame) (o : Owner) (s : State) : Kept s (s.offer f o) :=
  kept_bus s _ rfl rfl rfl rfl fun e he _ => ⟨e, by
    simp only [List.mem_append] at he ⊢
    rcases he with h | h
    · exact .inl h
    · exact .inr (.inl h), rfl, rfl⟩

/-- On the line a frame stays in its place (R85). -/
theorem mem_set_of_ne {e x : TxEntry} {q : List TxEntry} {j : Nat} (hx : x ∈ q) (hj : q[j]? = some e) (y : TxEntry) :
    x ∈ q.set j y ∨ x = e := by
  obtain ⟨i, hi, rfl⟩ := List.mem_iff_getElem.1 hx
  by_cases h : i = j
  · subst h
    rw [List.getElem?_eq_getElem hi] at hj
    exact .inr (Option.some.inj hj)
  · exact .inl (List.mem_iff_getElem.2 ⟨i, by simpa using hi, by rw [List.getElem_set_ne (Ne.symm h)]⟩)

/-- A place set to an entry of the same frame and owner keeps every frame. -/
theorem set_keeps {e : TxEntry} {q w : List TxEntry} {j : Nat} (hj : q[j]? = some e) (y : TxEntry) (hf : y.frame = e.frame)
    (ho : y.owner = e.owner) (x : TxEntry) (hx : x ∈ q ++ w) :
    ∃ x' ∈ q.set j y ++ w, x'.frame = x.frame ∧ x'.owner = x.owner := by
  simp only [List.mem_append] at hx ⊢
  rcases hx with hx | hx
  · rcases mem_set_of_ne hx hj y with h | rfl
    · exact ⟨x, .inl h, rfl, rfl⟩
    · exact ⟨y, .inl (List.mem_set (by
        rcases List.getElem?_eq_some_iff.1 hj with ⟨h, _⟩; exact h) y), hf, ho⟩
  · exact ⟨x, .inr hx, rfl, rfl⟩

theorem State.startHead_kept (s : State) : Kept s s.startHead := by
  unfold State.startHead
  split
  · split
    · exact .refl s
    · split
      · exact .refl s
      · split
        · rename_i e hj _
          exact kept_bus s _ rfl rfl rfl rfl fun x hx _ => set_keeps hj { e with onLine := true } rfl rfl x hx
        · exact .refl s
  · exact .refl s

theorem State.join_kept (f : Frame) (o : Owner) (s : State) : Kept s (s.join f o) := by
  refine Kept.trans ?_ (State.startHead_kept _)
  exact kept_bus s _ rfl rfl rfl rfl fun e he _ => ⟨e, by
    simp only [List.mem_append] at he ⊢
    rcases he with h | h
    · exact .inl (.inl h)
    · exact .inr h, rfl, rfl⟩

/-- REQ withdraws only its own frames (R93). -/
theorem State.withdraw_kept (mine : Owner → Bool) (s : State) (h : ∀ o, mine o = true → o.ofReq = true) :
    Kept s (s.withdraw mine) :=
  kept_bus s _ rfl rfl rfl rfl fun e he ho => by
    have hn : mine e.owner = false := by
      cases hm : mine e.owner with
      | false => rfl
      | true => rw [h _ hm] at ho; cases ho
    refine ⟨e, ?_, rfl, rfl⟩
    simp only [List.mem_append, List.mem_map, List.mem_filter] at he ⊢
    rcases he with he | he
    · exact .inl ⟨e, ⟨he, by simp [hn]⟩, by simp [hn]⟩
    · exact .inr ⟨he, by simp [hn]⟩

/-! ### Lineage cache -/

/-- A touch keeps every lookup (R77). -/
theorem cacheTouch_find {cache : List LineageRec} {c : Coil} {r : LineageRec} {cache' : List LineageRec}
    (h : cacheTouch cache c = some (r, cache')) (d : Coil) :
    (cache'.find? fun x => x.coil == d) = cache.find? fun x => x.coil == d := by
  unfold cacheTouch at h
  cases hf : cache.find? fun x => x.coil == c with
  | none => simp [hf] at h
  | some r0 =>
    simp only [hf, Option.map_some, Option.some.injEq, Prod.mk.injEq] at h
    obtain ⟨rfl, rfl⟩ := h
    have hr : r0.coil = c := by simpa using List.find?_some hf
    by_cases hd : c = d
    · subst hd
      simp [hr, hf]
    · have : (r0.coil == d) = false := by simp [hr, hd]
      rw [List.find?_cons_of_neg (by simp [this]), List.find?_filter]
      congr 1
      funext x
      by_cases hx : x.coil = d
      · simp [hx, Ne.symm hd]
      · simp [hx]

theorem State.lookupCache_kept (s : State) (c : Coil) : Kept s (s.lookupCache c).2 := by
  unfold State.lookupCache
  split
  · exact .refl s
  · rename_i h
    exact kept_cache s _ (cacheTouch_find h)

end Sys2Proof.Machine
end

