-- ==== Sys2Proof/Laws/Micro.lean ====
section
/-! SUPPORT. Every micro step keeps what `Kept` lists, and so does the whole of a step's settling. -/

namespace Sys2Proof.Machine

/-- A relation kept by each step of a fold is kept by the fold. -/
theorem foldl_kept {α : Type} (f : State → α → State) (h : ∀ s a, Kept s (f s a)) (l : List α) (s : State) :
    Kept s (l.foldl f s) := by
  induction l generalizing s with
  | nil => exact .refl s
  | cons a l ih => exact (h s a).trans (ih _)

/-! ### REQ's results and planning -/

theorem handGroup_kept (s : State) (g : Group) : Kept s (handGroup s g) := by
  unfold handGroup
  split <;> exact kept_req s _

theorem addDepth_kept (as : List Attr) (s : State) : Kept s (addDepth as s) :=
  (State.setReq_kept s _).trans (foldl_kept _ handGroup_kept _ _)

theorem acceptPlayback_kept (n : Nat) (c : RecState) (s : State) : Kept s (acceptPlayback n c s) := by
  unfold acceptPlayback
  simp only
  split
  · exact kept_req s _
  · split
    · exact kept_req s _
    · exact (State.setReq_kept s _).trans (addDepth_kept _ _)

theorem settleQuery_kept (b : QueryBusy) (o : QueryOutcome) (s : State) : Kept s (settleQuery b o s) := by
  unfold settleQuery
  split
  · unfold resolveWith
    split
    · exact acceptPlayback_kept _ _ s
    · exact acceptPlayback_kept _ _ s
    · exact kept_req s _
    · exact kept_req s _
  · exact kept_req s _
  · exact kept_req s _

theorem endQuery_kept (i : Nat) (gen : BitVec 2) (b : QueryBusy) (o : QueryOutcome) (s : State) :
    Kept s (endQuery i gen b o s) :=
  ((State.withdraw_kept _ s (by intro w hw; simp at hw; subst hw; rfl)).trans (State.setReq_kept _ _)).trans (settleQuery_kept _ _ _)

/-- A query attempt that is dropped or refused reports nothing to ROS (R120, R130). -/
theorem failQuery_dropped_kept (i : Nat) (s : State) : Kept s (failQuery i true s) := by
  unfold failQuery
  split
  · simp only [Bool.or_true, Bool.true_or, if_true]
    split
    · exact (State.setReq_kept s _).trans (State.offer_kept _ _ _)
    · exact endQuery_kept _ _ _ _ s
  · exact .refl s

theorem startQuery_kept (i : Nat) (c : Coil) (w : Serves) (s : State) : Kept s (startQuery i c w s) := by
  unfold startQuery
  simp only
  split
  · exact (State.setReq_kept s _).trans (failQuery_dropped_kept _ _)
  · exact (State.setReq_kept s _).trans (State.offer_kept _ _ _)

theorem queryStep_kept {s t : State} (h : queryStep s = some t) : Kept s t := by
  unfold queryStep at h
  split at h
  · cases h; exact startQuery_kept _ _ _ s
  · cases h

theorem lookupRecord_kept (c : Coil) (s : State) : Kept s (lookupRecord c s).2 := by
  unfold lookupRecord
  split
  · split <;> exact .refl s
  · simp only
    split
    · exact State.lookupCache_kept s c
    · exact .refl s

theorem listCoils_kept (as : List Attr) (l : List (Coil × RecState)) (s : State) : Kept s (listCoils as l s).2 := by
  induction as generalizing l s with
  | nil => exact .refl s
  | cons a as ih =>
    cases a with
    | ended f c => exact ih l s
    | traced c ta tb sp un br sh =>
      simp only [listCoils]
      split
      · exact ih l s
      · exact (lookupRecord_kept c s).trans (ih _ _)

theorem planStep_kept {s t : State} (h : planStep s = some t) : Kept s t := by
  unfold planStep at h
  split at h
  · cases h
  · split at h
    · cases h
    · simp only at h
      split at h
      · cases h; exact ((addDepth_kept _ s).trans (listCoils_kept _ _ _)).trans (State.setReq_kept _ _)
      · cases h; exact (addDepth_kept _ s).trans (State.setReq_kept _ _)

/-! ### The fetch window -/

theorem endFetch_kept (i : Nat) (gen : BitVec 2) (g : Group) (m : Nat → Attr → Result) (s : State) : Kept s (endFetch i gen g m s) :=
  (State.withdraw_kept _ s (by intro w hw; simp at hw; subst hw; rfl)).trans (State.setReq_kept _ _)

/-- A fetch attempt that is dropped or refused reports nothing to ROS (R120, R148). -/
theorem failFetch_dropped_kept (i : Nat) (s : State) : Kept s (failFetch i true s) := by
  unfold failFetch
  split
  · simp only [Bool.or_true, if_true]
    split
    · exact (State.setReq_kept s _).trans (State.offer_kept _ _ _)
    · split
      · exact endFetch_kept _ _ _ _ s
      · exact endFetch_kept _ _ _ _ s
  · exact .refl s

theorem assignStep_kept {s t : State} (h : assignStep s = some t) : Kept s t := by
  unfold assignStep at h
  split at h
  · simp only at h
    split at h
    · cases h; exact kept_req s _
    · split at h
      · cases h; exact (State.setReq_kept s _).trans (failFetch_dropped_kept _ _)
      · cases h; exact (State.setReq_kept s _).trans (State.offer_kept _ _ _)
  · cases h

theorem endLocal_kept (i : Nat) (x : FetchResult) (s : State) : Kept s (endLocal i x s) := by
  unfold endLocal
  simp only
  split
  · exact (State.setReq_kept s _).trans (endFetch_kept _ _ _ _ _)
  · exact kept_req s _

theorem localStep_kept {s t : State} (h : localStep s = some t) : Kept s t := by
  unfold localStep at h
  split at h
  · simp only at h
    split at h
    · split at h
      · cases h; exact (State.setReq_kept s _).trans (endLocal_kept _ _ _)
      · cases h; exact (State.setReq_kept s _).trans (State.setReq_kept _ _)
    · cases h; exact kept_req s _
  · cases h

theorem deliverLocal_kept (bins : List BinClass) (s : State) : Kept s (deliverLocal bins s) := by
  unfold deliverLocal
  split
  · exact .refl s
  · exact kept_req s _
  · split
    · exact kept_req s _
    · exact endLocal_kept _ _ s

/-! ### Walks -/

theorem addPlace_kept (s : State) (p : Place) : Kept s (addPlace s p) := by
  unfold addPlace
  simp only
  split
  · exact .refl s
  · split <;> exact kept_req s _

theorem upOutcome_kept (c : Coil) (s : State) : Kept s (upOutcome c s).2 := by
  unfold upOutcome
  split
  · exact .refl s
  · split
    · exact .refl s
    · split
      · split
        · exact .refl s
        · split <;> exact .refl s
      · simp only
        split
        · exact State.lookupCache_kept s c
        · exact .refl s

theorem expandPiece_kept (d : Nat) (c : Coil) (s : State) (p : Piece) : Kept s (expandPiece d c s p) := by
  unfold expandPiece
  split
  · exact .refl s
  · simp only
    split
    · exact addPlace_kept s _
    · exact (upOutcome_kept _ s).trans (addPlace_kept _ _)

theorem upStep_kept {s t : State} (h : upStep s = some t) : Kept s t := by
  unfold upStep at h
  simp only at h
  split at h
  · cases h
  · split at h
    · cases h
    · split at h
      · cases h; exact (State.setWalk_kept s _).trans (foldl_kept _ (fun s p => expandPiece_kept _ _ s p) _ _)
      · cases h; exact State.setWalk_kept s _
    · cases h; exact State.setWalk_kept s _

theorem startDescent_kept (p : Place) (s : State) : Kept s (startDescent p s) := by
  unfold startDescent
  have h0 : Kept s ((ownChildren s p.coil).foldl (placeChild (p.depth + 1) p.coil) s) :=
    foldl_kept _ (fun s c => addPlace_kept s _) _ _
  simp only
  split
  · exact h0.trans (State.setWalk_kept _ _)
  · split
    · exact (h0.trans (State.setCollector_kept _ _)).trans (State.setReq_kept _ _)
    · exact (h0.trans (State.setCollector_kept _ _)).trans (State.offer_kept _ _ _)

theorem walkStep_kept {s t : State} (h : walkStep s = some t) : Kept s t := by
  unfold walkStep at h
  split at h
  · exact upStep_kept h
  · unfold downStep at h
    simp only at h
    split at h
    · cases h
    · split at h
      · cases h
      · split at h
        · cases h; exact startDescent_kept _ s
        · cases h; exact State.setWalk_kept s _
  · cases h

/-! ### CTR's queries, PSE, freed entries -/

theorem updateLength_told (c : Ctr) (id : Nat) (lq : LengthState) :
    (c.updateLength id lq none).decls.map Decl.told = c.decls.map Decl.told ∧
      (c.updateLength id lq none).entries.map Entry.told = c.entries.map Entry.told := by
  constructor
  · simp only [Ctr.updateLength, List.map_map]
    refine List.map_congr_left fun d _ => ?_
    simp only [Function.comp]
    split
    · cases d; simp [Decl.told]
    · rfl
  · simp only [Ctr.updateLength, List.map_map]
    refine List.map_congr_left fun d _ => ?_
    simp only [Function.comp]
    split
    · cases d; simp [Entry.told]
    · rfl

theorem startLengthQuery_kept {s t : State} (h : startLengthQuery s = some t) : Kept s t := by
  unfold startLengthQuery at h
  split at h
  · cases h
  · split at h
    · split at h
      · cases h
        exact kept_ctr s _ rfl (updateLength_told _ _ _).1 (updateLength_told _ _ _).2 rfl
      · cases h
        refine Kept.trans ?_ (State.offer_kept _ _ _)
        exact kept_ctr s _ rfl (updateLength_told _ _ _).1 (updateLength_told _ _ _).2 rfl
    · cases h

theorem pseOffer_kept (rest : List Frame) (f : Frame) (s : State) : Kept s (pseOffer rest f s) := by
  unfold pseOffer
  split
  · exact State.setPse_kept s _ rfl
  · exact (State.setPse_kept s _ rfl).trans (State.offer_kept _ _ _)

theorem pseOfferAll_kept (fs : List Frame) (s : State) : Kept s (pseOfferAll fs s) := by
  cases fs with
  | nil => exact State.setPse_kept s (fun p => { p with engine := .idle }) rfl
  | cons f rest => exact pseOffer_kept rest f s

theorem answerRequest_kept (r : ServiceReq) (s : State) : Kept s (answerRequest r s) := by
  unfold answerRequest
  split
  · exact pseOffer_kept _ _ s
  · exact pseOfferAll_kept _ s
  · split
    · exact .refl s
    · split
      · exact pseOffer_kept _ _ s
      · exact State.setPse_kept s _ rfl
  · exact .refl s

theorem pseStep_kept {s t : State} (h : pseStep s = some t) : Kept s t := by
  unfold pseStep at h
  split at h
  · split at h
    · cases h
      refine Kept.trans ?_ (answerRequest_kept _ _)
      exact State.setPse_kept s (fun p => { p with service := _ }) rfl
    · cases h
  · cases h

theorem pseJoined_kept (s : State) : Kept s (pseJoined s) := by
  unfold pseJoined
  split
  · exact pseOfferAll_kept _ s
  · exact .refl s

theorem deliverPeer_kept (bins : List BinClass) (s : State) : Kept s (deliverPeer bins s) := by
  unfold deliverPeer
  split
  · split
    · exact State.setPse_kept s _ rfl
    · exact pseOffer_kept _ _ s
  · exact .refl s

theorem mem_eraseIdx_or {α : Type} {x y : α} {l : List α} {j : Nat} (hx : x ∈ l) (hj : l[j]? = some y) :
    x ∈ l.eraseIdx j ∨ x = y := by
  induction l generalizing j with
  | nil => cases hx
  | cons a l ih =>
    cases j with
    | zero =>
      simp only [List.getElem?_cons_zero, Option.some.injEq] at hj
      subst hj
      rcases List.mem_cons.1 hx with rfl | h
      · exact .inr rfl
      · exact .inl (by simpa using h)
    | succ j =>
      simp only [List.getElem?_cons_succ] at hj
      rcases List.mem_cons.1 hx with rfl | h
      · exact .inl (by simp)
      · rcases ih h hj with h | h
        · exact .inl (by simp [h])
        · exact .inr h

/-- A waiting frame that joins the queue is kept (R91). -/
theorem joinWaiting_kept {j : Nat} {e : TxEntry} {s : State} (hj : s.bus.waiting[j]? = some e) : Kept s (joinWaiting j e s) := by
  have h0 : Kept s (State.join e.frame e.owner { s with bus := { s.bus with waiting := s.bus.waiting.eraseIdx j } }) := by
    refine Kept.trans (kept_bus s { s.bus with waiting := s.bus.waiting.eraseIdx j, queue := s.bus.queue ++ [.fresh e.frame e.owner] }
      rfl rfl rfl rfl fun x hx _ => ?_) (State.startHead_kept _)
    simp only [List.mem_append, List.mem_singleton] at hx ⊢
    rcases hx with hx | hx
    · exact ⟨x, .inl (.inl hx), rfl, rfl⟩
    · rcases mem_eraseIdx_or hx hj with h | rfl
      · exact ⟨x, .inr h, rfl, rfl⟩
      · exact ⟨.fresh x.frame x.owner, .inl (.inr rfl), rfl, rfl⟩
  unfold joinWaiting
  simp only
  split
  · exact h0.trans (pseJoined_kept _)
  · exact h0

theorem setAnnounce_unmarked (m : Bool) (c : Coil) (r : ExitRec) : (setAnnounce m c r).unmarked = r.unmarked := by
  unfold setAnnounce
  split
  · split <;> rename_i hb <;> simp [ExitRec.unmarked, hb]
  · rfl

theorem joinAnnounce_kept (r : LineageRec) (s : State) : Kept s (joinAnnounce r s) := by
  unfold joinAnnounce
  refine Kept.trans (kept_ctr s { s.ctr with exits := s.ctr.exits.map (setAnnounce false r.coil) } rfl rfl rfl ?_)
    (State.join_kept _ _ _)
  simp only [List.map_map]
  exact List.map_congr_left fun x _ => setAnnounce_unmarked _ _ x

theorem fillStep_kept {s t : State} (h : fillStep s = some t) : Kept s t := by
  unfold fillStep at h
  split at h
  · cases h
  · split at h
    · split at h
      · simp only [Option.map_eq_some_iff] at h
        obtain ⟨e, he, rfl⟩ := h
        exact joinWaiting_kept he
      · cases h; exact joinAnnounce_kept _ s
    · simp only [Option.map_eq_some_iff] at h
      obtain ⟨e, he, rfl⟩ := h
      exact joinWaiting_kept he
    · cases h; exact joinAnnounce_kept _ s
    · cases h

/-! ### CON, emission, page grants -/

theorem conStep_kept {s t : State} (h : conStep s = some t) : Kept s t := by
  unfold conStep at h
  split at h
  · cases h
  · split at h
    · cases h; exact kept_con s _ _ (by simp)
    · cases h; exact kept_con s _ _ (by simp)
    · cases h; exact kept_con s _ _ (by simp)
    · cases h

theorem emitStep_kept {s t : State} (h : emitStep s = some t) : Kept s t := by
  unfold emitStep at h
  split at h
  · simp only [Option.map_eq_some_iff] at h
    obtain ⟨x, _, rfl⟩ := h
    exact (State.setReq_kept s _).trans (kept_con _ _ _ (by simp))
  · cases h

theorem updateChan_cur (i : Nat) (f : TscChan → TscChan) (t : Tsc) (h : ∀ c, (f c).index = c.index ∧ (f c).cur = c.cur) :
    ((t.updateChan i f).chans.map fun c => (c.index, c.cur)) = t.chans.map fun c => (c.index, c.cur) := by
  simp only [Tsc.updateChan, List.map_map]
  refine List.map_congr_left fun c _ => ?_
  simp only [Function.comp]
  split
  · rw [(h c).1, (h c).2]
  · rfl

theorem evictAt_kept (slot : Nat) (s : State) : Kept s { s with tsc := evictAt slot s.tsc } := by
  unfold evictAt
  split
  · exact .refl s
  · exact kept_tsc s _ rfl (updateChan_cur _ _ _ fun c => ⟨rfl, rfl⟩) rfl rfl rfl rfl

theorem grantWrite_kept (p : Page) (s : State) : Kept s { s with tsc := grantWrite p s.tsc } :=
  (evictAt_kept s.tsc.writePtr s).trans (kept_tsc _ _ rfl rfl rfl rfl rfl rfl)

theorem deliver_kept (who : Evaluator) (bins : List BinClass) (s : State) : Kept s (deliver who bins s) := by
  cases who
  · exact deliverPeer_kept bins s
  · exact deliverLocal_kept bins s

theorem grantRead_kept (a : PageAsk) (s : State) : Kept s (grantRead a s) := by
  unfold grantRead
  simp only
  split
  · exact kept_tsc s _ rfl rfl rfl rfl rfl rfl
  · exact (kept_tsc s { s.tsc with mark := a.1 } rfl rfl rfl rfl rfl rfl).trans (deliver_kept _ _ _)

theorem grantStep_kept {s t : State} (h : grantStep s = some t) : Kept s t := by
  unfold grantStep at h
  split at h
  · cases h
  · split at h
    · cases h; exact grantWrite_kept _ s
    · simp only [Option.map_eq_some_iff] at h
      obtain ⟨a, _, rfl⟩ := h
      exact grantRead_kept a s

/-! ### The micro step and the end of a step -/

theorem orElse_some {α : Type} {a : Option α} {b : Unit → Option α} {t : α} (h : a.orElse b = some t) :
    a = some t ∨ b () = some t := by
  cases a with
  | none => exact .inr h
  | some x => exact .inl h

/-- The blocks that go on by themselves in a running part, CON apart. -/
inductive MicroCase (s t : State) : Prop where
  | lengthQuery (h : startLengthQuery s = some t)
  | service (h : pseStep s = some t)
  | localFetch (h : localStep s = some t)
  | assign (h : assignStep s = some t)
  | plan (h : planStep s = some t)
  | query (h : queryStep s = some t)
  | walk (h : walkStep s = some t)
  | fill (h : fillStep s = some t)
  | emission (h : emitStep s = some t)
  | grant (h : grantStep s = some t)

/-- A micro step is the step of one block. -/
theorem micro_cases {s t : State} (h : micro s = some t) : s.running = true ∧ MicroCase s t ∨ conStep s = some t := by
  unfold micro at h
  split at h
  · rename_i hr
    rcases orElse_some h with h | h; · exact .inl ⟨hr, .lengthQuery h⟩
    rcases orElse_some h with h | h; · exact .inl ⟨hr, .service h⟩
    rcases orElse_some h with h | h; · exact .inl ⟨hr, .localFetch h⟩
    rcases orElse_some h with h | h; · exact .inl ⟨hr, .assign h⟩
    rcases orElse_some h with h | h; · exact .inl ⟨hr, .plan h⟩
    rcases orElse_some h with h | h; · exact .inl ⟨hr, .query h⟩
    rcases orElse_some h with h | h; · exact .inl ⟨hr, .walk h⟩
    rcases orElse_some h with h | h; · exact .inl ⟨hr, .fill h⟩
    rcases orElse_some h with h | h; · exact .inr h
    rcases orElse_some h with h | h; · exact .inl ⟨hr, .emission h⟩
    exact .inl ⟨hr, .grant h⟩
  · exact .inr h

theorem micro_kept {s t : State} (h : micro s = some t) : Kept s t := by
  rcases micro_cases h with ⟨_, h⟩ | h
  · cases h with
    | lengthQuery h => exact startLengthQuery_kept h
    | service h => exact pseStep_kept h
    | localFetch h => exact localStep_kept h
    | assign h => exact assignStep_kept h
    | plan h => exact planStep_kept h
    | query h => exact queryStep_kept h
    | walk h => exact walkStep_kept h
    | fill h => exact fillStep_kept h
    | emission h => exact emitStep_kept h
    | grant h => exact grantStep_kept h
  · exact conStep_kept h

theorem GoesOn.kept {s t : State} (h : GoesOn s t) : Kept s t := by
  induction h with
  | here s => exact .refl s
  | on first _ ih => exact (micro_kept first).trans ih

theorem settleFor_goesOn (n : Nat) (s : State) : GoesOn s (settleFor n s) := by
  induction n generalizing s with
  | zero => exact .here s
  | succ n ih =>
    unfold settleFor
    split
    · exact .here s
    · rename_i h
      exact .on h (ih _)

theorem settleFor_quiet (n : Nat) {s : State} (h : s.Quiet) : settleFor n s = s := by
  cases n with
  | zero => rfl
  | succ n =>
    unfold settleFor
    split
    · rfl
    · rename_i k
      have h' : micro s = none := h
      rw [h'] at k
      cases k

theorem settle_goesOn (s : State) : GoesOn s (settle s) := settleFor_goesOn _ s

theorem settle_quiet {s : State} (h : s.Quiet) : settle s = s := settleFor_quiet _ h

/-- What a property that every micro step keeps is after settling. -/
theorem GoesOn.induct {P : State → Prop} (hP : ∀ {s t : State}, micro s = some t → P s → P t) {s t : State} (h : GoesOn s t)
    (hs : P s) : P t := by
  induction h with
  | here _ => exact hs
  | on first _ ih => exact ih (hP first hs)

/-- The end of a step, seen from the command's own effect. -/
theorem settle_carried (u : State) : Carried u (settle u) := ⟨settle_goesOn u, (settle_goesOn u).kept, settle_quiet⟩

/-- A command whose own effect is `u` ends in a next state carried on from `u`. -/
theorem commit_carried (s u : State) : ∃ t, commit s (some u) = .next t ∧ Carried u t := ⟨_, rfl, settle_carried u⟩

theorem commit_none (s : State) : commit s none = .next s := rfl

theorem whenReceiving_carried {s : State} (h : s.receives = true) (u : State) : ∃ t, whenReceiving s u = .next t ∧ Carried u t := by
  unfold whenReceiving
  rw [if_pos h]
  exact commit_carried s u

end Sys2Proof.Machine
end

