-- ==== Sys2Proof/Laws/Store.lean ====
section
/-! SUPPORT. The page ring: its canonical form is kept by every operation on it, a written slot reads as written, and every
other slot reads as before. -/

namespace Sys2Proof.Machine

/-- The canonical form, as order of the slot numbers. -/
theorem ringWf_iff (r : List (Nat × Page)) : ringWf r = true ↔ (r.map Prod.fst).Pairwise (· < ·) := by
  induction r with
  | nil => simp [ringWf]
  | cons e r ih =>
    cases r with
    | nil => simp [ringWf]
    | cons f r =>
      simp only [ringWf, Bool.and_eq_true, decide_eq_true_eq, ih, List.map_cons, List.pairwise_cons, List.mem_cons]
      constructor
      · rintro ⟨h, h1, h2⟩
        exact ⟨by rintro a (rfl | ha); exact h; exact h.trans (h1 a ha), h1, h2⟩
      · rintro ⟨h, h1, h2⟩
        exact ⟨h f.1 (.inl rfl), h1, h2⟩

theorem mem_ringWrite {slot : Nat} {p : Page} {r : List (Nat × Page)} {e : Nat × Page} (h : e ∈ ringWrite slot p r) :
    e = (slot, p) ∨ e ∈ r := by
  induction r with
  | nil => simpa [ringWrite] using h
  | cons f r ih =>
    simp only [ringWrite] at h
    split at h
    · simpa using h
    · split at h
      · rcases List.mem_cons.1 h with rfl | h
        · exact .inl rfl
        · exact .inr (List.mem_cons_of_mem _ h)
      · rcases List.mem_cons.1 h with rfl | h
        · exact .inr (List.mem_cons_self ..)
        · rcases ih h with h | h
          · exact .inl h
          · exact .inr (List.mem_cons_of_mem _ h)

/-- A write keeps the form. -/
theorem ringWrite_wf (slot : Nat) (p : Page) {r : List (Nat × Page)} (h : ringWf r = true) : ringWf (ringWrite slot p r) = true := by
  rw [ringWf_iff] at *
  induction r with
  | nil => simp [ringWrite]
  | cons f r ih =>
    simp only [List.map_cons, List.pairwise_cons, List.mem_map] at h
    simp only [ringWrite]
    split
    · rename_i hlt
      simp only [List.map_cons, List.pairwise_cons, List.mem_cons, List.mem_map]
      exact ⟨by rintro a (rfl | ⟨e, he, rfl⟩); exact hlt; exact hlt.trans (h.1 _ ⟨e, he, rfl⟩), fun a ha => h.1 a ha, h.2⟩
    · split
      · rename_i heq
        subst heq
        simpa using h
      · rename_i h1 h2
        simp only [List.map_cons, List.pairwise_cons, List.mem_map]
        refine ⟨?_, ih h.2⟩
        rintro a ⟨e, he, rfl⟩
        rcases mem_ringWrite he with rfl | he
        · show f.1 < slot
          omega
        · exact h.1 _ ⟨e, he, rfl⟩

/-- Freeing slots keeps the form. -/
theorem ringFree_wf (gone : Nat × Page → Bool) {r : List (Nat × Page)} (h : ringWf r = true) : ringWf (ringFree gone r) = true := by
  rw [ringWf_iff] at *
  exact h.sublist (List.filter_sublist.map _)

/-- A change of contents alone keeps the form. -/
theorem ringMap_wf (f : Nat × Page → Nat × Page) (hf : ∀ e, (f e).1 = e.1) {r : List (Nat × Page)} (h : ringWf r = true) :
    ringWf (r.map f) = true := by
  rw [ringWf_iff] at *
  rw [List.map_map, show Prod.fst ∘ f = Prod.fst from funext hf]
  exact h

/-- A written slot reads as written, every other slot as before. -/
theorem ringAt_ringWrite (slot i : Nat) (p : Page) {r : List (Nat × Page)} (h : ringWf r = true) :
    ringAt (ringWrite slot p r) i = if i = slot then some p else ringAt r i := by
  rw [ringWf_iff] at h
  unfold ringAt
  induction r with
  | nil =>
    by_cases hi : i = slot
    · simp [ringWrite, hi]
    · simp [ringWrite, hi, Ne.symm hi]
  | cons f r ih =>
    simp only [List.map_cons, List.pairwise_cons, List.mem_map] at h
    simp only [ringWrite]
    split
    · by_cases hi : i = slot
      · simp [hi]
      · simp [hi, Ne.symm hi]
    · split
      · rename_i heq
        by_cases hi : i = slot
        · simp [hi]
        · have : ¬ f.1 = i := fun k => hi (by omega)
          simp [hi, Ne.symm hi, this]
      · rename_i h1 h2
        by_cases hf : f.1 = i
        · have : ¬ i = slot := by omega
          simp [hf, this]
        · have := ih h.2
          simp [hf, this]

/-- A freed slot is free, every other slot reads as before. -/
theorem ringAt_ringFree (gone : Nat × Page → Bool) (i : Nat) {r : List (Nat × Page)} (h : ringWf r = true) :
    ringAt (ringFree gone r) i = (ringAt r i).filter fun p => !gone (i, p) := by
  rw [ringWf_iff] at h
  unfold ringAt ringFree
  induction r with
  | nil => rfl
  | cons f r ih =>
    simp only [List.map_cons, List.pairwise_cons, List.mem_map] at h
    by_cases hf : f.1 = i
    · have none_left : ∀ l : List (Nat × Page), l.Sublist r → (l.find? fun e => e.1 == i) = none := by
        intro l hl
        rw [List.find?_eq_none]
        intro e he
        have := h.1 e.1 ⟨e, hl.subset he, rfl⟩
        simp only [beq_iff_eq]
        omega
      obtain ⟨a, b⟩ := f
      simp only at hf
      subst hf
      cases hg : gone (a, b) with
      | true => rw [List.filter_cons_of_neg (by simp [hg]), none_left _ List.filter_sublist]; simp [Option.filter, hg]
      | false => rw [List.filter_cons_of_pos (by simp [hg])]; simp [Option.filter, hg]
    · have hn : (f.1 == i) = false := by simpa using hf
      cases hg : gone f with
      | true =>
        rw [List.filter_cons_of_neg (by simp [hg])]
        simp only [List.find?_cons, hn]
        exact ih h.2
      | false =>
        rw [List.filter_cons_of_pos (by simp [hg])]
        simp only [List.find?_cons, hn]
        exact ih h.2

/-! ### Operations of the store -/

theorem takeBin_ring (i openBin k : Nat) (b : Bin) (s : State) (h : ringWf s.tsc.ring = true) :
    ringWf (takeBin i openBin k b s).tsc.ring = true := by
  unfold takeBin
  split
  · exact h
  · split
    · exact h
    · split
      · exact h
      · simp only
        split
        · split
          · exact h
          · exact ringFree_wf _ h
        · exact h

theorem evictAt_ring (slot : Nat) (t : Tsc) (h : ringWf t.ring = true) : ringWf (evictAt slot t).ring = true := by
  unfold evictAt
  split
  · exact h
  · exact ringFree_wf _ h

theorem completeWrite_ring (code : Nat) (p : Page) (cancelled : Bool) (t : Tsc) (h : ringWf t.ring = true) :
    ringWf (completeWrite code p cancelled t).ring = true := by
  unfold completeWrite
  split
  · exact h
  · exact ringWrite_wf _ _ h

theorem start_ring (cold : Bool) (g : Settings) (odometer : Nat) (t : Tsc) (h : ringWf t.ring = true) :
    ringWf (t.start cold g odometer).ring = true := by
  unfold Tsc.start
  simp only
  split
  · show ringWf t.restored = true
    unfold Tsc.restored
    split
    · exact h
    · exact ringMap_wf _ (fun e => by split <;> simp_all) h
  · rfl

theorem unrefreshed_ring (t : Tsc) (h : ringWf t.ring = true) : ringWf t.unrefreshed.ring = true :=
  ringMap_wf (fun e => (e.1, e.2.blank)) (fun _ => rfl) h

/-- The ring right after reset has the form. -/
theorem reset_ring : ringWf State.reset.tsc.ring = true := rfl

end Sys2Proof.Machine
end

