-- ==== Sys2Proof/Tests/Slice0.lean ====
section
/-! SUPPORT. Own tests: one step each on a small state, with results from the worked examples of spec/ (the section stands in the
docstring) or worked by hand from the rule named there; and a witness for every statement with hypotheses. -/

namespace Sys2Proof.Tests

set_option Elab.async false

open Sys2Proof Sys2Proof.Machine

/-! ### Helpers -/

/-- The state after one command; the state itself where the command does not answer one. -/
def after (c : Instr) (s : State) : State :=
  match exec c s with
  | .next t => t
  | _ => s

/-- A station in RUN with the given number, pulse weight and channels, an idle line being awaited. -/
def station (n : BitVec 6) (weight : Nat) (channels : List ChannelDef) : State :=
  { State.reset with
    settings := { Settings.unloaded with
      station := n, pulseWeight := weight, standstillTime := 2000, finalHours := 6, replyTimeout := 200, retryLimit := 2
      queueWait := 200, channels := channels, tableLoaded := true }
    smp := { Smp.reset with sampler := .moving, chans := channels.map fun d => ⟨d.index, ⟨0, 0, none, false, false⟩, none⟩ }
    tsc := { Tsc.reset with chans := channels.map fun d => ⟨d.index, [], 0, ⟨d.index, 0, 0, []⟩⟩ }
    ros := { Ros.reset with roster := Ros.reset.roster.set (n.toNat - 1) ⟨.self, none⟩ }
    sup := { Sup.reset with part := .run, retention := true } }

/-- Station 12, one channel of quantity 17 with a step of 250 mm. -/
def s12 : State := station 12 1600 [⟨2, 17, 3⟩]

/-- A frame waiting in the transmit queue, on the line or not. -/
def queued (kind : FrameKind) (owner : Owner) (onLine : Bool) : TxEntry :=
  ⟨⟨kind, 12, makeTag 1 3 2, coilBytes 0 ⟨12, 4587⟩⟩, owner, 0, 0, onLine, false⟩

def State.withQueue (s : State) (q : List TxEntry) : State := { s with bus := { s.bus with queue := q } }

def plainPiece (n1 : Nat) (source : Coil) (lo hi : Nat) (reversed : Bool) : Piece :=
  ⟨0, n1, source, lo, hi, reversed, false, false, false⟩

/-! ### Ill-formed commands are refused by `wf` -/

theorem test_wf_lfCheck : (Instr.lfCheck (List.replicate 260 0)).wf = false := by decide +kernel
theorem test_wf_sampleSet_empty : (Instr.sampleSet []).wf = false := by decide
theorem test_wf_sampleSet_channel : (Instr.sampleSet [⟨32, 0⟩]).wf = false := by decide
theorem test_wf_declare : (Instr.declare ⟨7, 1⟩ true true 0 none).wf = false := by decide
theorem test_wf_cut_no_lane : (Instr.cut false 1 0 none).wf = false := by decide
theorem test_wf_cut_nine_lanes : (Instr.cut false 1 9 none).wf = false := by decide
theorem test_wf_badFrame : (Instr.badFrame [true]).wf = false := by decide
theorem test_wf_frame : (Instr.presence 7 63 0 (List.replicate 161 0)).wf = false := by decide +kernel
theorem test_wf_undefined_kind : (Instr.undefinedFrameKind 0 7 1 63 0 []).wf = false := by decide
theorem test_wf_console_record : (Instr.consoleBadRecord [] true).wf = false := by decide
theorem test_wf_image : (Instr.configLoad (List.replicate 91 0)).wf = false := by decide +kernel

/-! ### Chapter 1 -/

/-- 1.1, first pulse of the first example. -/
theorem test_forwardPulse_carry :
    let t := after .forwardPulse { s12 with smp := { s12.smp with odometer := 1000 } }
    (t.smp.odometer, t.smp.fraction, t.smp.debt, t.smp.timer) = (1006, 64, 0, 0) := by decide +kernel

/-- 1.6, the state before event 1. -/
def heavy : State :=
  let s := station 12 30720 [⟨3, 41, 0⟩, ⟨7, 50, 3⟩]
  { s with
    smp := { s.smp with
      odometer := 9980, chans := [⟨3, ⟨0, 0, none, false, false⟩, some 38⟩, ⟨7, ⟨0, 0, none, false, false⟩, none⟩] }
    tsc := { s.tsc with chans := [⟨3, [], 199, ⟨3, 3, 199, []⟩⟩, ⟨7, [], 39, ⟨7, 0, 39, []⟩⟩] } }

/-- 1.6, event 3 after the sums of event 2: the bins handed to TSC and the last means. -/
theorem test_forwardPulse_closes_bins :
    let s := { heavy with smp := { heavy.smp with
      chans := [⟨3, ⟨124, 3, some (40, 43), false, false⟩, some 38⟩, ⟨7, ⟨0, 0, none, false, false⟩, none⟩] } }
    let t := after .forwardPulse s
    t.tsc.chans.map (·.cur.bins) =
      [[⟨41, 40, 43, BinFlags.none⟩, ⟨41, 41, 41, ⟨true, false, false, false⟩⟩, ⟨41, 41, 41, ⟨true, false, false, false⟩⟩],
       [⟨0, 0, 0, ⟨false, true, false, false⟩⟩]] ∧
      t.smp.odometer = 10100 ∧ t.smp.chans.map (·.lastMean) = [some 41, none] := by decide +kernel

/-- 1.6, event 1: the entry of channel 7 is no reading. -/
theorem test_sampleSet_accepts :
    (after (.sampleSet [⟨3, 40⟩, ⟨7, 0x8000⟩, ⟨3, 43⟩]) heavy).smp.chans.map (·.acc) =
      [⟨83, 2, some (40, 43), false, false⟩, ⟨0, 0, none, false, false⟩] := by decide +kernel

/-- 1.7, t = 3,100: a sample set in STANDSTILL is discarded. -/
theorem test_sampleSet_standstill :
    let s := { heavy with smp := { heavy.smp with sampler := .standstill } }
    after (.sampleSet [⟨3, 90⟩]) s = s := by decide +kernel

/-- 1.1, second example: the debt is clamped. -/
theorem test_reversePulse_clamps :
    (after .reversePulse { station 12 65535 [] with smp := { Smp.reset with debt := 16765535 } }).smp.debt = 16777215 := by
  decide +kernel

/-- 1.7, t = 2,000: STANDSTILL, and the open bin takes STOP. -/
theorem test_standstill_stop :
    let s := { heavy with smp := { heavy.smp with timer := 2000 } }
    (after .standstill s).smp.sampler = .standstill ∧ (after .standstill s).smp.chans.map (·.acc.stop) = [true, true] := by
  decide +kernel

/-- R5: the tick that brings the timer to the standstill time enters STANDSTILL, and an advance after it moves again with STOP on the
bin. -/
theorem test_timeBaseTick_standstill :
    let s := { heavy with smp := { heavy.smp with timer := 1999 } }
    let t := after .timeBaseTick s
    t.smp.sampler = .standstill ∧ t.smp.timer = 2000 ∧ t.smp.chans.map (·.acc.stop) = [true, true] ∧
      (after .forwardPulse t).smp.sampler = .moving := by decide +kernel

/-! ### Chapter 2 -/

/-- A full page whose bins all hold `m`. -/
def fullPage (chan no : Nat) (m : Int) : Page := ⟨chan, no, 64 * no, List.replicate 64 ⟨m, m, m, BinFlags.none⟩⟩

/-- 2.4, after event 2: the write of 3:312,499 into slot 41,210 is in transfer, 7:62,499 waits behind it. -/
def evicting : State :=
  let s := station 12 6656 [⟨3, 41, 0⟩, ⟨7, 50, 3⟩]
  { s with
    smp := { s.smp with odometer := 1000000006 }
    tsc := { s.tsc with
      ring := [(41211, fullPage 3 94048 1)], writePtr := 41210
      chans := [⟨3, [(94048, 41211)], 6019072, ⟨3, 312500, 20000000, []⟩⟩, ⟨7, [], 1203904, ⟨7, 62500, 4000000, []⟩⟩]
      flush := [fullPage 3 312499 2, fullPage 7 62499 3]
      transfer := some (.write (fullPage 3 312499 2) false) } }

/-- 2.4, event 3: the slot is live, its page leaves the flush queue, and the next grant evicts page 94,048 of channel 3. -/
theorem test_flushWriteComplete_evicts_next :
    let t := (after .flushWriteComplete evicting).tsc
    t.writePtr = 41211 ∧ t.ring.map (fun e => (e.1, e.2.no)) = [(41210, 312499)] ∧
      t.chans.map (fun c => (c.dir, c.horizon)) = [([(312499, 41210)], 6019136), ([], 1203904)] ∧
      t.flush.length = 1 ∧ t.transfer = some (.write (fullPage 7 62499 3) false) := by decide +kernel

/-- 6.7: station 7, the fetch of station 12 for 7:9120. -/
def s7 : State :=
  let s := station 7 1600 [⟨4, 17, 4⟩]
  { s with
    smp := { s.smp with odometer := 900000000 }
    tsc := { s.tsc with
      ring := [(5, ⟨4, 25396, 1625344, List.replicate 51 ⟨0, 0, 0, BinFlags.none⟩ ++
        [⟨7, 4, 11, BinFlags.none⟩, ⟨9, 6, 12, BinFlags.none⟩, ⟨10, 10, 10, ⟨true, false, false, false⟩⟩] ++
        List.replicate 10 ⟨0, 0, 0, BinFlags.none⟩⟩)]
      chans := [⟨4, [(25396, 5)], 1500032, ⟨4, 28125, 1800000, []⟩⟩] }
    ctr := { s.ctr with
      exits := [⟨⟨7, 9120⟩, 812400000, 813000000, 70, 0, 1, 1, false, .final [plainPiece 600000 ⟨0, 58133⟩ 0 210000 true] false⟩,
        ⟨⟨7, 9121⟩, 813000000, 813500000, 90, 0, 1, 1, false, .pending [] 5⟩] } }

def fetch7 : Instr := .sampleFetch 12 7 (makeTag 0 0 1) (fetchBytes ⟨⟨7, 9120⟩, 17, 298667, 297667, 3⟩)

/-- 6.7, event 1: the used bins of the three points, the first SPARSE, and the page asked for. -/
theorem test_sampleFetch_used_bins :
    (match (after fetch7 s7).pse.engine with
      | .evaluating _ ev => (ev.points.map fun p => (p.kLo, p.kHi, p.sparse), ev.page)
      | _ => ([], 0)) =
      ([(1625397, 1625397, true), (1625396, 1625396, false), (1625395, 1625395, false)], 25396) := by decide +kernel

/-- 6.7, event 4: the reply, byte for byte by 12.3, with tag unit 0, slot 0, generation 1. -/
theorem test_pageReadComplete_reply :
    (after .pageReadComplete (after fetch7 s7)).bus.queue.map (fun e => (e.frame.kind, e.frame.dest, e.frame.tag, e.frame.payload)) =
      [(.sampleReply, 12, 1, [3, 0, 10, 0, 10, 0, 10, 1, 1, 0, 9, 0, 6, 0, 12, 0, 0, 0, 7, 0, 4, 0, 11, 0, 0])] := by decide +kernel

/-! ### Chapters 3 and 4 -/

/-- 3.9, before the first event (station 12, finalization limit 6 hours). -/
def tandem : State :=
  { s12 with
    smp := { s12.smp with odometer := 50000410 }
    ros := { s12.ros with clock := 1000 }
    lfr := { s12.lfr with lastPos := 49950000 }
    ctr := { s12.ctr with
      decls := [⟨5, ⟨7, 9120⟩, false, some 600000, none, .none⟩]
      entries := [⟨4, ⟨7, 9119⟩, false, some 1800000, none, .none, 48190000, none, false⟩]
      segStart := 49950000, nextId := 6
      exits := [⟨⟨12, 4586⟩, 48195000, 49950000, 900, 0, 1, 1, false,
        .pending [⟨⟨7, 9119⟩, false, 48195000, 49950000, some 4, false⟩] 21600000⟩] } }

/-- 3.9, event 1, with the piece of 4.5: 7:9119 DONE, 7:9120 RUNNING, 12:4586 FINAL and announced. -/
theorem test_join_finalizes :
    let t := after (.join false (some 50000000)) tandem
    t.ctr.decls = [] ∧ t.ctr.entries.map (fun e => (e.coil.seq, e.eStart, e.eEnd)) =
        [(9119, 48190000, some 50000000), (9120, 50000000, none)] ∧
      t.ctr.exits.map (·.body) = [.final [plainPiece 1755000 ⟨7, 9119⟩ 49724 1795028 true] false] ∧
      t.bus.queue.map (·.frame.kind) = [.coilAnnounce] ∧ t.lfr.lastPos = 50000000 := by decide +kernel

/-- 3.9, between events 2 and 3. -/
def cutting : State :=
  { tandem with
    smp := { tandem.smp with odometer := 51798000 }
    lfr := { tandem.lfr with lastPos := 50004000 }
    ctr := { tandem.ctr with
      decls := [], exits := [], segStart := 50004000
      entries := [⟨5, ⟨7, 9120⟩, false, some 600000, none, .none, 50000000, none, false⟩] } }

/-- 3.9, event 3: the record of 12:4587 and its overlap list. -/
theorem test_cut_pending :
    let t := after (.cut false 4587 1 (some 51798000)) cutting
    t.ctr.segStart = 51798000 ∧
      t.ctr.exits = [⟨⟨12, 4587⟩, 50004000, 51798000, 1000, 0, 1, 1, false,
        .pending [⟨⟨7, 9120⟩, false, 50004000, 51798000, some 5, false⟩] 21600000⟩] := by decide +kernel

/-- 3.9, event 2: the scrap cut releases 7:9119. -/
theorem test_cut_scrap_releases :
    let s := { tandem with
      smp := { tandem.smp with odometer := 50004000 }
      ctr := { tandem.ctr with
        decls := [], exits := []
        entries := [⟨4, ⟨7, 9119⟩, false, some 1800000, none, .none, 48190000, some 50000000, false⟩,
          ⟨5, ⟨7, 9120⟩, false, some 600000, none, .none, 50000000, none, false⟩] } }
    let t := after (.cut true 0 1 (some 50004000)) s
    t.ctr.entries.map (·.coil) = [⟨7, 9120⟩] ∧ t.ctr.exits = [] ∧ t.ctr.segStart = 50004000 := by decide +kernel

/-- 3.9, before event 4. -/
def tailing : State :=
  { cutting with
    smp := { cutting.smp with odometer := 51800410 }
    lfr := { cutting.lfr with lastPos := 51798000 }
    ctr := { cutting.ctr with
      segStart := 51798000
      exits := [⟨⟨12, 4587⟩, 50004000, 51798000, 1000, 0, 1, 1, false,
        .pending [⟨⟨7, 9120⟩, false, 50004000, 51798000, some 5, false⟩] 0⟩] } }

/-- 3.9, event 4, and 4.5: the piece of 12:4587; 7:9120 is kept. -/
theorem test_tailOut_finalizes :
    let t := after (.tailOut (some 51800000)) tailing
    t.ctr.exits.map (·.body) = [.final [plainPiece 1794000 ⟨7, 9120⟩ 667 598667 true] false] ∧
      t.ctr.entries.map (fun e => (e.eEnd, e.broken)) = [(some 51800000, false)] := by decide +kernel

/-- R44: BREAK ends the RUNNING record as TAIL-OUT does and marks it BROKEN; R63: its piece is then UNSCALED. -/
theorem test_stripBreak_unscaled :
    let t := after (.stripBreak (some 51800000)) tailing
    t.ctr.entries.map (fun e => (e.eEnd, e.broken)) = [(some 51800000, true)] ∧
      t.ctr.exits.map (·.body) = [.final [⟨0, 1794000, ⟨7, 9120⟩, 0, 596000, true, true, true, false⟩] false] := by decide +kernel

/-- 3.9, the last paragraph: the 6 hours run out before the TAIL-OUT. -/
theorem test_finalizationExpiry_unscaled :
    let t := after (.finalizationExpiry ⟨12, 4587⟩) tailing
    t.ctr.exits.map (fun r => (r.timedOut, r.body)) =
      [(true, .final [⟨0, 1794000, ⟨7, 9120⟩, 0, 596000, true, true, false, false⟩] false)] := by decide +kernel

/-- 4.2, the worked example: the five pieces of 12:5001. -/
theorem test_cut_pieces :
    let s := { s12 with
      smp := { s12.smp with odometer := 72500000 }
      ctr := { s12.ctr with
        segStart := 70000000, nextId := 7
        entries := [⟨4, ⟨7, 9140⟩, false, some 400000, none, .none, 69100000, some 70900000, false⟩,
          ⟨5, ⟨7, 9141⟩, false, some 500000, none, .none, 70900000, some 71600000, true⟩,
          ⟨6, ⟨7, 9141⟩, false, none, some 260000, .none, 71700000, some 72400000, false⟩] } }
    (after (.cut false 5001 1 none) s).ctr.exits.map (·.body) = [.final
      [⟨0, 900000, ⟨7, 9140⟩, 0, 200000, true, false, false, false⟩,
       ⟨900000, 1600000, ⟨7, 9141⟩, 0, 500000, true, true, true, false⟩,
       ⟨1600000, 1700000, ⟨0, 0⟩, 0, 0, false, false, false, false⟩,
       ⟨1700000, 2400000, ⟨7, 9141⟩, 0, 260000, true, true, false, false⟩,
       ⟨2400000, 2500000, ⟨0, 0⟩, 0, 0, false, false, false, false⟩] false] := by decide +kernel

/-- R38: a ninth declaration is discarded with DECLARE-OVERFLOW. -/
theorem test_declare_overflow :
    let s := { s12 with ctr := { s12.ctr with
      decls := (List.range 8).map fun i => ⟨i, ⟨7, BitVec.ofNat 32 i⟩, true, some 5, none, .none⟩ } }
    let t := after (.declare ⟨7, 99⟩ true false 100 none) s
    t.ctr.decls = s.ctr.decls ∧ t.sup.fault = some ⟨.declareOverflow, .ctr, some ⟨7, 99⟩, none, 0⟩ := by decide +kernel

/-- R36: a record with a wrong CRC is counted. -/
theorem test_lfCheck_counts : (after (.lfCheck [0, 4, 1, 2]) s12).lfr.errors = 1 := by decide +kernel

/-- R36, 12.5: a record with its CRC is handed on; here a TAIL-OUT beyond the odometer, which R37 clamps with LF-ORDER. -/
theorem test_lfCheck_hands_on :
    let body : List Byte := [6, 4, 0, 0, 0, 0, 0, 9]
    let t := after (.lfCheck (body ++ beBytes 2 (crcBytes body).toNat)) s12
    t.lfr.errors = 0 ∧ t.sup.fault.map (·.kind) = some .lfOrder := by decide +kernel

theorem test_lfRecordTimeout_counts :
    (after .lfRecordTimeout { s12 with lfr := { s12.lfr with errors := 65535 } }).lfr.errors = 65535 := by decide +kernel

/-- Station 12 with length-query slot 2 at its last attempt for 7:9120, nothing dropped. -/
def asking : State :=
  { s12 with
    ctr := { s12.ctr with
      decls := [⟨3, ⟨7, 9120⟩, true, none, none, .asked⟩]
      slots := s12.ctr.slots.set 2 ⟨1, some ⟨⟨7, 9120⟩, 3, 3, 3, false, some 0⟩⟩ } }

/-- R40, R120: the query ends without a length, and the producing station is SILENT. -/
theorem test_lengthQueryTimeout_silent :
    let t := after (.lengthQueryTimeout 2) asking
    t.ctr.slots[2]? = some ⟨1, none⟩ ∧ t.ctr.decls.map (·.lq) = [.none] ∧ t.ros.roster[6]?.map (·.state) = some .silent := by
  decide +kernel

def rec4587 : LineageRec := ⟨⟨12, 4587⟩, 1794000, 77, 0, 1, 1, false, [plainPiece 1794000 ⟨7, 9120⟩ 667 598667 true]⟩
def rec9120 : LineageRec := ⟨⟨7, 9120⟩, 600000, 70, 0, 1, 1, false, [plainPiece 600000 ⟨0, 58133⟩ 0 210000 true]⟩

/-- 4.5, station 40: template 0 selects every coil of station 12. -/
def s40 : State :=
  let s := station 40 1600 []
  { s with lch := { s.lch with templates := s.lch.templates.set 0 ⟨true, ⟨12, 0⟩, ⟨63, 0⟩⟩ } }

theorem test_coilAnnounce_kept : (after (.coilAnnounce 12 63 0 (recordBytes 0 rec4587)) s40).lch.cache = [rec4587] := by
  decide +kernel

/-- 4.6, step 6: the record names station 12 but arrives from station 13. -/
theorem test_coilAnnounce_other_station : (after (.coilAnnounce 13 63 0 (recordBytes 0 rec4587)) s40).lch.cache = [] := by
  decide +kernel

/-! ### Chapter 5 -/

/-- R90: the head frame is the one of the lowest class, a reply before a fetch. -/
theorem test_lineIdle_head :
    let t := after .lineIdle (State.withQueue s12 [queued .sampleFetch (.reqFetch 0) false, queued .lineageReply .pseReply false])
    t.bus.queue.map (·.onLine) = [false, true] ∧ t.bus.rx = .receiving := by decide +kernel

theorem test_busStuck :
    (after .busStuck s12).bus.stuck = true ∧ (after .busStuck s12).sup.fault = some ⟨.busStuck, .bus, none, none, 0⟩ := by
  decide +kernel

/-- R81, R84: eight equal bits are a stuffing violation. -/
theorem test_badFrame_violation :
    let t := after (.badFrame (List.replicate 8 false)) s12
    t.bus.badFrames = 1 ∧ t.sup.fault.map (·.kind) = some .badFrame ∧ t.sup.markBad = true := by decide +kernel

/-- 5.3: a station that lost arbitration keeps its frame queued, its collision counter unchanged. -/
theorem test_lostArbitration :
    let t := after .lostArbitration (State.withQueue s12 [queued .lineageReply .pseReply true])
    t.bus.queue = [queued .lineageReply .pseReply false] ∧ t.bus.collisions = 0 := by decide +kernel

/-- 5.6, a collision and its limit: the third collision drops the frame. -/
theorem test_collision_limit :
    let s := State.withQueue s12 [{ queued .lineageReply .pseReply true with collisions := 2 }]
    let t := after .collision { s with bus := { s.bus with collisions := 5004 } }
    t.bus.queue = [] ∧ t.bus.collisions = 5005 ∧ t.sup.fault.map (·.kind) = some .busCollision := by decide +kernel

/-- Station 12 with lineage-query slot 3 waiting for its frame. -/
def querying (timer : Option Nat) : State :=
  { s12 with req := { s12.req with
    engine := .resolving, queries := s12.req.queries.set 3 ⟨2, some ⟨⟨5, 7730⟩, .resolution, 3, 1, false, timer⟩⟩ } }

/-- R130: the reply timer starts at the send report. -/
theorem test_frameSent_timer :
    let t := after .frameSent (State.withQueue (querying none) [queued .lineageQuery (.reqQuery 3) true])
    t.bus.queue = [] ∧ (t.req.queries[3]?.bind (·.busy)).map (·.timer) = some (some 200) := by decide +kernel

theorem test_txWait_drops :
    let t := after (.txWait 0) (State.withQueue s12 [{ queued .lineageReply .pseReply false with wait := 200 }])
    t.bus.queue = [] ∧ t.sup.fault.map (·.kind) = some .txWait := by decide +kernel

/-! ### Chapters 6 and 7 -/

/-- 7.3, t = 13: station 12 adopts the clock of station 1. -/
theorem test_time_adopted :
    (after (.time 1 63 0 (beBytes 6 4812330005000)) s12).ros.clock = 4812330005000 ∧
      (after (.time 1 63 0 (beBytes 6 0)) s12).ros.clock = 0 := by decide +kernel

/-- 6.7, the end: 7:9121 is PENDING, with its length and close time. -/
theorem test_lineageQuery_pending :
    (after (.lineageQuery 31 7 9 (coilBytes 0 ⟨7, 9121⟩)) s7).bus.queue.map (fun e => (e.frame.dest, e.frame.tag, e.frame.payload)) =
      [(31, 9, [0x47, 0, 0, 0x23, 0xA1, 0, 7, 0xA1, 0x20, 0, 0, 0, 0, 0, 90])] := by decide +kernel

/-- Station 31 with the three coils slit from 12:4587 (10.3). -/
def s31 : State :=
  let s := station 31 1600 []
  let lane (n : Nat) : ExitRec := ⟨⟨31, BitVec.ofNat 32 (901 + n)⟩, 5200000, 5950000, 80, 3, n, 3, false,
    .final [plainPiece 750000 ⟨12, 4587⟩ 0 750000 false] false⟩
  { s with ctr := { s.ctr with exits := [lane 1, lane 2, lane 3] }, lch := { s.lch with cache := [rec4587] } }

/-- 10.3: the three children, lane 1 to 3, length 750,000, in the layout of 12.3. -/
theorem test_descentQuery_children :
    (after (.descentQuery 12 63 10 (coilBytes 0 ⟨12, 4587⟩)) s31).bus.queue.map (fun e => (e.frame.kind, e.frame.payload)) =
      [(.descentReply, [0, 31, 0, 0, 3, 0x86, 0, 0, 0x0B, 0x71, 0xB0, 31, 0, 0, 3, 0x87, 1, 0, 0x0B, 0x71, 0xB0,
        31, 0, 0, 3, 0x88, 2, 0, 0x0B, 0x71, 0xB0])] := by decide +kernel

/-- 4.6, step 4: a LINEAGE-REPLY with a record is kept without a template. -/
theorem test_lineageReply_kept :
    (after (.lineageReply 7 31 0 (recordBytes 0 rec9120)) s31).lch.cache.map (·.coil) = [⟨7, 9120⟩, ⟨12, 4587⟩] := by decide +kernel

/-- 7.2, event 5: an ANSWER with store FAULT. -/
theorem test_presence_degraded :
    (after (.presence 40 63 0 [5, 17, 41, 90]) s12).ros.roster[39]? = some ⟨.degraded, some [17, 41, 90]⟩ := by decide +kernel

/-- 5.6, step 7: a PRESENCE from the own number mutes the part and leaves the final PRESENCE alone. -/
theorem test_presence_duplicate :
    let t := after (.presence 12 63 0 [0, 17]) (State.withQueue s12 [queued .sampleReply .pseReply false])
    t.bus.muted = true ∧ t.bus.queue.map (fun e => (e.owner, e.frame.payload)) = [(.busFinal, [1, 17])] := by decide +kernel

/-- R95: a frame of an undefined kind refreshes the roster. -/
theorem test_undefinedFrameKind_heard :
    (after (.undefinedFrameKind 5 9 12 63 0 []) s12).ros.roster[8]?.map (·.state) = some .present := by decide +kernel

/-- 7.2, t = 607: the last attempt times out, and the station is SILENT. -/
theorem test_lineageQueryTimeout_silent :
    let s := querying (some 0)
    let t := after (.lineageQueryTimeout 3) { s with req := { s.req with
      queries := s.req.queries.set 3 ⟨2, some ⟨⟨5, 7730⟩, .resolution, 3, 3, false, some 0⟩⟩ } }
    t.ros.roster[4]?.map (·.state) = some .silent ∧ t.req.queries[3]? = some ⟨2, none⟩ ∧ t.req.engine = .idle ∧
      t.con.out = [.refuse 1 .unreachable] := by decide +kernel

/-- The time source, its timer at 10,000 (7.3, t = 10,009). -/
theorem test_timeFrameTimer_offers :
    let s := station 1 1600 []
    let t := after .timeFrameTimer { s with
      settings := { s.settings with timeSource := true }, ros := { s.ros with clock := 4812330015000, timeTimer := 10000 } }
    t.ros.timeTimer = 0 ∧ t.bus.queue.map (fun e => (e.frame.kind, e.frame.payload)) =
      [(.time, beBytes 6 4812330015000)] := by decide +kernel

/-- R124: the wrap makes the clock 0. -/
theorem test_plantClockWrap :
    let s := { s12 with ros := { s12.ros with clock := 281474976710655 } }
    (after .plantClockWrap s).ros.clock = 0 ∧ (after .timeBaseTick s).ros.clock = 0 := by decide +kernel

/-- 1.7: one tick in STANDSTILL counts the stop time. -/
theorem test_timeBaseTick_stop_time :
    let t := after .timeBaseTick { s12 with smp := { s12.smp with sampler := .standstill, stopTime := 1099 } }
    t.smp.stopTime = 1100 ∧ t.smp.timer = 0 := by decide +kernel

/-! ### Chapters 8 and 9 -/

/-- 8.7 and 9.9: station 12 with 12:4587 FINAL, station 7 PRESENT with list (17, 41), slot 14 given last. -/
def playing12 : State :=
  { s12 with
    smp := { s12.smp with odometer := 60000000 }
    tsc := { s12.tsc with
      ring := [(77, ⟨2, 3181, 203584, List.replicate 32 ⟨0, 0, 0, BinFlags.none⟩ ++
        ([(12, 8, 16), (15, 11, 19), (-3, -7, 2), (9, 5, 13), (9, 4, 14), (9, 5, 10), (8, 5, 10), (8, 5, 10), (2, -6, 9), (1, 0, 5),
          (1, 0, 5), (2, 0, 5)] : List (Int × Int × Int)).map (fun x => ⟨x.1, x.2.1, x.2.2, BinFlags.none⟩) ++
        List.replicate 20 ⟨0, 0, 0, BinFlags.none⟩⟩)]
      chans := [⟨2, [(3181, 77)], 203584, ⟨2, 3750, 240000, []⟩⟩] }
    ctr := { s12.ctr with exits := [⟨⟨12, 4587⟩, 50004000, 51798000, 77, 0, 1, 1, false,
      .final [plainPiece 1794000 ⟨7, 9120⟩ 667 598667 true] false⟩] }
    ros := { s12.ros with roster := s12.ros.roster.set 6 ⟨.present, some [17, 41]⟩ }
    req := { s12.req with lastGiven := 14, fetches := s12.req.fetches.set 15 ⟨2, none⟩ } }

def play : Instr := .playback ⟨12, 4587⟩ 17 900000 903000 1000 1

/-- 8.7, and steps 1 and 2 of 9.9: ACCEPT, the local group in slot 15, the remote group in slot 0 with its attempt queued. -/
theorem test_playback_plan :
    let t := after play playing12
    t.con.out = [.accept 3 1 903000 false] ∧ t.req.engine = .playing ∧
      (t.req.fetches[15]?.map fun x => (x.gen, x.busy.map fun b => (b.isLocal, b.group.posFrom, b.group.posTo, b.group.count))) =
        some (3, some (true, 900000, 903000, 3)) := by decide +kernel

theorem test_playback_remote_group :
    let t := after play playing12
    (t.req.fetches[0]?.map fun x => (x.gen, x.busy.map fun b => (b.isLocal, b.group.posFrom, b.group.posTo, b.group.allowed))) =
        some (1, some (false, 298667, 297667, 3)) ∧
      t.bus.queue.map (fun e => (e.frame.kind, e.frame.dest, e.frame.tag)) = [(.sampleFetch, 7, 1)] := by decide +kernel

def reply7 : List Byte := fetchResultBytes ⟨.data, false, [⟨10, 10, 10, ⟨true, false, false, false⟩, true, false, false⟩,
  ⟨9, 6, 12, BinFlags.none, false, false, false⟩, ⟨7, 4, 11, BinFlags.none, false, false, false⟩]⟩

/-- 9.9, step 5: the answers of depth 1 wait for depth 0. -/
theorem test_sampleReply_waits :
    let t := after (.sampleReply 7 12 1 reply7) (after play playing12)
    (t.req.depths[1]?.map fun d => d.results.map fun r => r.map fun x => (x.mean, x.sparse)) =
        some [some (10, true), some (9, false), some (7, false)] ∧
      t.req.fetches[0]? = some ⟨1, none⟩ ∧ t.con.out.length = 1 := by decide +kernel

/-- 9.9, step 6: the local result lets all records join the output queue, ten in all. -/
theorem test_pageReadComplete_emits :
    let t := after .pageReadComplete (after (.sampleReply 7 12 1 reply7) (after play playing12))
    t.con.out.length = 10 ∧ t.req.engine = .idle ∧ t.con.out.getLast? = some (.playbackEnd false [3, 3, 0, 0, 0]) ∧
      (t.con.out.take 3).drop 1 = [.tracePoint 0 0 ⟨8, -7, 19, BinFlags.none, false, false, false, false, false, false, false, none, ⟨12, 4587⟩⟩,
        .tracePoint 0 1 ⟨9, 4, 14, BinFlags.none, false, false, false, false, false, false, false, none, ⟨12, 4587⟩⟩] := by
  decide +kernel

/-- R147, R150: the last attempt of the remote fetch times out, and its points are UNANSWERED. -/
theorem test_fetchTimeout_unanswered :
    let s := after play playing12
    let t := after (.fetchTimeout 0) { s with req := { s.req with fetches := s.req.fetches.map fun x =>
      { x with busy := x.busy.map fun b => if b.isLocal then b else { b with tries := 3, timer := some 0 } } } }
    (t.req.depths[1]?.map fun d => d.results.map fun r => r.map (·.outcome)) =
        some [some (some .unanswered), some (some .unanswered), some (some .unanswered)] ∧
      t.ros.roster[6]?.map (·.state) = some .silent := by decide +kernel

/-- R149: CLAMPED of a reply without values goes to every point of the group. -/
theorem test_sampleReply_clamped :
    let t := after (.sampleReply 7 12 1 (fetchResultBytes ⟨.storeFault, true, []⟩)) (after play playing12)
    (t.req.depths[1]?.map fun d => d.results.map fun r => r.map fun x => (x.outcome, x.clamped)) =
        some (List.replicate 3 (some (some .storeFault, true))) := by decide +kernel

/-- R155: ABORT while PLAYING ends with PLAYBACK-END ABORTED; the local read drains. -/
theorem test_abort_playing :
    let t := after .abort (after play playing12)
    t.con.out.getLast? = some (.playbackEnd true [0, 0, 0, 0, 0]) ∧ t.req.engine = .idle ∧ t.bus.queue = [] ∧
      t.req.fetches[0]? = some ⟨2, none⟩ := by decide +kernel

/-! ### Chapters 10 and 11 -/

/-- 10.2, steps 1 to 3: two entries, then a query to station 7. -/
theorem test_genealogy_up :
    let t := after (.genealogy ⟨31, 902⟩ 0 2) s31
    t.con.out.length = 2 ∧ t.req.walk.places.map (fun p => (p.coil, p.depth)) =
        [(⟨31, 902⟩, 0), (⟨12, 4587⟩, 1), (⟨7, 9120⟩, 2)] ∧
      t.bus.queue.map (fun e => (e.frame.kind, e.frame.dest)) = [(.lineageQuery, 7)] := by decide +kernel

/-- 10.2, steps 4 and 5. -/
theorem test_lineageReply_ends_walk :
    let t := after (.lineageReply 7 31 (makeTag 1 0 1) (recordBytes 0 rec9120)) (after (.genealogy ⟨31, 902⟩ 0 2) s31)
    t.con.out.getLast? = some (.genEnd .complete 3 0) ∧ t.req.engine = .idle := by decide +kernel

/-- R169: ABORT in a walk ends with GEN-END ABORTED, and the collector steps its generation, idle or not. -/
theorem test_abort_walk :
    let t := after .abort (after (.genealogy ⟨31, 902⟩ 0 2) s31)
    t.con.out.getLast? = some (.genEnd .aborted 2 0) ∧ t.req.queries[0]? = some ⟨2, none⟩ ∧ t.req.collector.gen = 1 := by
  decide +kernel

/-- 10.3 at station 12, the query sent: the collector of generation 2 with both timers. -/
def collecting (quiet overall : Nat) : State :=
  { s12 with req := { s12.req with
    engine := .walkingDown, emitted := 1
    walk := { depth := 1, places := [⟨⟨12, 4587⟩, 0, .unknown, none, .root⟩], expanded := 0, truncated := false, dropped := 0 }
    collector := { gen := 2, state := .collecting, tries := 1, quiet := quiet, overall := overall, parts := [] } } }

/-- 10.3, t = 7: three places, and the quiet timer restarts. -/
theorem test_descentReply_children :
    let part := descentPartBytes ⟨false, 0, [⟨⟨31, 902⟩, 1, false, 750000⟩, ⟨⟨31, 903⟩, 2, false, 750000⟩, ⟨⟨31, 904⟩, 3, false, 750000⟩]⟩
    let t := after (.descentReply 31 12 (makeTag 3 0 2) part) (collecting 93 993)
    t.req.collector.quiet = 100 ∧ t.req.collector.overall = 993 ∧ t.req.walk.places.length = 4 ∧ t.con.out.length = 3 := by
  decide +kernel

/-- 10.3, t = 107: collection and walk end. -/
theorem test_quietTimerExpiry_ends :
    (after .quietTimerExpiry (collecting 0 959)).con.out = [.genEnd .complete 1 0] := by decide +kernel

theorem test_overallTimerExpiry_ends :
    (after .overallTimerExpiry (collecting 50 0)).con.out = [.genEnd .complete 1 0] := by decide +kernel

/-- R167, R168: LAST with n = 2, in close order. -/
theorem test_coilList_last :
    let t := after (.coilList (.last 2) false) s31
    (t.con.out.map fun r => match r with
      | .listEntry e => e.lane
      | _ => 0) = [2, 3, 0] ∧ t.con.out.getLast? = some (.listEnd false 2) := by decide +kernel

/-- R174: STATUS places one report. -/
theorem test_status_reports :
    ((after .status s12).con.out.map fun r => match r with
      | .statusReport x => (x.part, x.station, x.channels.length)
      | _ => (.loading, 0, 0)) = [(.run, 12, 1)] := by decide +kernel

/-- 11.5, an overrun at the desk: ABORT is discarded, the overrun mark set. -/
theorem test_abort_overrun :
    let s := { s12 with con := { s12.con with out := List.replicate 16 (.done 5), complete := some ⟨.request .status, .report⟩ } }
    let t := after .abort s
    t.con.overrun = some 5 ∧ t.con.complete = s.con.complete ∧
      (after .outputRecordSent t).con.out.getLast? = some (.refuse 5 .overrun) := by decide +kernel

/-- R171: any record that completes while the buffer is occupied gives OVERRUN with its kind; R172: SET-TIME in CHECKING. -/
theorem test_overrun_kinds :
    let kept : State := { s12 with con := { s12.con with complete := some ⟨.request .status, .report⟩, out := List.replicate 16 (.done 5) } }
    [Instr.playback ⟨7, 1⟩ 17 0 1 0 0, .genealogy ⟨7, 1⟩ 2 0, .coilList (.last 0) false, .clearFault, .setTime 5].map
        (fun c => (after c kept).con.overrun) = [some 1, some 2, some 3, some 6, some 7] ∧
      (after (.setTime 5) { s12 with sup := { s12.sup with part := .checking } }).con.out = [.refuse 7 .notRunning] := by decide +kernel

theorem test_clearFault_empties :
    let t := after .clearFault { s12 with sup := { s12.sup with faultCount := 3, fault := some ⟨.config, .sup, none, none, 0⟩ } }
    t.sup.fault = none ∧ t.sup.faultCount = 0 ∧ t.con.out = [.done 6] := by decide +kernel

/-- 7.3, t = 0, and R125 at a station that is no time source. -/
theorem test_setTime :
    let s := station 1 1600 []
    let t := after (.setTime 4812330000000) { s with settings := { s.settings with timeSource := true } }
    t.ros.clock = 4812330000000 ∧ t.bus.queue.map (·.frame.kind) = [.time] ∧
      (after (.setTime 5) s).con.out = [.refuse 7 .notTimeSource] := by decide +kernel

/-- R170, R185: noise and a response start byte before 3CH are discarded; the CRC is wrong. -/
theorem test_consoleBadRecord_check :
    (after (.consoleBadRecord [0xC3, 0x3C, 0, 4, 1, 2] false) s12).con.out = [.refuse 4 .check] := by decide +kernel

/-- R172 row 2: a whole record with a good CRC of a kind that is none of the seven, and of an ABORT with a payload byte. -/
theorem test_consoleBadRecord_format :
    (after (.consoleBadRecord (requestBytes 8 []) false) s12).con.out = [.refuse 8 .format] ∧
      (after (.consoleBadRecord (requestBytes 5 [0]) false) s12).con.out = [.refuse 5 .format] := by decide +kernel

theorem test_consoleByteTimeout_format : (after (.consoleByteTimeout [0x3C, 0, 6]) s12).con.out = [.refuse 6 .format] := by
  decide +kernel

/-- R185: the record of a request, byte for byte, is that request to the assembler. -/
theorem test_requestBytes_status :
    (requestBytes 4 []).take 3 = [0x3C, 0, 4] ∧ judgeConsole ((requestBytes 4 []).drop 1) false = .request .status := by
  decide +kernel

/-- 90 words with the check word that makes the sum FFFFH. -/
def image (replyTimeout : Nat) : List (BitVec 16) :=
  let words : List Nat := [0x742, 12, 0, 512, 1000, 6, replyTimeout, 2, 500, 0, 0, 17 * 256 + 3] ++ List.replicate 77 0
  (words ++ [0xFFFF - words.foldl onesAdd 0]).map (BitVec.ofNat 16)

/-- Right after the settle count of a power-on. -/
def loading : State := after .settleCountEnd State.reset

theorem test_settleCountEnd : loading.sup.part = .loading := by decide +kernel

/-- 11.4, step 1 of the worked example: a cold start, and one CONFIG for the reply timeout. -/
theorem test_configLoad_cold :
    let t := after (.configLoad (image 5)) loading
    t.sup.part = .checking ∧ t.sup.coldStart = true ∧ t.sup.retention = true ∧ t.sup.faultCount = 1 ∧
      t.settings.replyTimeout = 10 ∧ t.settings.channels = [⟨2, 17, 3⟩] := by decide +kernel

/-- R178: words that are not answered make a fatal image. -/
theorem test_configLoad_fatal : (after (.configLoad []) loading).sup.part = .configFault := by decide +kernel

/-- 11.4, step 2: RUN, PRESENCE START with COLD. -/
theorem test_selfTestComplete_run :
    let t := after (.selfTestComplete []) (after (.configLoad (image 5)) loading)
    t.sup.part = .run ∧ t.bus.queue.map (·.frame.payload) = [[2, 17]] := by decide +kernel

/-- R30, R122: a failed self-test, RUN-DEGRADED, store FAULT in the PRESENCE. -/
theorem test_selfTestComplete_degraded :
    let t := after (.selfTestComplete [.address 262128 5 5, .complement 262128 5 5]) (after (.configLoad (image 5)) loading)
    t.sup.part = .runDegraded ∧ t.bus.queue.map (·.frame.payload) = [[6, 17]] ∧ t.sup.fault.map (·.kind) = some .storeFault := by
  decide +kernel

/-- R29: the self-test stops in the live slot that fails, whose test mark and test buffer stay. -/
theorem test_selfTestComplete_keeps_mark :
    let c : State := { s12 with sup := { s12.sup with part := .checking }, tsc := { s12.tsc with ring := [(262143, fullPage 2 7 1)] } }
    (after (.selfTestComplete [.restored 262143 false]) c).tsc.testMark = some (262143, fullPage 2 7 1) ∧
      (after (.selfTestComplete [.restored 262142 false]) c).sup.part = .run := by decide +kernel

/-- R177, R182: SUPPLY-LOW disregards the reset input, and the recovery begins a settle count with the input still held; a part that
runs with it held takes nothing, and the release begins another settle count. -/
theorem test_supplyRecovery_held :
    (after .supplyRecovery (after .supplyLow (after (.externalResetAssert none) s12))).sup.part = .settling ∧
      (after .supplyRecovery (after (.externalResetAssert none) (after .supplyLow s12))).sup.part = .settling ∧
      (let held : State := { s12 with sup := { s12.sup with resetPin := true } }
       after .forwardPulse held = held ∧ after .status held = held ∧ (after .externalResetRelease held).sup.part = .settling) := by
  decide +kernel

theorem test_externalResetAssert_keeps :
    let t := after (.externalResetAssert none) tandem
    t.sup.part = .resetHeld ∧ t.ctr = tandem.ctr ∧ (after .externalResetRelease t).sup.part = .settling := by decide +kernel

/-- 2.7, steps 6 and 11.4, step 3: the page contents are lost, the fault counts. -/
theorem test_supplyLow :
    let t := after .supplyLow evicting
    t.sup.part = .supplyLow ∧ t.tsc.intact = false ∧ t.sup.faultCount = 1 ∧ t.smp.odometer = 1000000006 := by decide +kernel

theorem test_retentionLoss :
    (after .retentionLoss (after .supplyLow evicting)).sup.retention = false ∧
      (after .retentionLoss (after .supplyLow evicting)).smp.odometer = 0 := by decide +kernel

theorem test_supplyRecovery :
    (after .supplyRecovery (after .supplyLow evicting)).sup.part = .settling := by decide +kernel

/-! ### The step -/

theorem test_step_takes_front :
    step { s12 with pending := [.reversePulse, .standstill] } = exec .reversePulse { s12 with pending := [.standstill] } := rfl

theorem test_fetch_word_spells_nothing : State.reset.withFetchWord 8 0 = State.reset := by decide +kernel

/-! ### Witnesses: states and operands that meet the hypotheses of each statement, clause by clause, at the edges of their ranges -/

theorem nothing_before_front (q : List TxEntry) : ∀ (i : Nat) (x : TxEntry), q[i]? = some x → i < 0 → x.onLine = false :=
  fun _ _ _ h => absurd h (Nat.not_lt_zero _)

def State.withOdometer (s : State) (o : Nat) : State := { s with smp := { s.smp with odometer := o } }
def State.withPart (s : State) (p : PartState) : State := { s with sup := { s.sup with part := p } }
def State.silenced (s : State) : State := { s with bus := { s.bus with muted := true } }
def State.withClock (s : State) (c t : Nat) : State := { s with ros := { s.ros with clock := c, timeTimer := t } }
def State.standing (s : State) : State := { s with smp := { s.smp with sampler := .standstill } }

theorem witness_StepTakesFrontCommand : State.reset.pending = [] := by decide +kernel

/-- Debt equal to the weight; fraction 255 after the pulse; a carry at the top. -/
theorem witness_ForwardPulseWithoutAdvance :
    let a : State := { s12 with smp := { s12.smp with debt := 1600 } }
    let b := station 12 255 []
    let c := State.withOdometer s12 (2 ^ 48 - 1)
    (a.receives = true ∧ a.settings.pulseWeight ≤ a.smp.debt) ∧
      (b.receives = true ∧ b.smp.debt < b.settings.pulseWeight ∧
        b.smp.fraction + (b.settings.pulseWeight - b.smp.debt) < 256 ∧ b.smp.odometer < 2 ^ 48 - 1) ∧
      (c.receives = true ∧ c.smp.debt < c.settings.pulseWeight ∧
        256 ≤ c.smp.fraction + (c.settings.pulseWeight - c.smp.debt) ∧ c.smp.odometer = 2 ^ 48 - 1) := by decide +kernel

/-- The last advance below the top and one that would pass it; no boundary crossed in RUN; RUN-DEGRADED; boundaries crossed in RUN,
channels in ascending order. -/
theorem witness_ForwardPulseAdvances :
    let h (s : State) : Prop := s.receives = true ∧ s.smp.debt < s.settings.pulseWeight ∧ 1 ≤ 6 ∧ 64 < 256 ∧
      s.smp.fraction + (s.settings.pulseWeight - s.smp.debt) = 6 * 256 + 64 ∧ s.smp.odometer < 2 ^ 48 - 1
    h (State.withOdometer s12 (2 ^ 48 - 7)) ∧ h (State.withOdometer s12 (2 ^ 48 - 2)) ∧
      (h s12 ∧ s12.sup.part = .run ∧ ∀ c ∈ s12.smp.chans, ∀ d, s12.settings.channel c.index = some d →
        s12.smp.odometer / d.step = min (s12.smp.odometer + 6) (2 ^ 48 - 1) / d.step) ∧
      h (State.withPart s12 .runDegraded) ∧ (State.withPart s12 .runDegraded).sup.part = .runDegraded ∧
      (heavy.receives = true ∧ heavy.smp.debt < heavy.settings.pulseWeight ∧
        heavy.smp.fraction + (heavy.settings.pulseWeight - heavy.smp.debt) = 120 * 256 + 0 ∧
        heavy.smp.odometer < 2 ^ 48 - 1 ∧ heavy.sup.part = .run ∧ (heavy.smp.chans.map (·.index)).Pairwise (· < ·)) := by
  have within : ∀ c ∈ s12.smp.chans, ∀ d, s12.settings.channel c.index = some d →
      s12.smp.odometer / d.step = min (s12.smp.odometer + 6) (2 ^ 48 - 1) / d.step := by
    intro c hc d hd
    have hc : c.index = 2 := by
      simp [s12, station] at hc; subst hc; rfl
    rw [hc] at hd
    have : some d = some ⟨2, 17, 3⟩ := hd.symm.trans (by decide +kernel)
    cases this
    decide +kernel
  refine ⟨?_, ?_, ⟨?_, ?_, within⟩, ?_⟩ <;> decide +kernel

theorem witness_ReversePulseAndStandstill :
    s12.receives = true ∧ heavy.receives = true ∧
      (let s := { heavy with smp := { heavy.smp with timer := 1999 } }
       s.running = true ∧ s.smp.sampler = .moving ∧ s.settings.standstillTime ≤ s.smp.timer + 1) := by decide +kernel

theorem witness_SampleSetReachesOpenBins :
    let es : List SampleEntry := List.replicate 32 ⟨31, 0x7FFF⟩
    (Instr.sampleSet es).wf = true ∧ heavy.receives = true ∧ heavy.smp.sampler = .moving ∧
      (State.standing heavy).receives = true ∧ (State.standing heavy).smp.sampler = .standstill := by decide +kernel

theorem witness_AcceptedBeyondFullCount :
    let a : Machine.Acc := ⟨7, 65535, some (0, 7), false, false⟩
    (a.count = 65535 ∧ a.extrema = some (0, 7)) ∧
      65535 ≤ (List.replicate 65535 (0 : Int)).length ∧ (List.replicate 65534 (0 : Int)).length < 65535 := by
  exact ⟨⟨rfl, rfl⟩, by rw [List.length_replicate], by rw [List.length_replicate]; decide⟩

/-- A bin of one value, and 1.6: 9,980 to 10,100 at a step of 50, with samples and without. -/
theorem witness_AdvanceClosesBins :
    let a : Machine.Acc := ⟨-32767, 1, some (-32767, -32767), true, false⟩
    let d : ChannelDef := ⟨3, 41, 0⟩
    let c (last : Option Int) : SmpChan := ⟨3, ⟨0, 0, none, true, false⟩, last⟩
    (a.Sound ∧ a.extrema = some (-32767, -32767)) ∧ 9980 / d.step < 10100 / d.step ∧ 9999 / d.step < 10000 / d.step ∧
      ((c none).acc.count = 0 ∧ (c none).lastMean = none) ∧ ((c (some 41)).acc.count = 0 ∧ (c (some 41)).lastMean = some 41) := by
  refine ⟨⟨?_, rfl⟩, ?_⟩
  · constructor <;> decide
  · decide +kernel

/-- The timer one tick short of the tick that reaches the standstill time, and at it. -/
theorem witness_TickMovesTimers :
    (∀ n ∈ [1998, 1999], let s : State := { s12 with smp := { s12.smp with timer := n } }
        s.running = true ∧ s.smp.sampler = .moving ∧
          (n = 1998 → s.smp.timer + 1 < s.settings.standstillTime) ∧
          (n = 1999 → s.settings.standstillTime ≤ s.smp.timer + 1)) ∧ (State.standing s12).running = true ∧
      (State.standing s12).smp.sampler = .standstill ∧
      (∀ p ∈ [PartState.loading, .checking, .configFault],
        let s := State.withClock (State.withPart s12 p) (2 ^ 48 - 2) 0
        (s.sup.part = .loading ∨ s.sup.part = .checking ∨ s.sup.part = .configFault) ∧ s.ros.clock ≠ 0 ∧
          s.ros.clock < 2 ^ 48 - 1) := by decide +kernel

/-- Below the horizon, at the horizon within a page, and the last bin of a page with 31 and with 32 pages queued. -/
theorem witness_ClosedBinIsStored :
    let c : TscChan := ⟨2, [], 64, ⟨2, 1, 64, []⟩⟩
    let s (n : Nat) : State := { s12 with tsc := { s12.tsc with chans := [c], flush := List.replicate n (fullPage 2 0 1) } }
    (∀ n ∈ [0, 31, 32], (s n).sup.part = .run ∧ (s n).tsc.chan 2 = some c) ∧ 63 < c.horizon ∧
      (c.horizon ≤ 64 ∧ 64 % 64 ≠ 63) ∧ (c.horizon ≤ 127 ∧ 127 % 64 = 63 ∧ (s 31).tsc.flush.length < 32) ∧
      32 ≤ (s 32).tsc.flush.length ∧
      ({ s 32 with tsc := { (s 32).tsc with transfer := some (.write (fullPage 2 0 1) false) } } : State).tsc.transfer =
        some (.write (fullPage 2 0 1) false) := by decide +kernel

/-- A write cancelled and not; a grant on a live slot and on a free one. -/
theorem witness_FlushWritesAndEvictions :
    let p := fullPage 3 312499 2
    let cancelled : State := { evicting with tsc := { evicting.tsc with transfer := some (.write p true) } }
    let live : State := { evicting with tsc := { evicting.tsc with transfer := none, writePtr := 41211 } }
    let free : State := { evicting with tsc := { evicting.tsc with transfer := none } }
    (cancelled.running = true ∧ cancelled.tsc.transfer = some (.write p true)) ∧
      (evicting.running = true ∧ evicting.tsc.transfer = some (.write p false)) ∧
      (live.sup.part = .run ∧ live.tsc.transfer = none ∧ live.tsc.flush.head? = some p ∧
        ringAt live.tsc.ring live.tsc.writePtr = some (fullPage 3 94048 1)) ∧
      (free.sup.part = .run ∧ free.tsc.flush.head? = some p ∧ ringAt free.tsc.ring free.tsc.writePtr = none) := by
  decide +kernel

/-- An evaluation of bins 0 to `kHi` of channel 2 that waits for page 0. -/
def evalTo (kHi : Nat) : Eval := ⟨2, false, [⟨0, kHi, false, 0, 0, 0, 0, none, false, false, false⟩], 0⟩
def bins0 : List BinClass := List.replicate 64 (.closed ⟨1, 1, 1, BinFlags.none⟩)
def reading (who : Evaluator) (e : PseEngine) (l : LocalEngine) : State :=
  { s12 with
    tsc := { s12.tsc with transfer := some (.read who bins0) }, pse := { s12.pse with engine := e }
    req := { s12.req with localEval := l } }

def goesOn (x : EvalNext) : Bool :=
  match x with
  | .more _ => true
  | .finished _ => false

/-- The last used bin in the page (63) and beyond it (64), for both evaluators; draining; for classifying a bin below the horizon,
at the open bin, and held in the current page; two evaluators that wait, the mark naming either; and a peer read whose evaluation MUTED
has abandoned. -/
theorem witness_PageReadCompletesAndClassifies :
    let r : ServiceReq := ⟨7, 0, .sampleFetch, []⟩
    let a := reading .peer (.evaluating r (evalTo 64)) .idle
    let b := reading .localEval .idle (.running 3 (evalTo 64))
    let d := reading .localEval .idle .draining
    let c : TscChan := ⟨2, [(1, 9)], 100, ⟨2, 2, 128, [⟨5, 5, 5, BinFlags.none⟩]⟩⟩
    let s : State := { State.withOdometer s12 (129 * 250) with tsc := { s12.tsc with chans := [c], ring := [(9, fullPage 2 1 4)] } }
    let both (m : Evaluator) : State := { s12 with
      tsc := { s12.tsc with mark := m }, pse := { s12.pse with engine := .evaluating r (evalTo 64) }
      req := { s12.req with localEval := .running 3 (evalTo 64) } }
    let f : State := { b with req := { b.req with localEval := .running 3 (evalTo 63)
                                                  fetches := b.req.fetches.set 3 ⟨1, some ⟨⟨0, 0, 1, ⟨12, 1⟩, 0, 5, 0⟩, true, 0, false, none⟩⟩ } }
    ((reading .peer .idle .idle).tsc.transfer = some (.read .peer bins0) ∧ (reading .peer .idle .idle).pse.engine = .idle) ∧
      (∀ m ∈ [Evaluator.peer, .localEval], (both m).tsc.transfer = none ∧ (both m).tsc.flush = [] ∧ (both m).tsc.mark = m) ∧
      (s12.tsc.transfer = none ∧ s12.pse.engine = .idle ∧ s12.req.localEval = .idle) ∧
      (f.running = true ∧ f.tsc.transfer = some (.read .localEval bins0) ∧ f.req.localEval = .running 3 (evalTo 63) ∧
        f.req.fetches[3]? = some ⟨1, some ⟨⟨0, 0, 1, ⟨12, 1⟩, 0, 5, 0⟩, true, 0, false, none⟩⟩) ∧
      ((State.withPart s .runDegraded).sup.part = .runDegraded ∧ s.sup.part ≠ .runDegraded) ∧
      (a.running = true ∧ a.tsc.transfer = some (.read .peer bins0) ∧ a.pse.engine = .evaluating r (evalTo 64) ∧
        goesOn ((evalTo 64).feed bins0) = true ∧ goesOn ((evalTo 63).feed bins0) = false ∧ a.bus.muted = false) ∧
      (b.running = true ∧ b.tsc.transfer = some (.read .localEval bins0) ∧ b.req.localEval = .running 3 (evalTo 64)) ∧
      (d.tsc.transfer = some (.read .localEval bins0) ∧ d.req.localEval = .draining) ∧
      (s.tsc.chan 2 = some c ∧ s.settings.channel 2 = some ⟨2, 17, 3⟩ ∧ 64 * 1 + 35 < c.horizon ∧
        c.horizon ≤ 64 * 2 + 1 ∧ s.smp.odometer / 250 ≤ 64 * 2 + 1 ∧
        c.horizon ≤ 64 * 2 ∧ 64 * 2 < s.smp.odometer / 250 ∧ c.cur.first ≤ 64 * 2 ∧ c.cur.bins[0]?.isSome ∧ c.cur.no = 2 ∧
        c.horizon ≤ 64 * 1 + 36 ∧ c.cur.no ≠ 1 ∧ s.tsc.flush.find? (fun q => q.chan == c.index && q.no == 1) = none ∧
        c.dir.find? (fun e => e.1 == 1) = some (1, 9) ∧ ringAt s.tsc.ring 9 = some (fullPage 2 1 4)) := by decide +kernel

/-- Bytes that fail by their number, by their CRC, by their kind, and by a lane count of 0 and of 9 in a CUT. -/
theorem witness_LineFeedFailureCounted :
    let whole (body : List Byte) : List Byte := body ++ beBytes 2 (crcBytes body).toNat
    (([] : List Byte).length ≠ field [] 0 1 + 4 ∧
      field [0, 4, 1, 2] (field [0, 4, 1, 2] 0 1 + 2) 2 ≠ (crcBytes ([0, 4, 1, 2].take (field [0, 4, 1, 2] 0 1 + 2))).toNat ∧
      (∀ bs ∈ [whole [0, 7], whole [6, 6, 0, 0, 0, 0, 1, 0], whole [6, 6, 0, 0, 0, 0, 1, 9]], parseLf bs = none ∧
        bs.length = field bs 0 1 + 4 ∧ field bs (field bs 0 1 + 2) 2 = (crcBytes (bs.take (field bs 0 1 + 2))).toNat) ∧
      (parseLf (whole [6, 6, 0, 0, 0, 0, 1, 8])).isSome) ∧
    s12.receives = true ∧ (Instr.sampleSet []).wf = false ∧ (Instr.declare ⟨7, 1⟩ true false 0 (some 1)).wf = false ∧
      (Instr.cut false 1 9 none).wf = false := by decide +kernel

/-- Positions at both ends of the range, one beyond each end, and absent. -/
theorem witness_EventPositionSettled :
    tandem.lfr.lastPos ≤ tandem.smp.odometer ∧ tandem.lfr.lastPos = (49950000 : BitVec 48).toNat ∧
      (50000410 : BitVec 48).toNat = tandem.smp.odometer ∧ tandem.smp.odometer < (50000411 : BitVec 48).toNat ∧
      (49949999 : BitVec 48).toNat < tandem.lfr.lastPos := by decide +kernel

def declared (n : Nat) : State :=
  { s31 with ctr := { s31.ctr with decls := (List.range n).map fun i => ⟨i, ⟨7, 1⟩, true, some 5, none, .none⟩ } }

theorem witness_DeclareQueued :
    (Instr.declare ⟨12, 4587⟩ true false 0 none).wf = true ∧ (declared 8).receives = true ∧ 8 ≤ (declared 8).ctr.decls.length ∧
      (declared 7).receives = true ∧ (declared 7).ctr.decls.length < 8 ∧ (declared 7).settings.station = 31 ∧
      (declared 7).lch.cache.find? (fun r => r.coil == ⟨12, 4587⟩) = some rec4587 ∧
      (declared 7).lch.cache.find? (fun r => r.coil == ⟨12, 4588⟩) = none := by decide +kernel

theorem tandem_sound : tandem.ctr.Sound := by constructor <;> decide +kernel

/-- Sixteen DONE records, the seventeenth to come. -/
def crowded : State :=
  { tandem with ctr := { tandem.ctr with
    segStart := 0
    entries := (List.range 16).map fun i => ⟨i, ⟨7, BitVec.ofNat 32 i⟩, false, none, none, .none, i * 1000, some (i * 1000 + 1000), false⟩ } }

theorem crowded_sound : crowded.ctr.Sound := by constructor <;> decide +kernel
theorem s12_sound : s12.ctr.Sound := by constructor <;> decide +kernel

theorem witness_JoinAddsRunning :
    tandem.receives = true ∧ tandem.ctr.Sound ∧ tandem.ctr.running.isSome ∧ tandem.ctr.entries.length < 16 ∧
      (crowded.receives = true ∧ crowded.ctr.Sound ∧ crowded.ctr.running = none ∧ crowded.ctr.entries.head?.isSome ∧
        16 ≤ crowded.ctr.entries.length) ∧
      (s12.receives = true ∧ s12.ctr.Sound ∧ s12.ctr.running = none ∧ s12.ctr.entries.length < 16) := by
  refine ⟨?_, tandem_sound, ?_, ?_, ⟨?_, crowded_sound, ?_⟩, ?_, s12_sound, ?_⟩ <;> decide +kernel

theorem witness_TailEventEndsRunning :
    tandem.receives = true ∧ tandem.ctr.Sound ∧ tandem.ctr.running.isSome ∧ s12.receives = true ∧ s12.ctr.Sound ∧
      s12.ctr.running = none := by
  refine ⟨?_, tandem_sound, ?_, ?_, s12_sound, ?_⟩ <;> decide +kernel

/-- SCRAP; an empty segment; a segment one millimetre too long. -/
theorem witness_CutWithoutRecord :
    s12.receives = true ∧ (Instr.cut false 1 8 none).wf = true ∧ (Instr.cut true 1 1 none).wf = true ∧
      (takePosition none s12).1 ≤ s12.ctr.segStart ∧
      (let s := State.withOdometer s12 (2 ^ 32); s.receives = true ∧ 2 ^ 32 - 1 < (takePosition none s).1 - s.ctr.segStart) := by
  decide +kernel

/-- The longest segment and eight lanes, in a table with room for just these. -/
theorem witness_CutMakesExitRecords :
    let s := State.withOdometer s12 (2 ^ 32 - 1)
    s.receives = true ∧ (Instr.cut false 4587 8 none).wf = true ∧ s.ctr.Sound ∧ s.ctr.segStart < (takePosition none s).1 ∧
      (takePosition none s).1 - s.ctr.segStart ≤ 2 ^ 32 - 1 ∧ s.ctr.exits.length + (8 : Byte).toNat ≤ 1024 ∧ s.ctr.exits = [] := by
  refine ⟨?_, ?_, s12_sound, ?_⟩ <;> decide +kernel

def exitOf (n : Nat) : ExitRec := ⟨⟨12, BitVec.ofNat 32 n⟩, 0, 10, 0, 0, 1, 1, false, .final [plainPiece 10 .unknown 0 0 false] false⟩
def tableOf (n : Nat) : State := { s12 with ctr := { s12.ctr with exits := (List.range n).map exitOf } }

theorem tableOf_sound (n : Nat) (h : n ≤ 1024) : (tableOf n).ctr.Sound := by
  refine ⟨Nat.zero_le _, Nat.zero_le _, Nat.zero_le _, ?_, ?_⟩
  · show ((List.range n).map exitOf).length ≤ 1024
    simpa using h
  · show (((List.range n).map exitOf).map (·.coil)).Nodup
    rw [List.map_map]
    refine List.Nodup.map_on ?_ List.nodup_range
    intro x hx y hy e
    have e' : BitVec.ofNat 32 x = BitVec.ofNat 32 y := congrArg Coil.seq e
    have := congrArg BitVec.toNat e'
    simp only [BitVec.toNat_ofNat] at this
    have := List.mem_range.1 hx
    have := List.mem_range.1 hy
    omega

/-- 1,024 records and a new coil; 1,024 with the coil among them; one with room. -/
theorem witness_ExitRecordPlaced :
    (tableOf 1024).ctr.Sound ∧ (tableOf 3).ctr.Sound ∧
      (let others (n m : Nat) := (tableOf n).ctr.exits.filter fun y => y.coil != (exitOf m).coil
       (1024 ≤ (others 1024 2000).length ∧ (others 1024 2000).head?.isSome) ∧
         ((others 1024 5).length < 1024 ∧ (others 1024 5).length ≠ (tableOf 1024).ctr.exits.length) ∧
         ((tableOf 3).ctr.exits.length < 1024 ∧ others 3 2000 = (tableOf 3).ctr.exits)) :=
  ⟨tableOf_sound _ (by decide), tableOf_sound _ (by decide), by decide +kernel⟩

theorem witness_FinalizationTimerRunsOut :
    tailing.running = true ∧ tailing.ctr.Sound ∧
      ∃ r ∈ tailing.ctr.exits, r.body = .pending [⟨⟨7, 9120⟩, false, 50004000, 51798000, some 5, false⟩] 0 :=
  ⟨by decide +kernel, by constructor <;> decide +kernel, _, List.mem_cons_self, rfl⟩

/-- Nine entry records end to end: more than eight overlaps; and eight. -/
theorem witness_OverlapListCoversSegment :
    let es (n : Nat) : List Entry := (List.range n).map fun i => ⟨i, ⟨7, BitVec.ofNat 32 i⟩, true, none, none, .none, 10 * i, some (10 * i + 10), false⟩
    (∀ n ∈ [8, 9], (es n).Pairwise fun e f => e.eEnd.getD (10 * n) ≤ f.eStart) ∧ 0 < 90 ∧
      (coverSegment 80 0 (es 8)).length ≤ 8 ∧ 8 < (coverSegment 90 0 (es 9)).length := by decide +kernel

theorem witness_LengthQueryTimesOut :
    let b (tries : Nat) : LengthBusy := ⟨⟨7, 9120⟩, 3, 3, tries, false, some 0⟩
    let s (tries : Nat) : State := { asking with ctr := { asking.ctr with slots := asking.ctr.slots.set 2 ⟨1, some (b tries)⟩ } }
    ∀ n ∈ [2, 3], (s n).running = true ∧ (s n).ctr.slots[(2 : BitVec 3).toNat]? = some ⟨1, some (b n)⟩ ∧ (b n).timer = some 0 ∧
      (n = 2 → (b n).tries < (b n).allowed ∧ (s n).bus.muted = false ∧ (State.silenced (s n)).running = true ∧
        (State.silenced (s n)).bus.muted = true) ∧ (n = 3 → (b n).allowed ≤ (b n).tries) := by decide +kernel

/-- A WANTED declaration behind `n` busy slots, with or without a WANTED entry record. -/
def wanting (n : Nat) (entry : Bool) : State :=
  { s12 with ctr := { s12.ctr with
      decls := [⟨3, ⟨7, 9120⟩, true, none, none, .asked⟩, ⟨4, ⟨7, 9121⟩, true, none, none, .wanted⟩]
      entries := if entry then [⟨1, ⟨7, 9119⟩, true, none, none, .wanted, 0, none, false⟩] else []
      slots := (s12.ctr.slots.take n).map (fun x => { x with busy := some ⟨⟨7, 1⟩, 9, 3, 1, false, none⟩ }) ++ s12.ctr.slots.drop n } }

/-- The first slot and the last one; a WANTED entry record before a declaration; no WANTED record, and no idle slot. -/
theorem witness_LengthQueryTimesOut_start :
    (∀ n ∈ [0, 7], ∀ e ∈ [true, false], let s := wanting n e
      s.running = true ∧ s.ctr.slots[n]? = some ⟨0, none⟩ ∧ (∀ x ∈ s.ctr.slots.take n, x.busy.isSome) ∧ s.bus.muted = false ∧
        (State.silenced s).bus.muted = true ∧
        (s.ctr.entries.find? fun e => e.lq == .wanted).map (fun e => (e.id, e.coil)) = if e then some (1, ⟨7, 9119⟩) else none) ∧
      ((wanting 7 false).ctr.decls.find? fun d => d.lq == .wanted).map (fun d => (d.id, d.coil)) = some (4, ⟨7, 9121⟩) ∧
      (∀ x ∈ (wanting 8 true).ctr.slots, x.busy.isSome) ∧ (s12.ctr.entries = [] ∧ s12.ctr.decls = []) := by decide +kernel

/-- R40, R42: the slot's next generation, 1 + 2 attempts, and the LINEAGE-QUERY with tag unit 2, slot 7, generation 1; under MUTED the
slot stays idle. -/
theorem test_startLengthQuery :
    (let t := (startLengthQuery (wanting 7 false)).getD s12
     t.ctr.slots[7]? = some ⟨1, some ⟨⟨7, 9121⟩, 4, 3, 1, false, none⟩⟩ ∧ t.ctr.decls.map (·.lq) = [.asked, .asked] ∧
       t.bus.waiting.map (fun e => (e.frame.kind, e.frame.dest, e.frame.tag)) = [(.lineageQuery, 7, 0x9D)]) ∧
    let t := (startLengthQuery (State.silenced (wanting 7 false))).getD s12
    t.ctr.slots[7]? = some ⟨0, none⟩ ∧ t.ctr.decls.map (·.lq) = [.asked, .none] ∧ t.bus.waiting = [] := by decide +kernel

/-- An UNSCALED piece of each cause: RUNNING, BROKEN, RESUMED, without a length, one millimetre too long; the last entry of the list
has its link cut. -/
theorem witness_PiecesBuiltFromOverlaps_unscaled :
    let v : Overlap := ⟨⟨7, 9120⟩, false, 10, 20, some 5, false⟩
    let e (length offset : Option Nat) (eEnd : Option Nat) (broken : Bool) : Entry :=
      ⟨5, ⟨7, 9120⟩, false, length, offset, .none, 10, eEnd, broken⟩
    let es := [e (some 9) none none false, e (some 9) none (some 20) true, e (some 9) (some 0) (some 20) false,
      e none none (some 20) false, e (some 9) none (some (10 + 2 ^ 32)) false]
    v.coil ≠ .unknown ∧ v.x0 < v.x1 ∧ (∀ y ∈ es, v.link.bind (fun id => [y].find? fun x => x.id == id) = some y ∧ y.eStart ≤ v.x0 ∧
      (y.eEnd = none ∨ y.broken = true ∨ y.offset ≠ none ∨ y.length = none ∨ 2 ^ 32 - 1 < y.eEnd.getD v.x1 - y.eStart)) ∧
      ({ v with link := none } : Overlap).link.bind (fun id => es.find? fun x => x.id == id) = none := by decide +kernel

/-- 4.5: 12:4587 over 7:9120, TAIL-FIRST and HEAD-FIRST, and the whole coil. -/
theorem witness_PiecesBuiltFromOverlaps :
    let v (h : Bool) : Overlap := ⟨⟨7, 9120⟩, h, 50004000, 51798000, some 5, false⟩
    let e : Entry := ⟨5, ⟨7, 9120⟩, false, some 600000, none, .none, 50000000, some 51800000, false⟩
    let w : Overlap := ⟨⟨7, 9120⟩, false, 50000000, 51800000, some 5, false⟩
    ([v false].map (·.x0)).head? = some 50004000 ∧ ([v false].map (·.x1)).getLast? = some 51798000 ∧
      (∀ y ∈ [v false], y.x0 < y.x1) ∧ [v false].IsChain (fun x y => x.x1 = y.x0) ∧
      ∀ y ∈ [v false, v true, w], y.coil ≠ .unknown ∧ y.link.bind (fun id => [e].find? fun x => x.id == id) = some e ∧
        e.eEnd = some 51800000 ∧ e.length = some 600000 ∧ e.broken = false ∧ e.offset = none ∧ e.eStart < 51800000 ∧
        51800000 - e.eStart ≤ 2 ^ 32 - 1 ∧ e.eStart ≤ y.x0 ∧ y.x0 < y.x1 ∧ y.x1 ≤ 51800000 := by decide +kernel

/-- The piece of 4.5 at both ends, a piece of one boundary, a point whose anchor it holds, and one whose anchor is at the length. -/
theorem witness_BoundaryMap :
    (∀ p ∈ [plainPiece 1794000 ⟨7, 9120⟩ 667 598667 true, plainPiece 1 ⟨7, 9120⟩ 5 5 false], ∀ t ∈ [p.n0, p.n1],
      p.n0 < p.n1 ∧ p.sLo ≤ p.sHi ∧ p.n0 ≤ t ∧ t ≤ p.n1 ∧ p.sHi ≤ 2 ^ 32 - 1 ∧ p.n1 ≤ 2 ^ 32 - 1) ∧
      (rec4587.length ≤ (1794000 + 1794000) / 2 ∧
        rec4587.pieces.getLast? = some (plainPiece 1794000 ⟨7, 9120⟩ 667 598667 true)) ∧
      (∀ source ∈ [Coil.unknown, ⟨63, 0⟩, ⟨0, 1⟩, ⟨1, 0⟩, ⟨62, 0⟩],
        let r : LineageRec := ⟨⟨7, 1⟩, 9, 0, 0, 1, 1, false, [plainPiece 9 source 0 0 false]⟩
        (0 + 9) / 2 < r.length ∧ r.pieces.find? (fun y => decide (y.n0 ≤ (0 + 9) / 2 ∧ (0 + 9) / 2 < y.n1)) =
          some (plainPiece 9 source 0 0 false)) := by decide +kernel

theorem witness_AnnouncementKept :
    let p := recordBytes 0 rec4587
    (s40.receives = true ∧ (Instr.coilAnnounce 12 63 0 p).wf = true ∧ (12 : BitVec 6) ≠ 0 ∧ (12 : BitVec 6) ≠ 63 ∧
        12 ≠ s40.settings.station) ∧
      (field p 0 1 < 64 ∧ parseRecord p = some rec4587 ∧ rec4587.coil.station = 12 ∧ 0 < rec4587.length ∧ 1 ≤ rec4587.lane ∧
        rec4587.lane ≤ rec4587.lanes ∧ 1 ≤ rec4587.pieces.length ∧ rec4587.pieces.length ≤ 8 ∧ piecesMeet 0 rec4587.pieces = true ∧
        lastEnd rec4587.pieces = rec4587.length ∧ (∃ t ∈ s40.lch.templates, t.enable = true ∧
          rec4587.coil.station &&& t.mask.station = t.base.station &&& t.mask.station ∧
          rec4587.coil.seq &&& t.mask.seq = t.base.seq &&& t.mask.seq)) ∧
      parseRecord [] = none ∧ 64 ≤ field (recordBytes 1 rec4587) 0 1 ∧
      (∀ t ∈ s31.lch.templates, t.enable = false) ∧ (∀ y ∈ s31.lch.cache, y.coil ≠ ⟨9, 3310⟩) := by decide +kernel

/-- An empty queue; a muted part with a frame that is not the final PRESENCE; a frame that may start. -/
theorem witness_IdleLineStartsHead :
    let e := queued .lineageReply .pseReply false
    let s := State.withQueue s12 [e]
    s12.receives = true ∧ s12.bus.queue = [] ∧ (State.silenced s).bus.muted = true ∧
      (∀ x ∈ (State.silenced s).bus.queue, x.owner ≠ .busFinal ∧ x.onLine = false) ∧
      s.receives = true ∧ (∀ x ∈ s.bus.queue, x.onLine = false) ∧ s.bus.queue[0]? = some e ∧
      (∀ (i : Nat) (x : TxEntry), s.bus.queue[i]? = some x →
        e.frame.kind.cls ≤ x.frame.kind.cls ∧ (x.frame.kind.cls = e.frame.kind.cls → 0 ≤ i)) ∧ s.bus.muted = false := by
  have head : ∀ (q : TxEntry) (i : Nat) (x : TxEntry), [q][i]? = some x →
      q.frame.kind.cls ≤ x.frame.kind.cls ∧ (x.frame.kind.cls = q.frame.kind.cls → 0 ≤ i)
    | q, 0, _, h => by cases h; exact ⟨le_refl _, fun _ => le_refl _⟩
  intro e s
  and_intros <;> first | exact head _ | decide +kernel

theorem witness_StuckLineAndBadFrame :
    s12.receives = true ∧ judge (List.replicate 8 false) = .bad ∧ judge (List.replicate 7 false) = .incomplete := by
  decide +kernel

/-- A frame on the line one below its limits, and a withdrawn one at them. -/
theorem witness_FrameReturnsToQueue :
    let e : TxEntry := { queued .lineageReply .pseReply true with wait := 199, collisions := 1 }
    let w : TxEntry := { e with withdrawn := true, wait := 200, collisions := 2 }
    ∀ x ∈ [e, w], (State.withQueue s12 [x]).receives = true ∧ (State.withQueue s12 [x]).bus.queue[0]? = some x ∧ x.onLine = true ∧
      (x = e → x.withdrawn = false ∧ x.wait < s12.settings.queueWait ∧ x.collisions < 2) ∧ (x = w → x.withdrawn = true) := by
  decide +kernel

theorem witness_FrameDropped :
    let third : TxEntry := { queued .presence .rosStart true with collisions := 2 }
    let late : TxEntry := { queued .coilAnnounce .ctrAnnounce true with wait := 200, collisions := 1 }
    let off : TxEntry := { late with onLine := false }
    (∀ e ∈ [third, late, off], let s := State.withQueue s12 [e]
      s.running = true ∧ s.sup.resetPin = false ∧ s.bus.queue[0]? = some e ∧ e.withdrawn = false ∧ (e.owner = .ctrAnnounce ∨ e.owner = .rosStart)) ∧
      (third.onLine = true ∧ 2 ≤ third.collisions) ∧ (late.onLine = true ∧ late.collisions < 2 ∧ s12.settings.queueWait ≤ late.wait) ∧
      (off.onLine = false ∧ s12.settings.queueWait ≤ off.wait ∧ (0 : BitVec 4).toNat = 0) := by decide +kernel

/-- The third collision of a frame of each slot owner, with an attempt left, with none, and under MUTED. -/
theorem witness_FrameDropped_slots :
    let line (k : FrameKind) (o : Owner) (tag : Byte) (s : State) : State :=
      State.withQueue s [{ frame := ⟨k, 7, tag, []⟩, owner := o, collisions := 2, wait := 0, onLine := true, withdrawn := false }]
    let l (n : Nat) : LengthBusy := ⟨⟨7, 9120⟩, 3, 3, n, false, none⟩
    let q (n : Nat) : QueryBusy := ⟨⟨7, 9120⟩, .resolution, 3, n, false, none⟩
    let f (n : Nat) : FetchBusy := ⟨⟨0, 0, 3, ⟨7, 9120⟩, 298667, 297667, 3⟩, false, n, false, none⟩
    let a (n : Nat) : State := line .lineageQuery (.ctrQuery 7) (makeTag 2 7 3)
      { s12 with ctr := { s12.ctr with slots := s12.ctr.slots.set 7 ⟨3, some (l n)⟩ } }
    let b (n : Nat) : State := line .lineageQuery (.reqQuery 7) (makeTag 1 7 3)
      { s12 with req := { s12.req with queries := s12.req.queries.set 7 ⟨3, some (q n)⟩ } }
    let c (n : Nat) : State := line .sampleFetch (.reqFetch 15) (makeTag 0 15 3)
      { s12 with req := { s12.req with fetches := s12.req.fetches.set 15 ⟨3, some (f n)⟩ } }
    let d (n : Nat) : State := line .descentQuery .reqDescent (makeTag 3 0 3) { s12 with req := { s12.req with
      walk := ⟨1, [⟨⟨12, 4587⟩, 0, .unknown, none, .root⟩], 0, false, 0⟩, collector := ⟨3, .offering, n, 0, 0, []⟩ } }
    ∀ n ∈ [2, 3], (∀ x ∈ [a n, b n, c n, d n], x.running = true ∧ x.sup.resetPin = false ∧ x.bus.muted = false ∧
        (State.silenced x).bus.muted = true ∧ ∀ e ∈ x.bus.queue.head?, e.onLine = true ∧ 2 ≤ e.collisions ∧ e.withdrawn = false) ∧
      (a n).ctr.slots[7]? = some ⟨BitVec.ofNat 2 ((makeTag 2 7 3).toNat % 4), some (l n)⟩ ∧
      (b n).req.queries[7]? = some ⟨BitVec.ofNat 2 ((makeTag 1 7 3).toNat % 4), some (q n)⟩ ∧
      (c n).req.fetches[15]? = some ⟨BitVec.ofNat 2 ((makeTag 0 15 3).toNat % 4), some (f n)⟩ ∧
      ((d n).req.collector.state = .offering ∧ makeTag 3 0 3 = BitVec.ofNat 8 (192 + (d n).req.collector.gen.toNat) ∧
        (d n).req.walk.places[(d n).req.walk.expanded]?.isSome) ∧
      (n = 2 → n < (l n).allowed ∧ n < (q n).allowed ∧ n < (f n).group.allowed ∧ n < 1 + (d n).settings.retryLimit) ∧
      (n = 3 → (l n).allowed ≤ n ∧ (q n).allowed ≤ n ∧ (f n).group.allowed ≤ n ∧ 1 + (d n).settings.retryLimit ≤ n) := by
  decide +kernel

theorem witness_FrameSentReported :
    let line (k : FrameKind) (o : Owner) (tag : Byte) (s : State) : State :=
      State.withQueue s [⟨⟨k, 7, tag, []⟩, o, 0, 0, true, false⟩]
    let a := line .lineageQuery (.ctrQuery 2) (makeTag 2 2 1) { asking with ctr := { asking.ctr with
      slots := asking.ctr.slots.set 2 ⟨1, some ⟨⟨7, 9120⟩, 3, 3, 1, false, none⟩⟩ } }
    let b := line .lineageQuery (.reqQuery 3) (makeTag 1 3 2) (querying none)
    let f : FetchBusy := ⟨⟨1, 0, 3, ⟨7, 9120⟩, 298667, 297667, 3⟩, false, 1, false, none⟩
    let c := line .sampleFetch (.reqFetch 15) (makeTag 0 15 3) { s12 with req := { s12.req with
      fetches := s12.req.fetches.set 15 ⟨3, some f⟩ } }
    let d := line .descentQuery .reqDescent (makeTag 3 0 2) { s12 with req := { s12.req with
      collector := { s12.req.collector with gen := 2, state := .offering } } }
    let e := line .coilAnnounce .ctrAnnounce 0 s12
    (∀ s ∈ [a, b, c, d, e], s.receives = true ∧ ∀ x ∈ s.bus.queue.head?, x.onLine = true ∧ x.withdrawn = false) ∧
      (a.ctr.slots[2]? = some ⟨BitVec.ofNat 2 ((makeTag 2 2 1).toNat % 4), some ⟨⟨7, 9120⟩, 3, 3, 1, false, none⟩⟩) ∧
      (b.req.queries[3]? = some ⟨BitVec.ofNat 2 ((makeTag 1 3 2).toNat % 4), some ⟨⟨5, 7730⟩, .resolution, 3, 1, false, none⟩⟩) ∧
      (c.req.fetches[15]? = some ⟨BitVec.ofNat 2 ((makeTag 0 15 3).toNat % 4), some f⟩) ∧
      (d.req.collector.state = .offering ∧ makeTag 3 0 2 = BitVec.ofNat 8 (192 + d.req.collector.gen.toNat)) := by decide +kernel

/-- A record that is announce-pending, and reports of PSE and REQ behind each other in the waiting frames. -/
def offering (frames : List (FrameKind × Owner)) (mark : Bool) (e : PseEngine) : State :=
  { s12 with
    bus := { s12.bus with waiting := frames.map fun x => ⟨⟨x.1, 7, 0, []⟩, x.2, 0, 0, false, false⟩ }
    pse := { s12.pse with engine := e }
    ctr := { s12.ctr with exits := [exitOf 1, { exitOf 2 with body := .final [plainPiece 10 .unknown 0 0 false] mark }] } }

def nextPart : Frame := ⟨.descentReply, 7, 0, [1]⟩

/-- The reply that has waited longer before a later one and before a fetch; a COIL-ANNOUNCE against a waiting class 3 and against a
waiting PRESENCE; the queue with 15 frames and with 16. -/
theorem witness_FrameSentReported_fill :
    let s := offering [(.sampleFetch, .reqFetch 0), (.descentReply, .pseReply), (.lineageReply, .pseReply)] true (.holding [nextPart])
    let late := offering [(.presence, .rosStart)] true .idle
    let q (n : Nat) : List TxEntry := List.replicate n (queued .sampleFetch (.reqFetch 0) false)
    (∀ n ∈ [0, 15], (State.withQueue s (q n)).running = true ∧ (State.withQueue s (q n)).bus.queue.length < 16) ∧
      16 ≤ (State.withQueue s (q 16)).bus.queue.length ∧ (State.withPart s .checking).running = false ∧
      (s.bus.waiting[1]?.map (·.frame.kind) = some .descentReply ∧
        (∀ x ∈ s.bus.waiting.zipIdx, 1 ≤ x.1.frame.kind.cls ∧ (x.1.frame.kind.cls = 1 → 1 ≤ x.2))) ∧
      (late.running = true ∧ (∀ x ∈ late.bus.waiting, 3 < x.frame.kind.cls) ∧
        (late.ctr.exits.find? fun r => match r.body with
          | .final _ mark => mark
          | .pending .. => false).map (fun r => (r.coil, r.body)) =
            some (⟨12, 2⟩, .final [plainPiece 10 .unknown 0 0 false] true)) ∧
      ((offering [] false .idle).bus.waiting = [] ∧ ∀ r ∈ (offering [] false .idle).ctr.exits, r.body =
        .final [plainPiece 10 .unknown 0 0 false] false) := by decide +kernel

/-- R90, R91: the reply joins before the fetch, and PSE's next part waits; the announcement joins before a PRESENCE and clears the mark. -/
theorem test_fillStep :
    (let t := (fillStep (offering [(.sampleFetch, .reqFetch 0), (.descentReply, .pseReply)] true (.holding [nextPart]))).getD s12
     t.bus.queue.map (·.frame.kind) = [.descentReply] ∧ t.bus.waiting.map (·.frame) = [⟨.sampleFetch, 7, 0, []⟩, nextPart] ∧
       t.pse.engine = .holding []) ∧
    let t := (fillStep (offering [(.presence, .rosStart)] true .idle)).getD s12
    t.bus.queue.map (·.frame.kind) = [.coilAnnounce] ∧ t.bus.waiting.map (·.frame.kind) = [.presence] ∧
      t.ctr.exits.map (·.body) = List.replicate 2 (.final [plainPiece 10 .unknown 0 0 false] false) := by decide +kernel

/-- The longest payload, in a frame and in the queue's first frame on the line. -/
theorem witness_FrameBitsRoundTrip :
    let e : TxEntry := ⟨⟨.sampleReply, 7, 0, List.replicate 160 255⟩, .pseReply, 0, 0, true, false⟩
    e.frame.payload.length ≤ 160 ∧ (State.withQueue s12 [e]).bus.queue[0]? = some e ∧ e.onLine = true ∧
      0 < (lineBits 0 1 1 63 0 []).length := by decide +kernel

/-- A violation at the start, within the payload and within the CRC; a length byte of 161; a wrong CRC; and the right CRC is its own
witness. -/
theorem witness_BadFrameCauses :
    takeFrameBits 36 true 0 [] ([] ++ List.replicate 7 false) ≠ .violation ∧ ([] : List Bool).length ≤ 28 ∧
      (let head := List.replicate 27 false ++ natBits 8 161; head.length = 35 ∧ 160 < bitsNat (head.drop 27)) ∧
      ([] : List Byte).length ≤ 160 ∧ crcBits (frameBody 0 1 1 63 0 []) ≠ crcBits (frameBody 0 1 1 63 0 []) + 1 ∧
      (let region (crc : BitVec 16) := stuff true 0 (false :: (frameBody 0 1 1 63 0 [0] ++ natBits 16 crc.toNat))
       ∀ x ∈ [((5 : BitVec 16), 7, false), (5, 47, false), (0xFFFF, 64, true)],
         ((region x.1).take x.2.1).drop (x.2.1 - 7) = List.replicate 7 x.2.2 ∧ x.2.1 < (region x.1).length) := by decide +kernel

theorem witness_DuplicateStationMutes :
    (Instr.presence 12 63 0 [1, 17]).wf = true ∧ s12.settings.station = 12 ∧ (12 : BitVec 6) ≠ 0 ∧ (12 : BitVec 6) ≠ 63 ∧
      s12.receives = true ∧ s12.bus.muted = false ∧ (State.silenced s12).receives = true ∧ (State.silenced s12).bus.muted = true := by
  decide +kernel

/-- Its own number heard while a length query, a resolution and a fetch have their last attempt queued and the collector its query, and
one fetch has its attempt sent: the four end, and the fifth keeps its timer. -/
theorem test_duplicate_ends_slots :
    let e (k : FrameKind) (tag : Byte) (o : Owner) : TxEntry := ⟨⟨k, 7, tag, []⟩, o, 0, 0, false, false⟩
    let g (n : Nat) : Group := ⟨0, n, 1, ⟨7, 9120⟩, 0, 5, 3⟩
    let s : State := { s12 with
      bus := { s12.bus with
        queue := [e .lineageQuery (makeTag 2 2 1) (.ctrQuery 2), e .sampleFetch (makeTag 0 15 3) (.reqFetch 15)]
        waiting := [e .lineageQuery (makeTag 1 7 3) (.reqQuery 7), e .descentQuery (makeTag 3 0 2) .reqDescent] }
      ctr := { s12.ctr with
        decls := [⟨3, ⟨7, 9120⟩, true, none, none, .asked⟩]
        slots := s12.ctr.slots.set 2 ⟨1, some ⟨⟨7, 9120⟩, 3, 3, 3, false, none⟩⟩ }
      req := { (collecting 0 0).req with
        engine := .playing, collector := { (collecting 0 0).req.collector with state := .offering }
        queries := s12.req.queries.set 7 ⟨3, some ⟨⟨7, 9120⟩, .place, 3, 3, false, none⟩⟩
        fetches := (s12.req.fetches.set 15 ⟨3, some ⟨g 0, false, 3, false, none⟩⟩).set 1 ⟨2, some ⟨g 1, false, 1, false, some 9⟩⟩
        depths := [⟨List.replicate 2 (.traced ⟨7, 9120⟩ 0 5 false false false false), [none, none]⟩] } }
    let t := after (.presence 12 63 0 [0, 17]) s
    t.ctr.slots[2]? = some ⟨1, none⟩ ∧ t.ctr.decls.map (·.lq) = [.none] ∧ t.req.queries[7]? = some ⟨3, none⟩ ∧
      t.req.fetches[15]? = some ⟨3, none⟩ ∧ t.req.fetches[1]? = some ⟨2, some ⟨g 1, false, 1, false, some 9⟩⟩ ∧
      (t.req.depths.map fun d => d.results.map fun r => r.map (·.outcome)) = [[some (some .unreachable), none]] ∧
      t.req.collector.state = .idle ∧ t.req.walk.dropped = 1 := by decide +kernel

/-- Frames of the own number, and ill-formed replies of another station. -/
theorem witness_FramesWithoutContent_own :
    (∀ c ∈ [Instr.lineageQuery 12 12 0 [], .coilAnnounce 12 63 0 [], .descentReply 12 63 0 [], .time 12 13 0 [],
        .undefinedFrameKind 5 12 9 63 0 [], .lineageReply 7 12 0 [], .sampleReply 7 12 0 [], .descentReply 7 63 0 []], c.wf = true) ∧
      s12.settings.station = 12 ∧ parseLineageAnswer [] = none ∧ parseFetchResult [] = none ∧ parseDescentPart [] = none := by
  decide +kernel

theorem witness_FramesWithoutContent :
    s12.receives = true ∧ (Instr.time 0 63 0 []).wf = true ∧ (Instr.time 62 13 0 (List.replicate 160 0)).wf = true ∧
      (62 : BitVec 6) ≠ 0 ∧ (62 : BitVec 6) ≠ 63 ∧ 62 ≠ s12.settings.station ∧ 13 ≠ s12.settings.station ∧ (13 : BitVec 6) ≠ 63 ∧
      (Instr.undefinedFrameKind 5 1 9 12 0 []).wf = true ∧ definedKind 5 9 = false := by decide +kernel

theorem witness_PeerRequestQueued :
    let p := coilBytes 0 ⟨12, 1⟩
    let full : State := { s12 with pse := { s12.pse with service := List.replicate 8 ⟨7, 0, .lineageQuery, p⟩ } }
    (Instr.lineageQuery 7 12 0 p).wf = true ∧ (Instr.descentQuery 7 63 0 p).wf = true ∧ (7 : BitVec 6) ≠ 0 ∧ (7 : BitVec 6) ≠ 63 ∧
      7 ≠ s12.settings.station ∧ field p 0 1 < 64 ∧ p.length = 5 ∧ s12.bus.muted = false ∧ s12.receives = true ∧
      s12.pse.service.length < 8 ∧ full.receives = true ∧ 8 ≤ full.pse.service.length ∧
      ¬ field (coilBytes 1 ⟨12, 1⟩) 0 1 < 64 := by decide +kernel

/-- The four answers of a LINEAGE-QUERY, a coil with and without children, a fetch that passes the checks, and the checks of a fetch at counts 0, 1, 14 and 15. -/
theorem witness_PeerRequestAnswered :
    let asks (k : FrameKind) (p : List Byte) : State := { s7 with pse := { s7.pse with service := [⟨12, 0, k, p⟩] } }
    let a := asks .lineageQuery (coilBytes 0 ⟨7, 9120⟩)
    (a.running = true ∧ a.pse.engine = .idle ∧ a.pse.service = [⟨12, 0, .lineageQuery, coilBytes 0 ⟨7, 9120⟩⟩] ∧ a.bus.muted = false) ∧
      coilAt (coilBytes 0 ⟨7, 9120⟩) 0 = ⟨7, 9120⟩ ∧ (s7.ctr.exits.find? fun y => y.coil == ⟨7, 9120⟩).isSome ∧
      ((s7.ctr.exits.find? fun y => y.coil == ⟨7, 9121⟩).map (·.body)) = some (.pending [] 5) ∧
      (s7.ctr.exits.find? fun y => y.coil == ⟨7, 1⟩) = none ∧ (∀ y ∈ s7.ctr.exits, y.madeFrom ⟨7, 9120⟩ = false) ∧
      (∀ n ∈ [0, 1, 14, 15], parseFetch (fetchBytes ⟨⟨7, 9120⟩, 17, 298667, 297667, n⟩) = some ⟨⟨7, 9120⟩, 17, 298667, 297667, n⟩) ∧
      ((s7.ctr.exits.filter fun y => y.madeFrom ⟨0, 58133⟩).length = 1 ∧ s7.tsc.storeFault = false ∧
        s7.settings.channels.find? (fun d => d.quantity == 17) = some ⟨4, 17, 4⟩) ∧
      (∀ d ∈ s7.settings.channels, d.quantity ≠ 90) ∧ (∃ d ∈ s7.settings.channels, d.quantity = 17) ∧
      ({ s7 with tsc := { s7.tsc with storeFault := true } } : State).tsc.storeFault = true ∧
      List.replicate 11 (⟨⟨7, 1⟩, 1, false, 5⟩ : Child) ≠ [] := by decide +kernel

/-- 6.7, both directions; and an interval with a centre (exactly on x0) and without (exactly on x1). -/
theorem witness_FetchBoundariesAndUsedBins :
    1 ≤ 3 ∧ 297667 < 298667 ∧ 0 < 500 ∧ 500 % 2 = 0 ∧ 250 ≤ 251 ∧ (250 ≤ 0 * 500 + 500 / 2 ∧ 0 * 500 + 500 / 2 < 251) ∧
      ∀ k, ¬ (249 ≤ k * 500 + 500 / 2 ∧ k * 500 + 500 / 2 < 250) := by
  refine ⟨by decide, by decide, by decide, by decide, by decide, by decide, fun k => by omega⟩

theorem witness_PointFromUsedBins :
    let bs : List BinClass := [.expired, .unclosed, .closed ⟨0, 0, 0, ⟨false, true, true, false⟩⟩, .closed ⟨3, 3, 9, ⟨true, false, false, true⟩⟩]
    (∀ b ∈ bs, match b with
      | .closed x => (x.flags.void = false → x.least ≤ x.mean ∧ x.mean ≤ x.most) ∧
          (x.flags.void = true → x.flags.held = false ∧ x.flags.sat = false)
      | _ => True) ∧
      (bs.filterMap fun b => match b with
        | .closed x => some x
        | _ => none).filter (fun x => !x.flags.void) ≠ [] := by
  refine ⟨?_, by decide⟩
  intro b hb
  simp only [List.mem_cons, List.not_mem_nil, or_false] at hb
  obtain rfl | rfl | rfl | rfl := hb
  · trivial
  · trivial
  · exact ⟨by decide, by decide⟩
  · exact ⟨by decide, by decide⟩

/-- A page whose points have bins in the next page, in a later one, and in none beyond it. -/
theorem witness_PointFromUsedBins_page :
    bins0.length = 64 ∧ ∀ kHi ∈ [63, 64, 128], (∀ p ∈ (evalTo kHi).points, p.kLo ≤ p.kHi) ∧
      (kHi = 63 → ∀ p ∈ (evalTo kHi).points, p.kHi / 64 ≤ (evalTo kHi).page) ∧
      (kHi = 64 → ∃ p ∈ (evalTo kHi).points, p.kLo / 64 ≤ 1 ∧ 1 ≤ p.kHi / 64) := by decide +kernel

/-- Each field at its greatest value. -/
theorem witness_PayloadsRoundTrip :
    let p : Piece := ⟨0, 2 ^ 32 - 1, ⟨63, 0xFFFFFFFF⟩, 2 ^ 32 - 1, 2 ^ 32 - 1, true, true, true, true⟩
    let r : LineageRec := ⟨⟨63, 0xFFFFFFFF⟩, 2 ^ 32 - 1, 2 ^ 48 - 1, 2 ^ 32 - 1, 8, 8, true, [p]⟩
    let x : FetchResult := ⟨.data, true, List.replicate 14 ⟨-32768, -32768, 32767, ⟨true, true, true, true⟩, true, true, true⟩⟩
    let d : DescentPart := ⟨true, 127, List.replicate 10 ⟨⟨63, 0xFFFFFFFF⟩, 8, true, 2 ^ 32 - 1⟩⟩
    (r.close < 2 ^ 48 ∧ r.stop < 2 ^ 32 ∧ 1 ≤ r.lane ∧ r.lane ≤ 8 ∧ 1 ≤ r.lanes ∧ r.lanes ≤ 8 ∧ 1 ≤ r.pieces.length ∧
        r.pieces.length ≤ 8 ∧ (∀ q ∈ r.pieces, q.n1 < 2 ^ 32 ∧ q.sLo < 2 ^ 32 ∧ q.sHi < 2 ^ 32) ∧
        (r.pieces.map (·.n0)).head? = some 0 ∧ r.pieces.IsChain (fun p q => p.n1 = q.n0) ∧
        (r.pieces.map (·.n1)).getLast? = some r.length) ∧
      (x.status = .data ∧ 1 ≤ x.points.length ∧ x.points.length ≤ 14) ∧
      (∀ q ∈ x.points, -32768 ≤ q.mean ∧ q.mean ≤ 32767 ∧ -32768 ≤ q.least ∧ q.least ≤ 32767 ∧ -32768 ≤ q.most ∧ q.most ≤ 32767) ∧
      (d.index < 128 ∧ 1 ≤ d.children.length ∧ d.children.length ≤ 10 ∧
        ∀ c ∈ d.children, 1 ≤ c.lane ∧ c.lane ≤ 8 ∧ c.length < 2 ^ 32) ∧
      (List.replicate 32 (255 : Byte)).length ≤ 32 := by decide +kernel

theorem witness_LineageReplyToTracker :
    let p := recordBytes 0 rec9120
    let b : LengthBusy := ⟨⟨7, 9120⟩, 3, 3, 3, false, some 0⟩
    let q := lineageAnswerBytes (.pending ⟨7, 9120⟩ 0 5)
    (asking.receives = true ∧ (Instr.lineageReply 7 12 (makeTag 2 2 1) p).wf = true ∧ (7 : BitVec 6) ≠ 0 ∧ (7 : BitVec 6) ≠ 63 ∧
        7 ≠ asking.settings.station ∧ asking.settings.station = 12 ∧ parseLineageAnswer p = some (.record rec9120) ∧
        parseLineageAnswer q = some (.pending ⟨7, 9120⟩ 0 5)) ∧
      ((makeTag 2 2 1).toNat / 64 = 2 ∧
        asking.ctr.slots[(makeTag 2 2 1).toNat / 4 % 16]? = some ⟨BitVec.ofNat 2 ((makeTag 2 2 1).toNat % 4), some b⟩ ∧
        b.coil.station = 7) ∧
      (makeTag 0 0 0).toNat / 64 = 0 ∧ (makeTag 3 0 0).toNat / 64 = 3 ∧ (makeTag 2 15 3).toNat / 64 = 2 ∧
      asking.ctr.slots[(makeTag 2 15 3).toNat / 4 % 16]? = none := by decide +kernel

theorem witness_TimeFramesAndClockWrap :
    let s := State.withClock (station 1 1600 []) (2 ^ 48 - 1) 10000
    let src : State := { s with settings := { s.settings with timeSource := true } }
    ((Instr.time 1 63 0 (beBytes 6 5)).wf = true ∧ s12.receives = true ∧ (1 : BitVec 6) ≠ 0 ∧ (1 : BitVec 6) ≠ 63 ∧
        1 ≠ s12.settings.station) ∧
      (src.running = true ∧ src.settings.timeSource = true ∧ 10000 ≤ src.ros.timeTimer ∧ src.bus.muted = false ∧
        (State.silenced src).bus.muted = true ∧ 2 ^ 48 - 1 ≤ src.ros.clock) ∧
      (State.withPart src .checking).sup.part = .checking := by decide +kernel

theorem witness_PresenceTaken :
    let waiting := State.withQueue s12 [queued .presence .rosStart false]
    (s12.receives = true ∧ (Instr.presence 7 63 0 [2, 17]).wf = true ∧ (7 : BitVec 6) ≠ 0 ∧ (7 : BitVec 6) ≠ 63 ∧
        7 ≠ s12.settings.station) ∧
      parsePresence [2, 17] = some ⟨false, true, false, [17]⟩ ∧ parsePresence [5] = some ⟨true, false, true, []⟩ ∧
      parsePresence [] = none ∧ (s12.bus.muted = false ∧ s12.bus.queue ++ s12.bus.waiting = []) ∧
      (waiting.receives = true ∧ ∃ e ∈ waiting.bus.queue ++ waiting.bus.waiting, e.owner = .rosStart) := by decide +kernel

/-- A station with a coil of each kind, its slots idle, busy below slot 3, and all busy. -/
theorem witness_PlaybackTaken :
    let s : State := { s31 with req := { s31.req with queries := (s31.req.queries.take 3).map (fun x =>
      { x with busy := some ⟨⟨7, 1⟩, .coilList, 1, 1, false, none⟩ }) ++ s31.req.queries.drop 3 } }
    let f : State := { s31 with req := { s31.req with queries := s31.req.queries.map fun x =>
      { x with busy := some ⟨⟨7, 1⟩, .coilList, 1, 1, false, none⟩ } } }
    (∀ x ∈ [s31, s, f, State.silenced s31], x.receives = true ∧ x.con.assembler = none ∧ x.con.complete = none ∧
        x.req.engine = .idle) ∧
      (1 ≤ (1 : BitVec 32).toNat ∧ (1000000 : BitVec 32).toNat ≤ 1000000 ∧ (4 : Byte).toNat ≤ 4) ∧
      s31.settings.station = 31 ∧ (s31.ctr.exits.find? fun r => r.coil == ⟨31, 1⟩) = none ∧
      ((s31.ctr.exits.find? fun r => r.coil == ⟨31, 902⟩).map (·.isFinal)) = some true ∧
      ((s7.ctr.exits.find? fun r => r.coil == ⟨7, 9121⟩).map (·.body)) = some (.pending [] 5) ∧
      (s31.lch.cache.find? fun r => r.coil == ⟨12, 4587⟩) = some rec4587 ∧ (s31.lch.cache.find? fun r => r.coil == ⟨7, 1⟩) = none ∧
      (State.silenced s31).bus.muted = true ∧ (∀ x ∈ f.req.queries, x.busy.isSome) ∧ s.bus.muted = false ∧
      s.req.queries[3]? = some ⟨0, none⟩ ∧ (∀ x ∈ s.req.queries.take 3, x.busy.isSome) := by decide +kernel

/-- The bound at a and one above; 4,096 points and 4,097. -/
theorem witness_PlaybackAccepted :
    let s (a b step : Nat) : State := { s12 with req := { s12.req with play := { PlayRequest.empty with a, b, step } } }
    let points (x : State) (len : Nat) := (min x.req.play.b len - x.req.play.a + x.req.play.step - 1) / x.req.play.step
    (1 ≤ (s 5 9 1).req.play.step ∧ min 9 5 ≤ 5) ∧ (5 < min 9 6 ∧ points (s 5 9 1) 6 ≤ 4096) ∧ points (s 0 4096 1) 5000 ≤ 4096 ∧
      (0 < min 4097 5000 ∧ 4096 < points (s 0 4097 1) 5000) := by decide +kernel

/-- Planning of depth 1 with its coil settled, and while it is LOOKING; the depth asked for is 1, and 2. -/
theorem witness_PlaybackAccepted_plan :
    let copy : RecState := .record rec4587
    let s (depth : Nat) (x : RecState) : State := { s12 with req := { s12.req with
      engine := .playing, plan := some ⟨1, [(⟨12, 4587⟩, x)]⟩, play := { PlayRequest.empty with depth, step := 1 }
      depths := [⟨[.traced ⟨12, 4587⟩ 900000 901000 false false false false], [none]⟩] } }
    (∃ p, (s 1 .looking).req.plan = some p ∧ ∃ x ∈ p.coils, x.2 = .looking) ∧
      (∀ n ∈ [1, 2], ∃ p, (s n copy).req.plan = some p ∧ (∀ x ∈ p.coils, x.2 ≠ .looking) ∧ p.depth = 1 ∧
        (s n copy).req.play.depth = n) ∧
      ([((⟨12, 4587⟩ : Coil), copy)].find? fun x => x.1 == ⟨12, 4587⟩).map (·.2) = some copy ∧
      (rec4587.length ≤ (1794000 + 1794000) / 2 ∧ rec4587.pieces.getLast?.isSome) ∧
      ((900000 + 901000) / 2 < rec4587.length ∧
        (rec4587.pieces.find? fun y => decide (y.n0 ≤ (900000 + 901000) / 2 ∧ (900000 + 901000) / 2 < y.n1)).isSome) := by
  refine ⟨⟨_, rfl, ?_⟩, ?_, ?_⟩
  · exact ⟨_, List.mem_cons_self, rfl⟩
  · intro n hn
    refine ⟨_, rfl, ?_, rfl, rfl⟩
    simp
  · decide +kernel

/-- Two coils or places that are LOOKING, of which the first `asked` are asked for by the busy slots below `n`. -/
def looking (e : EngineState) (asked n : Nat) : State :=
  let coils : List Coil := [⟨9, 1⟩, ⟨7, 9120⟩]
  { s12 with req := { s12.req with
      engine := e, plan := some ⟨1, coils.map fun c => (c, .looking)⟩
      walk := ⟨1, coils.map fun c => ⟨c, 0, .unknown, none, .looking⟩, 0, false, 0⟩
      queries := s12.req.queries.zipIdx.map fun x => if x.2 < n then
        { x.1 with busy := some ⟨coils.getD (min x.2 (asked - 1)) .unknown, .coilList, 3, 1, false, none⟩ } else x.1 } }

/-- The first LOOKING coil asked for, and the idle slot 1 and 7; both asked for; and no idle slot. -/
theorem witness_PlaybackAccepted_query :
    (∀ e ∈ [EngineState.playing, .walkingUp], ∀ n ∈ [1, 7], let s := looking e 1 n
      s.req.engine = e ∧ (s.req.queries.head?.bind (·.busy)).map (·.coil) = some ⟨9, 1⟩ ∧
        (∀ x ∈ s.req.queries, ∀ b ∈ x.busy, b.coil ≠ ⟨7, 9120⟩) ∧ s.req.queries[n]? = some ⟨0, none⟩ ∧
        (∀ x ∈ s.req.queries.take n, x.busy.isSome) ∧ s.bus.muted = false ∧ (State.silenced s).bus.muted = true) ∧
      ((looking .playing 2 2).req.queries.take 2).map (fun x => x.busy.map (·.coil)) = [some ⟨9, 1⟩, some ⟨7, 9120⟩] ∧
      (∀ x ∈ (looking .playing 1 8).req.queries, x.busy.isSome) := by decide +kernel

/-- R130, R136: slot 7 under generation 1, its query with tag unit 1; under MUTED the coil is UNREACHABLE. -/
theorem test_queryStep :
    (let t := (queryStep (looking .playing 1 7)).getD s12
     t.req.queries[7]? = some ⟨1, some ⟨⟨7, 9120⟩, .coilList, 3, 1, false, none⟩⟩ ∧
       t.bus.waiting.map (fun e => (e.frame.kind, e.frame.dest, e.frame.tag)) = [(.lineageQuery, 7, 0x5D)]) ∧
    ((queryStep (State.silenced (looking .playing 1 7))).bind (·.req.plan)).map (·.coils) =
      some [(⟨9, 1⟩, .looking), (⟨7, 9120⟩, .unreachable)] := by decide +kernel

/-- Fourteen entries in a row fill a group; the fifteenth opens another; an entry that does not follow closes one early. -/
theorem witness_GroupsOfDepth :
    let row (n : Nat) : List Attr := (List.range n).map fun i => .traced ⟨7, 1⟩ (10 * i) (10 * i + 10) false false false false
    (groupsFrom 1 0 none (row 15)).map (fun g => (g.first, g.count)) = [(0, 14), (14, 1)] ∧
      (groupsFrom 1 0 none (row 2 ++ row 1)).map (fun g => (g.first, g.count)) = [(0, 2), (2, 1)] := by decide +kernel

def fetching (tries : Nat) : FetchBusy := ⟨⟨0, 0, 1, ⟨7, 9120⟩, 0, 5, 3⟩, false, tries, false, some 0⟩
def slotted (tries : Nat) : State :=
  { s12 with req := { s12.req with
    engine := .playing, fetches := s12.req.fetches.set 15 ⟨3, some (fetching tries)⟩
    queries := s12.req.queries.set 7 ⟨3, some ⟨⟨7, 9120⟩, .coilList, 3, tries, true, some 0⟩⟩
    depths := [⟨[.traced ⟨7, 9120⟩ 0 5 false false false false], [none]⟩] } }

theorem witness_RequestTimesOut :
    (∀ n ∈ [2, 3], (slotted n).running = true ∧ (slotted n).bus.muted = false ∧
        (slotted n).req.queries[(7 : BitVec 3).toNat]? = some ⟨3, some ⟨⟨7, 9120⟩, .coilList, 3, n, true, some 0⟩⟩ ∧
        (slotted n).req.fetches[(15 : BitVec 4).toNat]? = some ⟨3, some (fetching n)⟩ ∧ (fetching n).timer = some 0) ∧
      2 < (fetching 2).group.allowed ∧ (fetching 3).group.allowed ≤ 3 ∧ (State.silenced (slotted 2)).running = true ∧
      (State.silenced (slotted 2)).bus.muted = true := by decide +kernel

theorem witness_SampleReplyTaken :
    let x : FetchResult := ⟨.data, false, [⟨1, 1, 1, BinFlags.none, false, false, false⟩]⟩
    let tag := makeTag 0 15 3
    ((slotted 1).receives = true ∧ (Instr.sampleReply 7 12 tag (fetchResultBytes x)).wf = true ∧ (7 : BitVec 6) ≠ 0 ∧
        (7 : BitVec 6) ≠ 63 ∧ 7 ≠ (slotted 1).settings.station ∧ (slotted 1).settings.station = 12 ∧
        parseFetchResult (fetchResultBytes x) = some x) ∧
      (tag.toNat / 64 = 0 ∧ (slotted 1).req.fetches[tag.toNat / 4 % 16]? = some ⟨BitVec.ofNat 2 (tag.toNat % 4), some (fetching 1)⟩ ∧
        (fetching 1).isLocal = false ∧ (fetching 1).group.coil.station = 7) ∧
      (makeTag 1 0 0).toNat / 64 ≠ 0 ∧ (slotted 1).req.fetches[(makeTag 0 0 0).toNat / 4 % 16]? = some ⟨0, none⟩ := by decide +kernel

/-- A slot given: the next one after the slot given last, and the last of the rotation; a local, a remote and a muted one. A local
evaluation that passes its checks, and one that a check stops. -/
theorem witness_SampleReplyTaken_slots :
    let g (st : BitVec 6) : Group := ⟨0, 0, 3, ⟨st, 4587⟩, 900000, 903000, 3⟩
    let s (st : BitVec 6) (last : Nat) : State := { playing12 with req := { playing12.req with issue := [g st], lastGiven := last } }
    let busy : FetchSlot := ⟨1, some ⟨g 7, false, 1, false, none⟩⟩
    let full : State := { s12 with req := { s12.req with
      issue := [g 7], lastGiven := 3, fetches := (List.replicate 16 busy).set 3 ⟨0, none⟩ } }
    let taken (st : BitVec 6) : State := { playing12 with req := { playing12.req with
      play := { PlayRequest.empty with quantity := 17 }, localOrder := [15]
      fetches := playing12.req.fetches.set 15 ⟨3, some ⟨g st, true, 0, false, none⟩⟩ } }
    (∀ st ∈ [(12 : BitVec 6), 7], (s st 14).req.issue = [g st] ∧ (s st 14).req.fetches[(14 + 1 + 0) % 16]? = some ⟨2, none⟩) ∧
      (s 7 14).bus.muted = false ∧ (State.silenced (s 7 14)).bus.muted = true ∧
      (full.req.fetches[(full.req.lastGiven + 1 + 15) % 16]? = some ⟨0, none⟩ ∧
        ∀ k < 15, ∀ x ∈ full.req.fetches[(full.req.lastGiven + 1 + k) % 16]?, x.busy.isSome) ∧
      (∀ st ∈ [(12 : BitVec 6), 9], (taken st).req.localEval = .idle ∧ (taken st).req.localOrder = [15] ∧
        (taken st).req.fetches[15]? = some ⟨3, some ⟨g st, true, 0, false, none⟩⟩) ∧
      (match startEval (taken 12) ⟨⟨12, 4587⟩, 17, 900000, 903000, 3⟩ with
        | .go _ => true
        | .stop _ => false) = true ∧
      startEval (taken 9) ⟨⟨9, 4587⟩, 17, 900000, 903000, 3⟩ = .stop .notMine := by decide +kernel

/-- A slot for each use, asked of station 7. -/
def served (k : Serves) : State :=
  { s12 with req := { s12.req with queries := s12.req.queries.set 7 ⟨3, some ⟨⟨7, 9120⟩, k, 3, 1, false, some 9⟩⟩ } }

theorem witness_LineageReplyToRequest :
    let tag := makeTag 1 7 3
    (∀ k ∈ [Serves.resolution, .coilList, .place], (served k).receives = true ∧ (served k).settings.station = 12 ∧
        (served k).req.queries[tag.toNat / 4 % 16]? =
          some ⟨BitVec.ofNat 2 (tag.toNat % 4), some ⟨⟨7, 9120⟩, k, 3, 1, false, some 9⟩⟩) ∧
      tag.toNat / 64 = 1 ∧ (Instr.lineageReply 7 12 tag (recordBytes 0 rec9120)).wf = true ∧
      parseLineageAnswer (recordBytes 0 rec9120) = some (.record rec9120) ∧ rec9120.passes 12 7 = true ∧
      parseLineageAnswer (lineageAnswerBytes (.pending ⟨7, 9120⟩ 5 6)) = some (.pending ⟨7, 9120⟩ 5 6) ∧
      parseLineageAnswer (lineageAnswerBytes (.notMine ⟨7, 9120⟩)) = some (.notMine ⟨7, 9120⟩) ∧ rec4587.passes 12 7 = false ∧
      (served .place).req.queries[(makeTag 1 0 0).toNat / 4 % 16]? = some ⟨0, none⟩ := by decide +kernel

theorem witness_WalkAndListingTaken :
    (s31.receives = true ∧ s31.con.assembler = none ∧ s31.con.complete = none ∧ s31.req.engine = .idle) ∧
      ((1 : Byte).toNat < 2 ∧ 1 ≤ (8 : Byte).toNat ∧ (8 : Byte).toNat ≤ 8 ∧ 1 ≤ (1024 : BitVec 16).toNat ∧ (1024 : BitVec 16).toNat ≤ 1024) ∧
      ((⟨0, 58133⟩ : Coil) ≠ .unknown ∧ (⟨0, 58133⟩ : Coil).station = 0) ∧
      (s31.ctr.exits.find? fun r => r.coil == ⟨31, 902⟩).isSome ∧ (s31.ctr.exits.find? fun r => r.coil == ⟨31, 1⟩) = none ∧
      (s31.lch.cache.find? fun r => r.coil == ⟨12, 4587⟩) = some rec4587 ∧ (s31.lch.cache.find? fun r => r.coil == ⟨7, 1⟩) = none := by
  decide +kernel

/-- A place with a record above the depth and at it, one that is LOOKING, and one that gives none; 255 and 256 places before one piece. -/
theorem witness_WalkAndListingTaken_up :
    let place (o : PlaceOutcome) : Place := ⟨⟨12, 4587⟩, 0, .unknown, none, o⟩
    let s (depth n : Nat) (o : PlaceOutcome) : State := { s31 with req := { s31.req with
      engine := .walkingUp, walk := ⟨depth, List.replicate n (place o), 0, false, 0⟩ } }
    (∀ o ∈ [PlaceOutcome.looking, .unknown, .record rec4587], (s 1 255 o).req.engine = .walkingUp ∧
        (s 1 255 o).req.walk.places[(s 1 255 o).req.walk.expanded]? = some (place o)) ∧
      ((place (.record rec4587)).depth < (s 1 255 .unknown).req.walk.depth ∧
        (s 0 255 .unknown).req.walk.depth ≤ (place (.record rec4587)).depth) ∧
      (∀ n ∈ [255, 256], (s 1 n .unknown).req.walk.truncated = false ∧ (s 1 n .unknown).req.walk.places.length = n) ∧
      (let t (n : Nat) := ((walkStep (s 1 n (.record rec4587))).getD s12).req.walk
       ((t 255).places.length, (t 255).truncated, (t 256).places.length, (t 256).truncated) = (256, false, 256, true)) := by
  decide +kernel

/-- A downward walk at a coil with three own children, with `n` places met, at depth `d` of 1. -/
def descending (n d : Nat) : State :=
  { s31 with req := { s31.req with
      engine := .walkingDown
      walk := ⟨1, ⟨⟨12, 4587⟩, d, .unknown, none, .root⟩ :: List.replicate (n - 1) ⟨⟨9, 1⟩, 1, ⟨12, 4587⟩, none, .root⟩, 0, false, 0⟩ } }

/-- A place at the depth and above it; the set with room for the three children and with room for two; MUTED and not. -/
theorem witness_DescendantsCollected_start :
    (∀ n ∈ [253, 254], (descending n 0).req.engine = .walkingDown ∧ (descending n 0).req.collector.state = .idle ∧
        (descending n 0).req.walk.places.head? = some ⟨⟨12, 4587⟩, 0, .unknown, none, .root⟩ ∧ 0 < (descending n 0).req.walk.depth ∧
        (descending n 0).req.walk.truncated = false) ∧ (descending 1 1).req.walk.depth ≤ 1 ∧
      (descending 253 0).bus.muted = false ∧ (State.silenced (descending 253 0)).bus.muted = true ∧
      (collecting 0 0).req.collector.state ≠ .idle := by decide +kernel

/-- R163, R164: three places and a DESCENT-QUERY to all with tag unit 3, generation 1; under MUTED it is given up and counted; where
the third child is the 257th place, none is sent. -/
theorem test_walkStep_down :
    let t (s : State) := (walkStep s).getD s12
    (let a := t (descending 253 0)
     a.req.walk.places.length = 256 ∧ a.req.walk.truncated = false ∧ a.req.collector.state = .offering ∧
       a.bus.waiting.map (fun e => (e.frame.kind, e.frame.dest, e.frame.tag)) = [(.descentQuery, 63, 0xC1)]) ∧
      (let b := t (State.silenced (descending 253 0))
       b.req.walk.dropped = 1 ∧ b.req.collector.gen = 1 ∧ b.req.walk.expanded = 1) ∧
      (let c := t (descending 254 0)
       c.req.walk.places.length = 256 ∧ c.req.walk.truncated = true ∧ c.req.collector.gen = 0 ∧ c.bus.waiting = []) := by
  decide +kernel

/-- The collector idle, and with its query offered. -/
theorem witness_DescendantsCollected_heard :
    let offering : State := { s12 with req := { s12.req with collector := { s12.req.collector with state := .offering } } }
    let p := descentPartBytes ⟨false, 0, [⟨⟨31, 902⟩, 1, false, 750000⟩]⟩
    (∀ x ∈ [s12, offering], x.receives = true ∧ x.req.collector.state ≠ .collecting ∧ 31 ≠ x.settings.station ∧
        x.settings.station = 12) ∧
      (Instr.descentReply 31 63 (makeTag 3 0 2) p).wf = true ∧ (31 : BitVec 6) ≠ 0 ∧ (31 : BitVec 6) ≠ 63 ∧
      (parseDescentPart p).isSome := by decide +kernel

theorem witness_DescendantsCollected :
    let s (parts : List (BitVec 6 × Nat × Bool)) : State :=
      { collecting 0 0 with req := { (collecting 0 0).req with collector := { (collecting 0 0).req.collector with parts } } }
    let part : DescentPart := ⟨false, 0, [⟨⟨31, 902⟩, 1, false, 750000⟩]⟩
    (∀ x ∈ [s [], s [(31, 0, true)]], x.running = true ∧ x.sup.resetPin = false ∧ x.req.collector.state = .collecting ∧ x.req.collector.quiet = 0 ∧
        x.req.collector.overall = 0) ∧
      anyIncomplete (s []).req.collector.parts = false ∧ anyIncomplete (s [(31, 0, true)]).req.collector.parts = true ∧
      (Instr.descentReply 31 12 (makeTag 3 0 2) (descentPartBytes part)).wf = true ∧ (31 : BitVec 6) ≠ 0 ∧ (31 : BitVec 6) ≠ 63 ∧
      31 ≠ (s []).settings.station ∧ (s []).settings.station = 12 ∧ parseDescentPart (descentPartBytes part) = some part ∧
      makeTag 3 0 2 = BitVec.ofNat 8 (192 + (s []).req.collector.gen.toNat) ∧ (s []).req.collector.parts = [] ∧
      (s []).req.walk.places[(s []).req.walk.expanded]? = some ⟨⟨12, 4587⟩, 0, .unknown, none, .root⟩ ∧
      (s []).req.walk.truncated = false ∧ (31, 0, true) ∈ (s [(31, 0, true)]).req.collector.parts := by decide +kernel

/-- The link off (SUPPLY-LOW), the buffer occupied, records of 32 and 33 payload bytes, one byte short and whole, the edges of the
request ranges, and records with a good CRC but of kind 8, of a STATUS with a payload, of direction 2 and of mode byte 4. -/
theorem witness_ConsoleRecordsRefused :
    let busy : State := { s12 with req := { s12.req with engine := .playing } }
    let kept : State := { s12 with con := { s12.con with complete := some ⟨.request .status, .report⟩ } }
    let record (n : Nat) : List Byte := 32 :: 4 :: List.replicate n 0
    let sealed (body : List Byte) : List Byte := body ++ beBytes 2 (crcBytes body).toNat
    (State.withPart s12 .supplyLow).linkRuns = false ∧ (kept.linkRuns = true ∧ kept.con.complete.isSome) ∧
      (s12.linkRuns = true ∧ s12.con.assembler = none ∧ s12.con.complete = none ∧ s12.con.overrun = none) ∧
      (∀ b ∈ ([0xC3, 0] : List Byte), b ≠ 0x3C) ∧ 32 < (33 : Byte).toNat ∧
      (field (record 33) 0 1 ≤ 32 ∧ (record 33).length < field (record 33) 0 1 + 4) ∧
      (field (record 34) 0 1 ≤ 32 ∧ (record 34).length = field (record 34) 0 1 + 4 ∧
        field (record 34) (field (record 34) 0 1 + 2) 2 ≠
          (crcBytes ((record 34).take (field (record 34) 0 1 + 2))).toNat) ∧
      (1000000 < (1000001 : BitVec 32).toNat ∧ 4 < (5 : Byte).toNat ∧ 2 ≤ (2 : Byte).toNat ∧ 8 < (9 : Byte).toNat ∧
        1024 < (1025 : BitVec 16).toNat ∧ (1 : BitVec 16) ≠ 0 ∧ (1024 : BitVec 16).toNat ≤ 1024) ∧
      (busy.running = true ∧ busy.req.engine ≠ .idle) ∧
      (∀ x ∈ ([([0, 8], 1, 8), ([1, 4, 0], 0, 1), ([7, 2, 12, 0, 0, 0, 1, 2, 1], 7, 2), ([3, 3, 4, 0, 1], 2, 4)] :
          List (List Byte × Nat × Nat)),
        let r := sealed x.1
        let n := field r 0 1
        n ≤ 32 ∧ r.length = n + 4 ∧ field r (n + 2) 2 = (crcBytes (r.take (n + 2))).toNat ∧ field r x.2.1 1 = x.2.2) ∧
      ((State.withPart s12 .checking).running = false ∧ (State.withPart s12 .checking).linkRuns = true) := by decide +kernel

/-- The complete buffer with `x`, the overrun mark `mark`, and `n` records in the output queue. -/
def answering (x : ConRecord × Answer) (mark : Option Byte) (n : Nat) : State :=
  { s12 with con := { s12.con with complete := some ⟨x.1, x.2⟩, overrun := mark, out := List.replicate n (.done 5) } }

theorem witness_ConsoleRequestsServed :
    let full : State := { s12 with con := { s12.con with out := List.replicate 16 (.done 5) } }
    let src : State := { s12 with settings := { s12.settings with timeSource := true } }
    full.con.out ≠ [] ∧ (s12.con.complete = none ∧ s12.con.overrun = none ∧ s12.linkRuns = true ∧ s12.con.out.length < 16 ∧
        s12.bus.queue = [] ∧ s12.receives = true ∧ s12.req.engine = .idle ∧ s12.settings.timeSource = false) ∧
      (full.con.complete = none ∧ full.con.overrun = none ∧ 16 ≤ full.con.out.length) ∧
      (src.settings.timeSource = true ∧ src.bus.muted = false ∧ (State.silenced src).bus.muted = true) ∧
      (let c := State.withPart s12 .checking; c.linkRuns = true ∧ c.running = false ∧ c.con.assembler = none ∧
        c.con.complete = none) ∧
      (let a := answering (.request .clearFault, .place (.done 6)) none 15
       a.con.out.length < 16 ∧ a.con.overrun = none ∧ a.con.complete = some ⟨.request .clearFault, .place (.done 6)⟩) := by
  decide +kernel

/-- R171, R173, R174: OVERRUN first, then the answer that waits, then the report of the moment; nothing at 16 records. -/
theorem test_conStep :
    let c (s : State) := ((conStep s).getD s12).con
    (c (answering (.request .status, .report) (some 5) 15)).out.getLast? = some (.refuse 5 .overrun) ∧
      (c (answering (.request .clearFault, .place (.done 6)) none 15)).out.getLast? = some (.done 6) ∧
      (c (answering (.request .clearFault, .place (.done 6)) none 15)).complete = none ∧
      (match (c (answering (.request .status, .report) none 0)).out with
        | [.statusReport r] => decide (r.part = .run ∧ r.odometer = s12.smp.odometer)
        | _ => false) = true ∧
      conStep (answering (.request .status, .report) (some 5) 16) = none := by decide +kernel

/-- A record of REQ due in every state of its engine, and one that must wait for a result or a place. -/
theorem witness_ConsoleRequestsServed_emission :
    let at' (r : Req) : State := { s12 with req := r }
    let full : State := { s12 with con := { s12.con with out := List.replicate 16 (.done 5) } }
    let table (rs : List (Option Result)) : Req :=
      { s12.req with engine := .playing, depths := [⟨[.ended .ended .unknown], rs⟩] }
    let result := Attr.result (.ended .ended .unknown) none false none
    let place (o : PlaceOutcome) : Req :=
      { s12.req with engine := .walkingUp, walk := ⟨1, [⟨⟨12, 4587⟩, 0, .unknown, none, o⟩], 0, false, 0⟩ }
    (16 ≤ full.con.out.length) ∧ (s12.con.out.length < 16 ∧ s12.con.overrun = none ∧ s12.con.complete = none) ∧
      (at' { s12.req with engine := .resolving, refusal := some .range }).req.refusal = some .range ∧
      (∀ rs ∈ [[none], [some result], []], let t : DepthTable := ⟨[.ended .ended .unknown], rs⟩
        (table rs).acceptDue = false ∧ (table rs).aborting = false ∧ (table rs).emitDepth ≤ (table rs).play.depth ∧
          (table rs).depths[(table rs).emitDepth]? = some t ∧
          (rs = [none] → t.results[(table rs).emitIndex]? = some none) ∧
          (rs = [some result] → t.results[(table rs).emitIndex]? = some (some result)) ∧
          (rs = [] → t.results.length ≤ (table rs).emitIndex)) ∧
      ({ table [] with emitDepth := 1 } : Req).play.depth < ({ table [] with emitDepth := 1 } : Req).emitDepth ∧
      (∀ o ∈ [PlaceOutcome.looking, .origin], (place o).walk.places[(place o).emitted]? = some ⟨⟨12, 4587⟩, 0, .unknown, none, o⟩ ∧
        (place o).aborting = false) ∧
      (let e := { place .root with emitted := 1, walk := { (place .root).walk with expanded := 1 } }
       e.walk.places.length ≤ e.emitted ∧ e.walk.places.length ≤ e.walk.expanded ∧ e.collector.state = .idle) ∧
      ({ s12.req with engine := .listing, listing := [exitOf 1] } : Req).listing[0]? = some (exitOf 1) := by decide +kernel

theorem witness_AbortEndsRequest :
    let at' (e : EngineState) (r : Option Reason) (ab : Bool) : State :=
      { s12 with req := { s12.req with engine := e, refusal := r, aborting := ab } }
    (∀ e ∈ [EngineState.resolving, .playing, .walkingUp, .walkingDown, .listing],
        (at' e none false).receives = true ∧ (at' e none false).con.assembler = none ∧ (at' e none false).con.complete = none ∧ (at' e none false).req.engine = e ∧
        (at' e none false).req.refusal ≠ some .aborted ∧ (at' e none false).req.aborting = false) ∧
      (at' .resolving (some .aborted) false).req.refusal = some .aborted ∧ (at' .playing none true).req.aborting = true := by
  decide +kernel

/-- Word `i` of an image, FFFFH where it was not answered; and the ones' complement sum of the 90 words. -/
def word (image : List (BitVec 16)) (i : Nat) : Nat := (image.getD i 0xFFFF).toNat
def sum90 (image : List (BitVec 16)) : Nat :=
  ((List.range 90).map (word image)).foldl (fun a b => if 65536 ≤ a + b then a + b - 65535 else a + b) 0

/-- Images that are fatal by their mark, their sum and their station; images in range, at and just below the range of the reply timeout;
and CHECKING. -/
theorem witness_StartSequence :
    State.reset.sup.part = .settling ∧ loading.sup.part = .loading ∧ word [] 0 ≠ 0x0742 ∧ sum90 ((image 10).set 3 0) ≠ 65535 ∧
      word ((image 10).set 1 63) 1 = 63 ∧
      (∀ x ∈ [image 10, image 9], word x 0 = 0x0742 ∧ sum90 x = 65535 ∧ 1 ≤ word x 1 ∧ word x 1 < 63) ∧
      imageFaults (image 10) = 0 ∧ 0 < imageFaults (image 9) ∧ loading.sup.retention = false ∧
      (let checking := after (.configLoad (image 5)) loading; checking.sup.part = .checking ∧ checking.bus.queue = []) := by
  decide +kernel

/-- R34, R60: a warm start keeps the odometer and the tables, gives the timers their full time, and looks up unknown lengths again; a
cold start keeps none. -/
theorem test_startBlocks :
    let s : State := { tandem with
      ctr := { tandem.ctr with
        decls := [⟨5, ⟨7, 9120⟩, false, none, none, .none⟩]
        exits := tandem.ctr.exits.map fun r => { r with body := .pending [] 5 } } }
    let t := startBlocks false (image 10) s
    (t.sup.coldStart = false ∧ t.smp.odometer = 50000410 ∧ t.ctr.decls.map (·.lq) = [.wanted] ∧
      t.ctr.exits.map (·.body) = [.pending [] 21600000]) ∧
      (startBlocks true (image 10) s).smp.odometer = 0 := by decide +kernel

/-- A warm start: the retention mark set and the checksum of the image retained, with the store intact and not, and with a test mark. -/
theorem witness_StartSequence_warm :
    ∀ (intact : Bool) (mark : Option (Nat × Page)), ∃ s : State, s.sup.part = .loading ∧
      (!s.sup.retention || s.sup.checksum != imageChecksum (image 10)) = false ∧ s.tsc.intact = intact ∧ s.tsc.testMark = mark :=
  fun intact mark => ⟨{ loading with
      sup := { loading.sup with retention := true, checksum := imageChecksum (image 10) }
      tsc := { loading.tsc with intact := intact, testMark := mark } },
    (by decide +kernel : loading.sup.part = .loading), by simp, rfl, rfl⟩

/-- Read-backs of the first and the last of the 16 slots, one slot below them, and of a live and a free slot. -/
theorem witness_StartSequence_reads :
    let c : State := { State.withPart s12 .checking with tsc := { s12.tsc with ring := [(262143, fullPage 2 2 1)] } }
    c.sup.part = .checking ∧ c.bus.queue = [] ∧
      (slotCount c.settings.storeCode - 16 ≤ (262128 : BitVec 20).toNat ∧ (262143 : BitVec 20).toNat < slotCount c.settings.storeCode) ∧
      (262127 : BitVec 20).toNat < slotCount c.settings.storeCode - 16 ∧
      (5 : BitVec 16) = BitVec.ofNat 16 (65536 + 5) ∧ (5 : BitVec 16) ≠ BitVec.ofNat 16 4 ∧
      (0xFFFA : BitVec 16) = ~~~ BitVec.ofNat 16 5 ∧ (5 : BitVec 16) ≠ ~~~ BitVec.ofNat 16 5 ∧
      (ringAt c.tsc.ring (262143 : BitVec 20).toNat).isSome ∧ ringAt c.tsc.ring (262128 : BitVec 20).toNat = none := by
  decide +kernel

/-- The first and the last slot of the self-test at store size code 0; and a slot below them, and one that is free. -/
theorem witness_ResetAndSupply :
    let ring := [(262128, fullPage 2 1 1), (262143, fullPage 2 2 1)]
    let c : State := { State.withPart s12 .checking with tsc := { s12.tsc with ring } }
    s12.sup.part ≠ .supplyLow ∧ s12.sup.resetPin = false ∧ c.sup.part = .checking ∧ slotCount c.settings.storeCode - 16 ≤ (262128 : BitVec 20).toNat ∧
      (262143 : BitVec 20).toNat < slotCount c.settings.storeCode ∧
      ringAt c.tsc.ring (262128 : BitVec 20).toNat = some (fullPage 2 1 1) ∧
      ringAt c.tsc.ring (262143 : BitVec 20).toNat = some (fullPage 2 2 1) ∧
      (262127 : BitVec 20).toNat < slotCount c.settings.storeCode - 16 ∧ ringAt c.tsc.ring (262129 : BitVec 20).toNat = none := by
  decide +kernel

theorem witness_ResetAndSupply_supply :
    let low := after .supplyLow s12
    (let held := after (.externalResetAssert none) low
     held.sup.resetPin = true ∧ held.sup.part = .supplyLow ∧ held.sup.monitor ≠ .above ∧
       (after .supplyRecovery held).sup.resetPin = true ∧ (after .supplyRecovery held).sup.part = .settling) ∧
      (∀ c ∈ [Instr.forwardPulse, .lineIdle, .tailOut none], fromPlant c = true) ∧
      (∀ c ∈ [Instr.status, .consoleByteTimeout [0x3C]], fromDesk c = true) ∧
      low.sup.part = .supplyLow ∧ low.sup.monitor = .between ∧ low.sup.monitor ≠ .above ∧ s12.sup.monitor = .above := by
  decide +kernel

theorem reset_bounded : State.reset.Bounded := by constructor <;> decide +kernel

theorem witness_StepKeepsBounds : State.reset.Bounded ∧ ∃ t, step State.reset = .next t := ⟨reset_bounded, _, rfl⟩

theorem witness_StepKeepsTables :
    tandem.ctr.Sound ∧ s31.CacheSound ∧ ringWf evicting.tsc.ring = true ∧ tandem.CacheSound ∧ ringWf tandem.tsc.ring = true ∧
      ∀ c ∈ tandem.smp.chans, c.acc.Sound := by
  have open_bins : ∀ c ∈ tandem.smp.chans, c.acc.Sound := by
    intro c hc
    have hc : c = ⟨2, ⟨0, 0, none, false, false⟩, none⟩ := by simpa [tandem, s12, station] using hc
    subst hc
    exact ⟨rfl, rfl⟩
  refine ⟨tandem_sound, ?_, ?_, ?_, ?_, open_bins⟩ <;> first | decide +kernel | (constructor <;> decide +kernel)

theorem witness_StepKeepsTables_order :
    tandem.Bounded ∧ tandem.lfr.lastPos ≤ tandem.smp.odometer ∧ tandem.ctr.Ordered tandem.lfr.lastPos :=
  ⟨by constructor <;> decide +kernel, by decide +kernel, List.pairwise_singleton _ _, by decide +kernel, by decide +kernel⟩

/-- Channel 2 with page 1 in slot 9, page 2 in transfer to slot 10 and the current page 3 with one bin; before a warm start in LOADING. -/
def stored (p : PartState) : State :=
  let s := State.withPart (State.withOdometer s12 (193 * 250)) p
  { s with
    sup := { s.sup with checksum := imageChecksum (image 10) }
    pending := [.configLoad (image 10)]
    tsc := { s.tsc with
      intact := true, ring := [(9, fullPage 2 1 4)], writePtr := 10, flush := [fullPage 2 2 5]
      transfer := if p = .run then some (.write (fullPage 2 2 5) false) else none
      chans := [⟨2, [(1, 9)], 64, ⟨2, 3, 192, [⟨6, 6, 6, BinFlags.none⟩]⟩⟩] } }

theorem stored_sound (p : PartState) (h : p = .run ∨ p = .loading) : (stored p).StoreSound where
  table := by obtain rfl | rfl := h <;> decide +kernel
  samplers := by obtain rfl | rfl := h <;> decide +kernel
  stores := by obtain rfl | rfl := h <;> decide +kernel
  ring := by obtain rfl | rfl := h <;> decide +kernel
  slots := by obtain rfl | rfl := h <;> decide +kernel
  named := by obtain rfl | rfl := h <;> decide +kernel
  names := by
    intro c hc x hx
    cases List.mem_singleton.1 hc
    cases List.mem_singleton.1 hx
    exact ⟨fullPage 2 1 4, by obtain rfl | rfl := h <;> decide +kernel⟩
  order := by obtain rfl | rfl := h <;> decide +kernel
  held := by
    intro c hc d hd
    cases List.mem_singleton.1 hc
    have : some d = some ⟨2, 17, 3⟩ := hd.symm.trans (by obtain rfl | rfl := h <;> decide +kernel)
    cases this
    obtain rfl | rfl := h <;> constructor <;> decide +kernel
  queued := by obtain rfl | rfl := h <;> decide +kernel
  write := by
    intro q cancelled e
    obtain rfl | rfl := h
    · have e' : some (Transfer.write (fullPage 2 2 5) false) = some (.write q cancelled) := e
      cases e'
      decide +kernel
    · have e' : none = some (Transfer.write q cancelled) := e
      cases e'
  buffer := by
    intro i q x e
    have e' : none = some (i, q) := e
    cases e'
  tested := fun _ => rfl
  intact := fun _ => rfl
  degraded := by obtain rfl | rfl := h <;> decide +kernel

theorem witness_StepKeepsTables_store :
    (∀ p ∈ [PartState.run, .loading], (stored p).Bounded ∧ (stored p).StoreSound ∧
      (imageSettings (image 10)).channels = (stored p).settings.channels ∧
      (imageSettings (image 10)).storeCode = (stored p).settings.storeCode) ∧
      (stored .loading).sup.retention = true ∧ (stored .loading).sup.checksum = imageChecksum (image 10) := by
  refine ⟨?_, rfl, by simp only [stored]⟩
  intro p hp
  have hp : p = .run ∨ p = .loading := by simpa using hp
  refine ⟨?_, stored_sound p hp, ?_, ?_⟩ <;> obtain rfl | rfl := hp <;> first | decide +kernel | (constructor <;> decide +kernel)

/-- A muted part with its final PRESENCE on the line, and a part that is not muted. -/
theorem witness_StepKeepsSilence :
    let s := State.silenced (State.withQueue s12 [queued .presence .busFinal true])
    s.MutedSilent ∧ s.bus.OneOnLine ∧ s.bus.muted = true ∧ s12.MutedSilent ∧ s12.bus.OneOnLine := by
  and_intros <;> first | decide +kernel | (constructor <;> decide +kernel)

end Sys2Proof.Tests
end

/-! PROOFS. R13: what an accumulator holds after any number of accepted values, below and beyond a count of 65,535, and how its bin
then closes. -/

namespace Sys2Proof.Machine

/-! ### One accepted value (R12, R13) -/

/-- Below the full count a value is summed and counted, and SAT stays as it was. -/
theorem Acc.accept_of_lt {a : Acc} (v : Int) (h : a.count < Config.max16) :
    a.accept v = { a with sum := a.sum + v, count := a.count + 1, extrema := widen v a.extrema } := if_pos h

/-- At the full count only the extremes and SAT change. -/
theorem Acc.accept_of_full {a : Acc} (v : Int) (h : Config.max16 ≤ a.count) :
    a.accept v = { a with extrema := widen v a.extrema, sat := true } := if_neg (Nat.not_lt.2 h)

/-- Every accepted value widens the extremes, at any count. -/
theorem Acc.accept_extrema (v : Int) (a : Acc) : (a.accept v).extrema = widen v a.extrema := by
  unfold Acc.accept
  split <;> rfl

/-- The count stops at the full count. -/
theorem Acc.accept_count_le {a : Acc} (v : Int) (h : a.count ≤ Config.max16) : (a.accept v).count ≤ Config.max16 := by
  unfold Acc.accept
  split
  · assumption
  · exact h

/-! ### A run of accepted values -/

/-- An accumulator that already holds a value sums and counts what fits up to the full count, widens its extremes by every value,
and takes SAT when a value is left over. The induction carries any count, so that it passes through the full count. -/
theorem Acc.foldl_accept (vs : List Int) (a : Acc) (lo hi : Int) (hext : a.extrema = some (lo, hi))
    (hcount : a.count ≤ Config.max16) :
    vs.foldl (fun b x => Acc.accept x b) a =
      { sum := a.sum + (vs.take (Config.max16 - a.count)).sum, count := min (a.count + vs.length) Config.max16,
        extrema := some (vs.foldl min lo, vs.foldl max hi), stop := a.stop,
        sat := a.sat || decide (Config.max16 < a.count + vs.length) } := by
  induction vs generalizing a lo hi with
  | nil =>
    simp [← hext, hcount, Nat.not_lt.2 hcount]
  | cons v vs ih =>
    have hwiden : (a.accept v).extrema = some (min lo v, max hi v) := by rw [Acc.accept_extrema, hext, widen]
    rw [List.foldl_cons, ih (a.accept v) _ _ hwiden (Acc.accept_count_le v hcount)]
    by_cases hlt : a.count < Config.max16
    · have htake : Config.max16 - a.count = Config.max16 - (a.count + 1) + 1 := by omega
      rw [Acc.accept_of_lt v hlt, htake]
      simp [Int.add_assoc, Nat.add_assoc, Nat.add_comm 1]
    · have hfull : a.count = Config.max16 := by omega
      rw [Acc.accept_of_full v hfull.ge]
      simp [hfull]

/-- The accumulator of a bin after its accepted values: the first 65,535 are summed and counted, all of them bound the extremes. -/
theorem Acc.foldl_accept_empty (v : Int) (vs : List Int) (stop : Bool) :
    (v :: vs).foldl (fun (a : Acc) x => a.accept x) ⟨0, 0, none, stop, false⟩ =
      { sum := ((v :: vs).take Config.max16).sum, count := min (vs.length + 1) Config.max16,
        extrema := some (vs.foldl min v, vs.foldl max v), stop, sat := decide (Config.max16 < vs.length + 1) } := by
  have hpos : 0 < Config.max16 := by decide
  have htake : Config.max16 = Config.max16 - 1 + 1 := by decide
  have hsum : ((v :: vs).take Config.max16).sum = v + (vs.take (Config.max16 - 1)).sum := by
    rw [htake, List.take_succ_cons, List.sum_cons, Nat.add_sub_cancel]
  rw [List.foldl_cons, Acc.accept_of_lt v hpos, Acc.foldl_accept vs _ v v rfl (Nat.succ_le_of_lt hpos), hsum]
  simp [Nat.add_comm 1]

/-! ### The bin it closes as (R15) -/

/-- A bin that closes with samples: the rounded mean, the extremes of the accumulator, and its STOP and SAT. -/
theorem Acc.close_of_pos {a : Acc} {lo hi : Int} (last : Option Int) (hpos : 0 < a.count) (hext : a.extrema = some (lo, hi)) :
    (a.close last).1 =
      { mean := roundDiv a.sum a.count, least := lo, most := hi, flags := ⟨false, false, a.stop, a.sat⟩ } := by
  simp [Acc.close, hpos, hext]

/-- Settles O7: R13 for one value at the full count, then for the whole run of values of a bin. -/
theorem acceptedBeyondFullCount : Obligations.AcceptedBeyondFullCount := by
  refine ⟨fun a lo hi x hcount hext => ?_, fun v vs stop last => ?_⟩
  · rw [Acc.accept_of_full x hcount.ge, hext]
    rfl
  · rw [Acc.foldl_accept_empty]
    refine ⟨fun hlong => ?_, fun hshort => ?_⟩
    · have hcount : min (vs.length + 1) Config.max16 = 65535 := min_eq_right (by unfold Config.max16; omega)
      have hsat : Config.max16 < vs.length + 1 := Nat.lt_succ_of_le hlong
      rw [Acc.close_of_pos last (by simp [hcount]) rfl]
      simp only [hcount, hsat, decide_true]
      rfl
    · exact decide_eq_false (Nat.not_lt.2 hshort)

end Sys2Proof.Machine

/-! PROOFS. R69, R138 and R139: the map of a boundary through a piece, the piece an entry is traced by, and what ends it. -/

namespace Sys2Proof.Machine

/-! ### The map of a boundary (R69) -/

/-- floor(f · len_s / len_n): how far boundary `t` lies along the source range of the piece. -/
def Piece.advance (p : Piece) (t : Nat) : Nat := (t - p.n0) * (p.sHi - p.sLo) / (p.n1 - p.n0)

theorem Piece.image_of_same {p : Piece} (h : p.reversed = false) (t : Nat) : p.image t = p.sLo + p.advance t := by
  simp [Piece.image, Piece.advance, h]

theorem Piece.image_of_reversed {p : Piece} (h : p.reversed = true) (t : Nat) : p.image t = p.sHi - p.advance t := by
  simp [Piece.image, Piece.advance, h]

@[simp] theorem Piece.advance_start (p : Piece) : p.advance p.n0 = 0 := by simp [Piece.advance]

theorem Piece.advance_end {p : Piece} (hn : p.n0 < p.n1) : p.advance p.n1 = p.sHi - p.sLo :=
  Nat.mul_div_cancel_left _ (Nat.sub_pos_of_lt hn)

theorem Piece.advance_mono (p : Piece) {t t' : Nat} (h : t ≤ t') : p.advance t ≤ p.advance t' :=
  Nat.div_le_div_right (Nat.mul_le_mul_right _ (Nat.sub_le_sub_right h _))

theorem Piece.advance_le {p : Piece} (hn : p.n0 < p.n1) {t : Nat} (ht : t ≤ p.n1) : p.advance t ≤ p.sHi - p.sLo :=
  Piece.advance_end hn ▸ p.advance_mono ht

theorem Piece.image_start (p : Piece) : p.image p.n0 = if p.reversed then p.sHi else p.sLo := by
  cases h : p.reversed
  · simp [Piece.image_of_same h]
  · simp [Piece.image_of_reversed h]

theorem Piece.image_end {p : Piece} (hn : p.n0 < p.n1) (hs : p.sLo ≤ p.sHi) :
    p.image p.n1 = if p.reversed then p.sLo else p.sHi := by
  cases h : p.reversed
  · rw [Piece.image_of_same h, Piece.advance_end hn]
    exact Nat.add_sub_cancel' hs
  · rw [Piece.image_of_reversed h, Piece.advance_end hn]
    exact Nat.sub_sub_self hs

theorem Piece.image_mono (p : Piece) {t t' : Nat} (h : t ≤ t') :
    if p.reversed then p.image t' ≤ p.image t else p.image t ≤ p.image t' := by
  have hadv := p.advance_mono h
  cases hr : p.reversed
  · simpa [Piece.image_of_same hr] using hadv
  · simpa only [Piece.image_of_reversed hr, if_true] using Nat.sub_le_sub_left hadv _

/-- Every image up to the end of the piece lies in its source range. -/
theorem Piece.image_mem_range {p : Piece} (hn : p.n0 < p.n1) (hs : p.sLo ≤ p.sHi) {t : Nat} (ht : t ≤ p.n1) :
    p.sLo ≤ p.image t ∧ p.image t ≤ p.sHi := by
  have hadv := Piece.advance_le hn ht
  cases h : p.reversed
  · rw [Piece.image_of_same h]
    omega
  · rw [Piece.image_of_reversed h]
    omega

/-- The product f · len_s of two ranges of 32 bits needs no more than 64. -/
theorem Piece.product_lt {p : Piece} {t : Nat} (hsrc : p.sHi ≤ 2 ^ 32 - 1) (hown : p.n1 ≤ 2 ^ 32 - 1) (ht : t ≤ p.n1) :
    (t - p.n0) * (p.sHi - p.sLo) < 2 ^ 64 :=
  calc (t - p.n0) * (p.sHi - p.sLo)
    _ ≤ (2 ^ 32 - 1) * (2 ^ 32 - 1) := Nat.mul_le_mul (by omega) (by omega)
    _ < 2 ^ 64 := by decide

/-- A gap or merged piece has the source range [0, 0]. -/
theorem gapPiece_image (oStart : Nat) (v : Overlap) (t : Nat) : (gapPiece oStart v).image t = 0 := by
  simp [gapPiece, Piece.image]

/-! ### The piece an entry is traced by (R138) -/

theorem LineageRec.pieceFor_eq_some {r : LineageRec} {anchor : Nat} {p : Piece}
    (h : r.length ≤ anchor ∧ r.pieces.getLast? = some p ∨
      anchor < r.length ∧ r.pieces.find? (fun y => decide (y.n0 ≤ anchor ∧ anchor < y.n1)) = some p) :
    r.pieceFor anchor = some p := by
  obtain ⟨hlen, hlast⟩ | ⟨hlen, hfind⟩ := h
  · rw [LineageRec.pieceFor, if_pos hlen, hlast]
  · rw [LineageRec.pieceFor, if_neg (Nat.not_le.2 hlen), hfind]

section
variable {r : LineageRec} {p : Piece} {ta tb : Nat} (split unscaled broken short : Bool)
  (hp : r.pieceFor ((ta + tb) / 2) = some p)
include hp

theorem traceThrough_unknown (h : p.source = .unknown ∨ p.source.station = 63) :
    traceThrough r ta tb split unscaled broken short = .ended .unknown p.source := by
  simp only [traceThrough, hp, if_pos h]

theorem traceThrough_origin (hne : p.source ≠ .unknown) (h : p.source.station = 0) :
    traceThrough r ta tb split unscaled broken short = .ended .origin p.source := by
  simp [traceThrough, hp, hne, h]

theorem traceThrough_traced (h0 : p.source.station ≠ 0) (h63 : p.source.station ≠ 63) :
    traceThrough r ta tb split unscaled broken short =
      .traced p.source (p.image (clampTo p ta)) (p.image (clampTo p tb))
        (split || clampTo p ta != ta || clampTo p tb != tb) (unscaled || p.unscaled) (broken || p.broken) short := by
  have hne : p.source ≠ .unknown := fun h => h0 (congrArg Coil.station h)
  simp only [traceThrough, hp, hne, h0, h63, or_self, if_false]

end

/-! ### The state of a source coil in the coil list (R137, R139) -/

/-- What a traced entry becomes by the state its source coil `m` has in the coil list, none where it is not listed. -/
def traceByState (m : Coil) (ta tb : Nat) (split unscaled broken short : Bool) : Option RecState → Attr
  | none => .ended .overflow m
  | some (.pending _) => .ended .pending m
  | some .unknown => .ended .unknown m
  | some .unreachable | some .looking => .ended .unreachable m
  | some (.record r) => traceThrough r ta tb split unscaled broken short

theorem traceEntry_traced (coils : List (Coil × RecState)) (m : Coil) (ta tb : Nat) (split unscaled broken short : Bool) :
    traceEntry coils (.traced m ta tb split unscaled broken short) =
      traceByState m ta tb split unscaled broken short ((coils.find? fun x => x.1 == m).map (·.2)) := rfl

/-- Settles O25: the clauses of R69 by the advance along the source range, those of R138 by the source of the chosen piece, and R139's
table by the state of the source coil. -/
theorem boundaryMap : Obligations.BoundaryMap := by
  refine ⟨fun p t hn hs _ ht => ?_, fun r p ta tb split unscaled broken short hchosen => ?_,
    fun coils m c ta tb split unscaled broken short flag => ?_⟩
  · obtain ⟨hlo, hhi⟩ := Piece.image_mem_range hn hs ht
    refine ⟨fun h => p.image_of_same h t, fun h => p.image_of_reversed h t, Nat.sub_pos_of_lt hn, hlo, hhi, p.image_start,
      Piece.image_end hn hs, fun _ hle _ => p.image_mono hle, fun h => ?_, fun hsrc hown => Piece.product_lt hsrc hown ht,
      fun _ _ _ => rfl, fun oStart v => ⟨gapPiece_image oStart v t, rfl⟩⟩
    exact le_antisymm (h ▸ hhi) hlo
  · have hp := LineageRec.pieceFor_eq_some hchosen
    refine ⟨fun h => ?_, fun h => ?_, fun hne h => ?_, fun h0 h63 => ?_⟩
    · rw [traceThrough_unknown split unscaled broken short hp (.inl h), h]
    · exact traceThrough_unknown split unscaled broken short hp (.inr h)
    · exact traceThrough_origin split unscaled broken short hp hne h
    · exact traceThrough_traced split unscaled broken short hp h0 h63
  · intro state entry
    have hentry : entry = traceByState m ta tb split unscaled broken short state := traceEntry_traced ..
    refine ⟨rfl, fun h => ?_, fun close h => ?_, fun h => ?_, fun h => ?_, fun r h => ?_⟩ <;> rw [hentry, h] <;> rfl

end Sys2Proof.Machine

/-! PROOFS. What a step can do: the own effect of each command, said once, and the induction that carries a property of states
through a step. -/

namespace Sys2Proof.Machine

/-! ### The own effect of a command -/

/-- The state `u` is the own effect of command `c` in state `s`, with what the row asks of `s`. -/
inductive Effect (c : Instr) (s : State) : State → Prop where
  | forward (h : s.receives = true) : Effect c s (forwardPulse s)
  | reverse (h : s.receives = true) : Effect c s (reversePulse s)
  | standstill (h : standstillDue s = true) :
      Effect c s { s with smp := s.smp.reachStandstill s.settings.standstillTime }
  | lfFails (h : s.receives = true) : Effect c s (lfFail s)
  | lfTaken (r : LfRecord) (h : s.receives = true) (hr : r.inRange = true) : Effect c s (takeLf r s)
  | expiry (coil : Coil) (h : expiryDue coil s = true) : Effect c s (finalizeCoil true s coil).release
  | lengthTimeout (i : Nat) (h : lengthTimerDue i s = true) : Effect c s (failLengthQuery i false s)
  | flushed (page : Page) (cancelled : Bool) (h : s.running = true) (ht : s.tsc.transfer = some (.write page cancelled)) :
      Effect c s { s with tsc := completeWrite s.settings.storeCode page cancelled s.tsc }
  | pageRead (who : Evaluator) (bins : List BinClass) (h : s.running = true) (ht : s.tsc.transfer = some (.read who bins)) :
      Effect c s (deliver who bins { s with tsc := { s.tsc with transfer := none } })
  | lineIdle (h : s.receives = true) (hs : s.sending = false) : Effect c s (becomeIdle s)
  | stuck (h : s.receives = true) : Effect c s (becomeStuck s)
  | badFrame (h : s.receives = true) : Effect c s (discardBadFrame s)
  | unfinished (h : s.receives = true) : Effect c s { s with bus := { s.bus with rx := .receiving } }
  | frame (kind : Option FrameKind) (source dest : BitVec 6) (tag : Byte) (payload : List Byte) (h : s.receives = true) :
      Effect c s (receiveFrame kind source dest tag payload s)
  | lost (j : Nat) (e : TxEntry) (h : s.receives = true) (hj : onLinePlace s.bus.queue = some j) (he : s.bus.queue[j]? = some e) :
      Effect c s (loseArbitration j e s)
  | collided (j : Nat) (e : TxEntry) (h : s.receives = true) (hj : onLinePlace s.bus.queue = some j)
      (he : s.bus.queue[j]? = some e) : Effect c s (collide j e s)
  | sent (j : Nat) (e : TxEntry) (h : s.receives = true) (hj : onLinePlace s.bus.queue = some j) (he : s.bus.queue[j]? = some e) :
      Effect c s (sendFrame j e s)
  | waited (j : Nat) (e : TxEntry) (h : s.running = true) (he : waitedOut j s = some e) :
      Effect c s (dropFrame j e .txWait s).startHead
  | queryTimeout (i : Nat) (h : queryTimerDue i s = true) : Effect c s (failQuery i false s)
  | fetchTimeout (i : Nat) (h : fetchTimerDue i s = true) : Effect c s (failFetch i false s)
  | quietTimer (h : s.collecting = true) : Effect c s (quietEnds s)
  | overallTimer (h : s.collecting = true) : Effect c s (endDescent 0 s)
  | timeFrame (h : s.countsFrames = true) : Effect c s (sendTime s)
  | clockWrap : Effect c s { s with ros := { s.ros with clock := 0, timeTimer := 0 } }
  | record (rec : ConRecord) (hq : ∀ q, rec = .request q → q.inRange = true) : Effect c s (conReceive rec s)
  | bytes (bs : List Byte) : Effect c s (bs.foldl conByte s)
  | badByte (bs : List Byte) (b : Byte) : Effect c s (conBadByte b (bs.foldl conByte s))
  | silence (bs : List Byte) : Effect c s (conSilence (bs.foldl conByte s))
  | outputSent : Effect c s (recordSent s)
  | settled (h : s.sup.part = .settling) : Effect c s (enterLoading s)
  | loaded (image : List (BitVec 16)) (hc : c = .configLoad image) (h : s.sup.part = .loading) : Effect c s (loadImage image s)
  | tested (reads : List TestRead) (h : s.sup.part = .checking) : Effect c s (endSelfTest reads s)
  | resetHeld (testing : Option (BitVec 20)) : Effect c s (holdReset testing s)
  | resetReleased : Effect c s (releaseReset s)
  | supplyLost (h : s.sup.monitor = .above) : Effect c s (enterSupplyLow s)
  | retentionLost (h : s.sup.monitor = .between) : Effect c s (loseRetained s)
  | recovered (h : s.sup.monitor ≠ .above) : Effect c s (recoverSupply s)
  | tick (h : s.running = true) : Effect c s (tickAll s)
  | clockTick : Effect c s (tickClock s)

/-- A step of command `c` from `s` ends in `t`: nothing happens, or the blocks have gone on from the command's own effect. -/
def EndsIn (c : Instr) (s t : State) : Prop := t = s ∨ ∃ u, Effect c s u ∧ t = settle u

theorem commit_endsIn {c : Instr} {s t : State} {o : Option State} (h : commit s o = .next t)
    (ho : ∀ u, o = some u → Effect c s u) : EndsIn c s t := by
  cases o with
  | none => cases h; exact .inl rfl
  | some u => cases h; exact .inr ⟨u, ho u rfl, rfl⟩

theorem guarded_endsIn {c : Instr} {s t u : State} {p : Prop} [Decidable p]
    (h : commit s (if p then some u else none) = .next t) (hu : p → Effect c s u) : EndsIn c s t :=
  commit_endsIn h fun v hv => by
    split at hv
    · cases hv; exact hu ‹_›
    · cases hv

theorem done_endsIn {c : Instr} {s t u : State} (h : commit s (some u) = .next t) (hu : Effect c s u) : EndsIn c s t :=
  commit_endsIn h fun v hv => by cases hv; exact hu

theorem lfArrives_effect {c : Instr} {s : State} (r : LfRecord) (h : s.receives = true) : Effect c s (lfArrives r s) := by
  unfold lfArrives
  split
  · exact .lfTaken r h ‹_›
  · exact .lfFails h

theorem lfBytes_effect {c : Instr} {s : State} (bs : List Byte) (h : s.receives = true) : Effect c s (lfBytes bs s) := by
  unfold lfBytes
  split
  · rename_i r hr
    refine .lfTaken r h ?_
    unfold parseLf at hr
    simp only at hr
    split at hr
    · cases hr
    · exact (Option.filter_eq_some_iff.1 hr).2
  · exact .lfFails h

theorem frameArrives_effect {c : Instr} {s : State} (k : Option FrameKind) (source dest : BitVec 6) (tag : Byte) (payload : List Byte)
    (h : s.receives = true) : Effect c s (frameArrives k source dest tag payload s) := by
  unfold frameArrives
  split
  · exact .badFrame h
  · exact .frame _ _ _ _ _ h

theorem receiveBits_effect {c : Instr} {s : State} (bits : List Bool) (h : s.receives = true) : Effect c s (receiveBits bits s) := by
  unfold receiveBits
  split
  · exact .badFrame h
  · exact .unfinished h
  · exact .frame _ _ _ _ _ h

/-- A record judged a request has its fields in range (R172). -/
theorem judgeRequest_inRange {kind : Byte} {r : Option Request} {q : Request} (h : judgeRequest kind r = .request q) :
    q.inRange = true := by
  unfold judgeRequest at h
  split at h
  · rename_i hf
    cases h
    exact (Option.filter_eq_some_iff.1 hf).2
  · cases h

theorem conWhole_effect {c : Instr} {s : State} {rec : ConRecord} (hq : ∀ q, rec = .request q → q.inRange = true) (kind : Byte)
    (payload : List Byte) : Effect c s (conWhole rec kind payload s) := by
  unfold conWhole
  split
  · exact .record rec hq
  · exact .bytes _

theorem conBytes_effect {c : Instr} {s : State} (bs : List Byte) (framing : Bool) : Effect c s (conBytes bs framing s) := by
  unfold conBytes
  split
  · exact .badByte _ _
  · exact .bytes _

/-- An event of the frame on the line finds one there (R86 to R88). -/
theorem onLineEvent_effect {c : Instr} {s u : State} {f : Nat → TxEntry → State → State} (h : onLineEvent f s = some u)
    (hf : ∀ j e, s.receives = true → onLinePlace s.bus.queue = some j → s.bus.queue[j]? = some e → Effect c s (f j e s)) :
    Effect c s u := by
  unfold onLineEvent at h
  split at h
  · split at h
    · cases h
    · simp only [Option.map_eq_some_iff] at h
      obtain ⟨e, he, rfl⟩ := h
      exact hf _ e ‹_› ‹_› he
  · cases h

theorem writeCompletes_effect {c : Instr} {s u : State} (hr : s.running = true) (h : writeCompletes s = some u) : Effect c s u := by
  unfold writeCompletes at h
  split at h
  · cases h; exact .flushed _ _ hr ‹_›
  · cases h

theorem readCompletes_effect {c : Instr} {s u : State} (hr : s.running = true) (h : readCompletes s = some u) : Effect c s u := by
  unfold readCompletes at h
  split at h
  · cases h; exact .pageRead _ _ hr ‹_›
  · cases h

theorem tickPart_effect {c : Instr} {s u : State} (h : tickPart s = some u) : Effect c s u := by
  unfold tickPart at h
  split at h
  · cases h; exact .tick (by simp [State.running, PartState.running, *])
  · cases h; exact .tick (by simp [State.running, PartState.running, *])
  iterate 3 cases h; exact .clockTick
  all_goals cases h

/-- What a command can do (95): the own effects, row by row, and then the end of the step. -/
theorem exec_endsIn {c : Instr} {s t : State} (h : exec c s = .next t) : EndsIn c s t := by
  cases c with
  | forwardPulse => exact guarded_endsIn h .forward
  | reversePulse => exact guarded_endsIn h .reverse
  | standstill => exact guarded_endsIn h .standstill
  | lfRecordTimeout => exact guarded_endsIn h .lfFails
  | lfCheck r => exact guarded_endsIn h (lfBytes_effect r)
  | sampleSet => exact guarded_endsIn h (lfArrives_effect _)
  | declare => exact guarded_endsIn h (lfArrives_effect _)
  | join => exact guarded_endsIn h (lfArrives_effect _)
  | tailOut => exact guarded_endsIn h (lfArrives_effect _)
  | stripBreak => exact guarded_endsIn h (lfArrives_effect _)
  | cut => exact guarded_endsIn h (lfArrives_effect _)
  | finalizationExpiry => exact guarded_endsIn h (.expiry _)
  | lengthQueryTimeout => exact guarded_endsIn h (.lengthTimeout _)
  | flushWriteComplete =>
    exact commit_endsIn h fun u hu => by
      split at hu
      · exact writeCompletes_effect ‹_› hu
      · cases hu
  | pageReadComplete =>
    exact commit_endsIn h fun u hu => by
      split at hu
      · exact readCompletes_effect ‹_› hu
      · cases hu
  | lineIdle =>
    exact guarded_endsIn h fun hp => by
      simp only [Bool.and_eq_true, Bool.not_eq_true'] at hp
      exact .lineIdle hp.1 hp.2
  | busStuck => exact guarded_endsIn h .stuck
  | badFrame bits => exact guarded_endsIn h (receiveBits_effect bits)
  | lostArbitration => exact commit_endsIn h fun u hu => onLineEvent_effect hu .lost
  | collision => exact commit_endsIn h fun u hu => onLineEvent_effect hu .collided
  | frameSent => exact commit_endsIn h fun u hu => onLineEvent_effect hu .sent
  | txWait place =>
    exact commit_endsIn h fun u hu => by
      split at hu
      · simp only [Option.map_eq_some_iff] at hu
        obtain ⟨e, he, rfl⟩ := hu
        exact .waited _ e ‹_› he
      · cases hu
  | time => exact guarded_endsIn h (frameArrives_effect _ _ _ _ _)
  | lineageReply => exact guarded_endsIn h (frameArrives_effect _ _ _ _ _)
  | sampleReply => exact guarded_endsIn h (frameArrives_effect _ _ _ _ _)
  | descentReply => exact guarded_endsIn h (frameArrives_effect _ _ _ _ _)
  | lineageQuery => exact guarded_endsIn h (frameArrives_effect _ _ _ _ _)
  | sampleFetch => exact guarded_endsIn h (frameArrives_effect _ _ _ _ _)
  | descentQuery => exact guarded_endsIn h (frameArrives_effect _ _ _ _ _)
  | coilAnnounce => exact guarded_endsIn h (frameArrives_effect _ _ _ _ _)
  | presence => exact guarded_endsIn h (frameArrives_effect _ _ _ _ _)
  | undefinedFrameKind => exact guarded_endsIn h (frameArrives_effect _ _ _ _ _)
  | lineageQueryTimeout => exact guarded_endsIn h (.queryTimeout _)
  | fetchTimeout => exact guarded_endsIn h (.fetchTimeout _)
  | quietTimerExpiry =>
    exact guarded_endsIn h fun hp => .quietTimer ((Bool.and_eq_true _ _).mp hp).1
  | overallTimerExpiry =>
    exact guarded_endsIn h fun hp => .overallTimer ((Bool.and_eq_true _ _).mp hp).1
  | timeFrameTimer =>
    exact guarded_endsIn h fun hp => .timeFrame ((Bool.and_eq_true _ _).mp hp).1
  | plantClockWrap => exact guarded_endsIn h fun _ => .clockWrap
  | genealogy coil direction depth =>
    change execGenealogy coil direction depth s = _ at h
    unfold execGenealogy at h
    split at h
    · exact done_endsIn h (conWhole_effect (fun _ => judgeRequest_inRange) _ _)
    · exact done_endsIn h (conWhole_effect (fun _ hq => by cases hq) _ _)
  | playback => exact done_endsIn h (conWhole_effect (fun _ => judgeRequest_inRange) _ _)
  | coilList => exact done_endsIn h (conWhole_effect (fun _ => judgeRequest_inRange) _ _)
  | status => exact done_endsIn h (conWhole_effect (fun _ => judgeRequest_inRange) _ _)
  | abort => exact done_endsIn h (conWhole_effect (fun _ => judgeRequest_inRange) _ _)
  | clearFault => exact done_endsIn h (conWhole_effect (fun _ => judgeRequest_inRange) _ _)
  | setTime => exact done_endsIn h (conWhole_effect (fun _ => judgeRequest_inRange) _ _)
  | consoleBadRecord bs fe => exact done_endsIn h (conBytes_effect _ _)
  | consoleByteTimeout got => exact done_endsIn h (.silence _)
  | outputRecordSent =>
    exact commit_endsIn h fun u hu => by
      split at hu
      · cases hu
      · cases hu; exact .outputSent
  | settleCountEnd => exact guarded_endsIn h .settled
  | configLoad image => exact guarded_endsIn h (.loaded image rfl)
  | selfTestComplete reads => exact guarded_endsIn h (.tested reads)
  | externalResetAssert testing => exact done_endsIn h (.resetHeld _)
  | externalResetRelease => exact guarded_endsIn h fun _ => .resetReleased
  | supplyLow => exact guarded_endsIn h .supplyLost
  | retentionLoss => exact guarded_endsIn h .retentionLost
  | supplyRecovery =>
    exact commit_endsIn h fun u hu => by
      split at hu
      · cases hu
      · cases hu; exact .recovered ‹_›
  | timeBaseTick => exact commit_endsIn h fun u hu => tickPart_effect hu

/-! ### Properties that steps keep -/

/-- What each command's own effect and each micro step keep, a step keeps. -/
theorem step_keeps {P : State → Prop} (hqueue : ∀ s rest, P s → P { s with pending := rest })
    (heffect : ∀ c s u, Effect c s u → P s → P u) (hmicro : ∀ s t, micro s = some t → P s → P t) {s t : State} (hs : P s)
    (h : step s = .next t) : P t := by
  unfold step at h
  split at h
  · cases h; exact hs
  · rename_i c rest _
    rcases exec_endsIn h with rfl | ⟨u, hu, rfl⟩
    · exact hqueue s rest hs
    · exact GoesOn.induct (fun {s t} => hmicro s t) (settle_goesOn u) (heffect c _ u hu (hqueue s rest hs))

end Sys2Proof.Machine

/-! PROOFS. What the owners of frames and requests do to the rest of the part while they act: REQ, PSE, CTR's queries and ROS's
reports move their own working data, offer frames while MUTED is clear, withdraw them, and touch the lineage cache. -/

namespace Sys2Proof.Machine

/-! ### The transmit queue under its owners (R93, R98) -/

/-- What owners do to the bus: queued frames stay as they are, leave, or are marked withdrawn, and a MUTED part has no new frame
waiting. -/
structure OwnersAct (b b' : Bus) : Prop where
  rx         : b'.rx = b.rx
  stuck      : b'.stuck = b.stuck
  muted      : b'.muted = b.muted
  badFrames  : b'.badFrames = b.badFrames
  collisions : b'.collisions = b.collisions
  length     : b'.queue.length ≤ b.queue.length
  queue      : ∀ e ∈ b'.queue, ∃ x ∈ b.queue, x.owner = e.owner ∧ x.onLine = e.onLine
  onLine     : (b'.queue.filter (·.onLine)).length ≤ (b.queue.filter (·.onLine)).length
  waiting    : b.muted = true → b.waiting = [] → b'.waiting = []

theorem OwnersAct.refl (b : Bus) : OwnersAct b b :=
  ⟨rfl, rfl, rfl, rfl, rfl, le_rfl, fun e he => ⟨e, he, rfl, rfl⟩, le_rfl, fun _ h => h⟩

theorem OwnersAct.trans {a b c : Bus} (h : OwnersAct a b) (k : OwnersAct b c) : OwnersAct a c where
  rx := k.rx.trans h.rx
  stuck := k.stuck.trans h.stuck
  muted := k.muted.trans h.muted
  badFrames := k.badFrames.trans h.badFrames
  collisions := k.collisions.trans h.collisions
  length := k.length.trans h.length
  queue := fun e he => by
    obtain ⟨x, hx, ho, hl⟩ := k.queue e he
    obtain ⟨y, hy, ho', hl'⟩ := h.queue x hx
    exact ⟨y, hy, ho'.trans ho, hl'.trans hl⟩
  onLine := k.onLine.trans h.onLine
  waiting := fun hm hw => k.waiting (h.muted.trans hm) (h.waiting hm hw)

/-- A change of the waiting frames alone. -/
theorem ownersAct_waiting (b : Bus) (w : List TxEntry) (h : b.muted = true → b.waiting = [] → w = []) :
    OwnersAct b { b with waiting := w } :=
  ⟨rfl, rfl, rfl, rfl, rfl, le_rfl, fun e he => ⟨e, he, rfl, rfl⟩, le_rfl, h⟩

/-- Withdrawal (R93). -/
theorem ownersAct_withdraw (mine : Owner → Bool) (s : State) : OwnersAct s.bus (s.withdraw mine).bus where
  rx := rfl
  stuck := rfl
  muted := rfl
  badFrames := rfl
  collisions := rfl
  length := by simpa [State.withdraw] using List.length_filter_le _ _
  queue := fun e he => by
    simp only [State.withdraw, List.mem_map, List.mem_filter] at he
    obtain ⟨x, ⟨hx, _⟩, rfl⟩ := he
    exact ⟨x, hx, by split <;> rfl, by split <;> rfl⟩
  onLine := by
    simp only [State.withdraw, List.filter_map, List.length_map]
    have hsame : ((fun e : TxEntry => e.onLine) ∘ fun e : TxEntry => if mine e.owner = true then { e with withdrawn := true } else e)
        = fun e => e.onLine := by
      funext e
      simp only [Function.comp]
      split <;> rfl
    rw [hsame]
    exact (List.filter_sublist.filter _).length_le
  waiting := fun _ hw => by simp [State.withdraw, hw]

/-! ### What the tracker's tables keep while lengths and slots move (R40, R41) -/

/-- Places and numbers of the tracker's records stay; only lengths, length-query states, slots and announce-pending marks move. -/
structure Ctr.SameRecords (c d : Ctr) : Prop where
  segStart : d.segStart = c.segStart
  decls    : d.decls.length = c.decls.length
  entries  : d.entries.map (fun e => (e.eStart, e.eEnd)) = c.entries.map fun e => (e.eStart, e.eEnd)
  exits    : d.exits.map (·.coil) = c.exits.map (·.coil)

theorem Ctr.SameRecords.refl (c : Ctr) : c.SameRecords c := ⟨rfl, rfl, rfl, rfl⟩

theorem Ctr.SameRecords.trans {a b c : Ctr} (h : a.SameRecords b) (k : b.SameRecords c) : a.SameRecords c :=
  ⟨k.segStart.trans h.segStart, k.decls.trans h.decls, k.entries.trans h.entries, k.exits.trans h.exits⟩

theorem Ctr.updateLength_sameRecords (c : Ctr) (id : Nat) (lq : LengthState) (n : Option Nat) :
    c.SameRecords (c.updateLength id lq n) where
  segStart := rfl
  decls := by simp [Ctr.updateLength]
  entries := by
    simp only [Ctr.updateLength, List.map_map]
    refine List.map_congr_left fun e _ => ?_
    simp only [Function.comp]
    split <;> rfl
  exits := rfl

theorem Ctr.setSlot_sameRecords (c : Ctr) (i : Nat) (x : LengthSlot) : c.SameRecords (c.setSlot i x) := ⟨rfl, rfl, rfl, rfl⟩

/-! ### Owners at work -/

/-- What the part keeps while an owner of frames and requests acts. -/
structure Works (s t : State) : Prop where
  settings : t.settings = s.settings
  smp      : t.smp = s.smp
  tsc      : t.tsc = s.tsc
  lfr      : t.lfr = s.lfr
  sup      : t.sup = s.sup
  con      : t.con = s.con
  clock    : t.ros.clock = s.ros.clock
  ctr      : s.ctr.SameRecords t.ctr
  cache    : (s.lch.cache.map (·.coil)).Nodup → t.lch.cache.Perm s.lch.cache
  bus      : OwnersAct s.bus t.bus
  service  : t.pse.service.length ≤ s.pse.service.length
  drops    : t.pse.drops = s.pse.drops
  places   : s.req.walk.places.length ≤ Config.placeCap → t.req.walk.places.length ≤ Config.placeCap

theorem Works.refl (s : State) : Works s s :=
  ⟨rfl, rfl, rfl, rfl, rfl, rfl, rfl, .refl _, fun _ => .refl _, .refl _, le_rfl, rfl, id⟩

theorem Works.trans {s t u : State} (h : Works s t) (k : Works t u) : Works s u where
  settings := k.settings.trans h.settings
  smp := k.smp.trans h.smp
  tsc := k.tsc.trans h.tsc
  lfr := k.lfr.trans h.lfr
  sup := k.sup.trans h.sup
  con := k.con.trans h.con
  clock := k.clock.trans h.clock
  ctr := h.ctr.trans k.ctr
  cache := fun hn => (k.cache (((h.cache hn).map _).nodup_iff.2 hn)).trans (h.cache hn)
  bus := h.bus.trans k.bus
  service := k.service.trans h.service
  drops := k.drops.trans h.drops
  places := fun hp => k.places (h.places hp)

/-- What each step of a fold keeps, the fold keeps. -/
theorem foldl_works {α : Type} (f : State → α → State) (h : ∀ s a, Works s (f s a)) (l : List α) (s : State) :
    Works s (l.foldl f s) := by
  induction l generalizing s with
  | nil => exact .refl s
  | cons a l ih => exact (h s a).trans (ih _)

theorem works_req (s : State) (r : Req)
    (h : s.req.walk.places.length ≤ Config.placeCap → r.walk.places.length ≤ Config.placeCap) : Works s { s with req := r } :=
  ⟨rfl, rfl, rfl, rfl, rfl, rfl, rfl, .refl _, fun _ => .refl _, .refl _, le_rfl, rfl, h⟩

/-- A change of REQ that leaves the visited set alone. -/
theorem setReq_works (s : State) (f : Req → Req) (h : (f s.req).walk = s.req.walk) : Works s (s.setReq f) :=
  works_req s _ fun hp => by rw [h]; exact hp

theorem setPse_works (s : State) (f : Pse → Pse) (h : (f s.pse).service.length ≤ s.pse.service.length)
    (hd : (f s.pse).drops = s.pse.drops) : Works s (s.setPse f) :=
  ⟨rfl, rfl, rfl, rfl, rfl, rfl, rfl, .refl _, fun _ => .refl _, .refl _, h, hd, id⟩

theorem works_ctr (s : State) (c : Ctr) (h : s.ctr.SameRecords c) : Works s { s with ctr := c } :=
  ⟨rfl, rfl, rfl, rfl, rfl, rfl, rfl, h, fun _ => .refl _, .refl _, le_rfl, rfl, id⟩

theorem works_bus (s : State) (b : Bus) (h : OwnersAct s.bus b) : Works s { s with bus := b } :=
  ⟨rfl, rfl, rfl, rfl, rfl, rfl, rfl, .refl _, fun _ => .refl _, h, le_rfl, rfl, id⟩

theorem works_roster (s : State) (r : List RosterEntry) : Works s { s with ros := { s.ros with roster := r } } :=
  ⟨rfl, rfl, rfl, rfl, rfl, rfl, rfl, .refl _, fun _ => .refl _, .refl _, le_rfl, rfl, id⟩

theorem offer_works (f : Frame) (o : Owner) (s : State) (h : s.bus.muted = false) : Works s (s.offer f o) :=
  works_bus s _ (ownersAct_waiting s.bus _ fun hm => by rw [h] at hm; cases hm)

theorem withdraw_works (mine : Owner → Bool) (s : State) : Works s (s.withdraw mine) :=
  works_bus s _ (ownersAct_withdraw mine s)

theorem updateRoster_works (st : BitVec 6) (f : RosterEntry → RosterEntry) (s : State) : Works s (s.updateRoster st f) := by
  unfold State.updateRoster
  split
  · exact works_roster s _
  · exact .refl s

/-- A touch brings one record to the front (R77). -/
theorem cacheTouch_perm {cache cache' : List LineageRec} {c : Coil} {r : LineageRec} (h : cacheTouch cache c = some (r, cache'))
    (hn : (cache.map (·.coil)).Nodup) : cache'.Perm cache := by
  unfold cacheTouch at h
  simp only [Option.map_eq_some_iff, Prod.mk.injEq] at h
  obtain ⟨x, hx, rfl, rfl⟩ := h
  induction cache with
  | nil => cases hx
  | cons a l ih =>
    simp only [List.map_cons, List.nodup_cons, List.mem_map, not_exists, not_and] at hn
    by_cases ha : a.coil = c
    · rw [List.find?_cons_of_pos (by simp [ha])] at hx
      cases hx
      rw [List.filter_cons_of_neg (by simp [ha]), List.filter_eq_self.2 fun y hy => by
        simpa using fun hc => hn.1 y hy (hc.trans ha.symm)]
    · rw [List.find?_cons_of_neg (by simp [ha])] at hx
      rw [List.filter_cons_of_pos (by simp [ha])]
      exact (List.Perm.swap a x _).trans ((ih hn.2 hx).cons a)

theorem lookupCache_works (s : State) (c : Coil) : Works s (s.lookupCache c).2 := by
  unfold State.lookupCache
  split
  · exact .refl s
  · rename_i h
    exact ⟨rfl, rfl, rfl, rfl, rfl, rfl, rfl, .refl _, cacheTouch_perm h, .refl _, le_rfl, rfl, id⟩

/-! ### REQ's results and planning -/

theorem handGroup_works (s : State) (g : Group) : Works s (handGroup s g) := by
  unfold handGroup
  split <;> exact setReq_works s _ rfl

theorem addDepth_works (as : List Attr) (s : State) : Works s (addDepth as s) :=
  (setReq_works s _ rfl).trans (foldl_works _ handGroup_works _ _)

theorem acceptPlayback_works (n : Nat) (c : RecState) (s : State) : Works s (acceptPlayback n c s) := by
  unfold acceptPlayback
  simp only
  split
  · exact setReq_works s _ rfl
  · split
    · exact setReq_works s _ rfl
    · exact (setReq_works s _ rfl).trans (addDepth_works _ _)

theorem settleQuery_works (b : QueryBusy) (o : QueryOutcome) (s : State) : Works s (settleQuery b o s) := by
  unfold settleQuery
  split
  · unfold resolveWith
    split
    · exact acceptPlayback_works _ _ s
    · exact acceptPlayback_works _ _ s
    · exact setReq_works s _ rfl
    · exact setReq_works s _ rfl
  · exact setReq_works s _ rfl
  · exact works_req s _ fun hp => by simpa using hp

theorem endQuery_works (i : Nat) (gen : BitVec 2) (b : QueryBusy) (o : QueryOutcome) (s : State) : Works s (endQuery i gen b o s) :=
  ((withdraw_works _ s).trans (setReq_works _ _ rfl)).trans (settleQuery_works _ _ _)

theorem failQuery_works (i : Nat) (dropped : Bool) (s : State) : Works s (failQuery i dropped s) := by
  unfold failQuery
  split
  · simp only
    split
    · rename_i h
      exact (setReq_works s _ rfl).trans (offer_works _ _ _ (by simpa using h.2))
    · refine Works.trans ?_ (endQuery_works _ _ _ _ _)
      split
      · exact .refl s
      · exact updateRoster_works _ _ s
  · exact .refl s

theorem sentQuery_works (i : Nat) (tag : Byte) (s : State) : Works s (sentQuery i tag s) := by
  unfold sentQuery
  split
  · split
    · exact setReq_works s _ rfl
    · exact .refl s
  · exact .refl s

theorem startQuery_works (i : Nat) (c : Coil) (w : Serves) (s : State) : Works s (startQuery i c w s) := by
  unfold startQuery
  simp only
  split
  · exact (setReq_works s _ rfl).trans (failQuery_works _ _ _)
  · rename_i h
    exact (setReq_works s _ rfl).trans (offer_works _ _ _ (by simpa using h))

theorem queryReply_works (source : BitVec 6) (tag : Byte) (a : LineageAnswer) (s : State) : Works s (queryReply source tag a s) := by
  unfold queryReply
  split
  · split
    · exact endQuery_works _ _ _ _ s
    · exact .refl s
  · exact .refl s

theorem queryStep_works {s t : State} (h : queryStep s = some t) : Works s t := by
  unfold queryStep at h
  split at h
  · cases h; exact startQuery_works _ _ _ s
  · cases h

theorem resolve_works (c : Coil) (s : State) : Works s (resolve c s) := by
  unfold resolve
  split
  · exact setReq_works s _ rfl
  · split
    · split
      · exact setReq_works s _ rfl
      · exact acceptPlayback_works _ _ s
    · simp only
      split
      · exact (lookupCache_works s c).trans (acceptPlayback_works _ _ _)
      · split
        · exact setReq_works s _ rfl
        · split
          · exact startQuery_works _ _ _ s
          · exact setReq_works s _ rfl

theorem takePlayback_works (c : Coil) (q a b step depth : Nat) (s : State) : Works s (takePlayback c q a b step depth s) :=
  (setReq_works s _ rfl).trans (resolve_works c _)

theorem lookupRecord_works (c : Coil) (s : State) : Works s (lookupRecord c s).2 := by
  unfold lookupRecord
  split
  · split <;> exact .refl s
  · simp only
    split
    · exact lookupCache_works s c
    · exact .refl s

theorem listCoils_works (as : List Attr) (l : List (Coil × RecState)) (s : State) : Works s (listCoils as l s).2 := by
  induction as generalizing l s with
  | nil => exact .refl s
  | cons a as ih =>
    cases a with
    | ended f c => exact ih l s
    | traced c ta tb sp un br sh =>
      unfold listCoils
      split
      · exact ih l s
      · exact (lookupRecord_works c s).trans (ih _ _)

theorem planStep_works {s t : State} (h : planStep s = some t) : Works s t := by
  unfold planStep at h
  split at h
  · cases h
  · split at h
    · cases h
    · simp only at h
      split at h
      · cases h
        exact ((addDepth_works _ s).trans (listCoils_works _ _ _)).trans (setReq_works _ _ rfl)
      · cases h
        exact (addDepth_works _ s).trans (setReq_works _ _ rfl)

/-! ### The fetch window -/

theorem endFetch_works (i : Nat) (gen : BitVec 2) (g : Group) (m : Nat → Attr → Result) (s : State) :
    Works s (endFetch i gen g m s) :=
  (withdraw_works _ s).trans (setReq_works _ _ rfl)

theorem failFetch_works (i : Nat) (dropped : Bool) (s : State) : Works s (failFetch i dropped s) := by
  unfold failFetch
  split
  · simp only
    split
    · rename_i h
      exact (setReq_works s _ rfl).trans (offer_works _ _ _ (by simpa using h.2))
    · split
      · exact endFetch_works _ _ _ _ s
      · refine Works.trans ?_ (endFetch_works _ _ _ _ _)
        split
        · exact .refl s
        · exact updateRoster_works _ _ s
  · exact .refl s

theorem sentFetch_works (i : Nat) (tag : Byte) (s : State) : Works s (sentFetch i tag s) := by
  unfold sentFetch
  split
  · split
    · exact setReq_works s _ rfl
    · exact .refl s
  · exact .refl s

theorem fetchReply_works (source : BitVec 6) (tag : Byte) (x : FetchResult) (s : State) : Works s (fetchReply source tag x s) := by
  unfold fetchReply
  split
  · split
    · exact endFetch_works _ _ _ _ s
    · exact .refl s
  · exact .refl s

theorem assignStep_works {s t : State} (h : assignStep s = some t) : Works s t := by
  unfold assignStep at h
  split at h
  · simp only at h
    split at h
    · cases h; exact setReq_works s _ rfl
    · split at h
      · cases h; exact (setReq_works s _ rfl).trans (failFetch_works _ _ _)
      · rename_i hm
        cases h; exact (setReq_works s _ rfl).trans (offer_works _ _ _ (by simpa using hm))
  · cases h

theorem endLocal_works (i : Nat) (x : FetchResult) (s : State) : Works s (endLocal i x s) := by
  unfold endLocal
  simp only
  split
  · exact (setReq_works s (fun r => { r with localEval := .idle }) rfl).trans (endFetch_works _ _ _ _ _)
  · exact setReq_works s _ rfl

theorem localStep_works {s t : State} (h : localStep s = some t) : Works s t := by
  unfold localStep at h
  split at h
  · simp only at h
    split at h
    · split at h
      · cases h; exact (setReq_works s _ rfl).trans (endLocal_works _ _ _)
      · cases h; exact (setReq_works s _ rfl).trans (setReq_works _ _ rfl)
    · cases h; exact setReq_works s _ rfl
  · cases h

theorem deliverLocal_works (bins : List BinClass) (s : State) : Works s (deliverLocal bins s) := by
  unfold deliverLocal
  split
  · exact .refl s
  · exact setReq_works s _ rfl
  · split
    · exact setReq_works s _ rfl
    · exact endLocal_works _ _ s

/-! ### Walks -/

/-- A place is taken only below the 257th (R163). -/
theorem addPlace_works (s : State) (p : Place) : Works s (addPlace s p) := by
  unfold addPlace
  simp only
  split
  · exact .refl s
  · split
    · exact works_req s _ id
    · rename_i h
      exact works_req s _ fun _ => by
        simp only [List.length_append, List.length_singleton]
        omega

theorem setWalk_works (s : State) (f : Walk → Walk) (h : (f s.req.walk).places.length ≤ s.req.walk.places.length) :
    Works s (s.setWalk f) := works_req s _ fun hp => h.trans hp

theorem upOutcome_works (c : Coil) (s : State) : Works s (upOutcome c s).2 := by
  unfold upOutcome
  split
  · exact .refl s
  · split
    · exact .refl s
    · split
      · split
        · exact .refl s
        · split <;> exact .refl s
      · simp only
        split
        · exact lookupCache_works s c
        · exact .refl s

theorem expandPiece_works (d : Nat) (c : Coil) (s : State) (p : Piece) : Works s (expandPiece d c s p) := by
  unfold expandPiece
  split
  · exact .refl s
  · simp only
    split
    · exact addPlace_works s _
    · exact (upOutcome_works _ s).trans (addPlace_works _ _)

theorem upStep_works {s t : State} (h : upStep s = some t) : Works s t := by
  unfold upStep at h
  simp only at h
  split at h
  · cases h
  · split at h
    · cases h
    · split at h
      · cases h; exact (setWalk_works s _ le_rfl).trans (foldl_works _ (expandPiece_works _ _) _ _)
      · cases h; exact setWalk_works s _ le_rfl
    · cases h; exact setWalk_works s _ le_rfl

theorem endDescent_works (n : Nat) (s : State) : Works s (endDescent n s) := works_req s _ id

theorem startDescent_works (p : Place) (s : State) : Works s (startDescent p s) := by
  unfold startDescent
  have h0 : Works s ((ownChildren s p.coil).foldl (placeChild (p.depth + 1) p.coil) s) :=
    foldl_works _ (fun s c => addPlace_works s _) _ _
  simp only
  split
  · exact h0.trans (setWalk_works _ _ le_rfl)
  · split
    · exact (h0.trans (setReq_works _ _ rfl)).trans (endDescent_works 1 _)
    · rename_i hm
      exact (h0.trans (setReq_works _ _ rfl)).trans (offer_works _ _ _ (by simpa using hm))

theorem walkStep_works {s t : State} (h : walkStep s = some t) : Works s t := by
  unfold walkStep at h
  split at h
  · exact upStep_works h
  · unfold downStep at h
    simp only at h
    split at h
    · cases h
    · split at h
      · cases h
      · split at h
        · cases h; exact startDescent_works _ s
        · cases h; exact setWalk_works s _ le_rfl
  · cases h

theorem failDescent_works (s : State) : Works s (failDescent s) := by
  unfold failDescent
  split
  · exact .refl s
  · split
    · rename_i h
      exact (setReq_works s _ rfl).trans (offer_works _ _ _ (by simpa using h.2))
    · exact endDescent_works 1 s

theorem sentDescent_works (tag : Byte) (s : State) : Works s (sentDescent tag s) := by
  unfold sentDescent
  split
  · exact setReq_works s _ rfl
  · exact .refl s

theorem descentReply_works (source : BitVec 6) (tag : Byte) (x : DescentPart) (s : State) :
    Works s (descentReply source tag x s) := by
  unfold descentReply
  simp only
  split
  · split
    · exact .refl s
    · exact (setReq_works s _ rfl).trans (foldl_works _ (fun s c => addPlace_works s _) _ _)
  · exact .refl s

theorem takeGenealogy_works (c : Coil) (up : Bool) (depth : Nat) (s : State) : Works s (takeGenealogy c up depth s) := by
  unfold takeGenealogy
  cases up
  · exact works_req s _ fun _ => by simp [Config.placeCap]
  · exact (upOutcome_works c s).trans (works_req _ _ fun _ => by simp [Config.placeCap])

theorem takeCoilList_works (mode : ListMode) (u : Bool) (s : State) : Works s (takeCoilList mode u s) := setReq_works s _ rfl

theorem abortRequest_works (s : State) : Works s (abortRequest s) := by
  have hwalk : ∀ s : State, Works s (abortWalk s) := fun s => by
    unfold abortWalk
    split
    · exact .refl s
    · exact (withdraw_works _ s).trans (works_req _ _ fun _ => by simp)
  unfold abortRequest
  split
  · exact .refl s
  · unfold abortResolving
    split
    · exact .refl s
    · exact (withdraw_works _ s).trans (setReq_works _ _ rfl)
  · unfold abortPlaying
    split
    · exact .refl s
    · exact (withdraw_works _ s).trans (setReq_works _ _ rfl)
  iterate 3 exact hwalk s

/-! ### CTR's queries and PSE -/

theorem endLengthQuery_works (i : Nat) (b : LengthBusy) (n : Option Nat) (s : State) : Works s (endLengthQuery i b n s) :=
  (works_ctr s _ ((Ctr.updateLength_sameRecords _ _ _ _).trans (Ctr.setSlot_sameRecords _ _ _))).trans
    (works_bus _ _ (ownersAct_waiting _ _ fun _ hw => by
      change s.bus.waiting = [] at hw
      simp [hw]))

theorem failLengthQuery_works (i : Nat) (dropped : Bool) (s : State) : Works s (failLengthQuery i dropped s) := by
  unfold failLengthQuery
  split
  · simp only
    split
    · rename_i h
      exact (works_ctr s _ (Ctr.setSlot_sameRecords _ _ _)).trans (offer_works _ _ _ (by simpa using h.2))
    · split
      · exact endLengthQuery_works _ _ _ s
      · exact (endLengthQuery_works _ _ _ s).trans (updateRoster_works _ _ _)
  · exact .refl s

theorem sentLengthQuery_works (i : Nat) (tag : Byte) (s : State) : Works s (sentLengthQuery i tag s) := by
  unfold sentLengthQuery
  split
  · split
    · exact works_ctr s _ (Ctr.setSlot_sameRecords _ _ _)
    · exact .refl s
  · exact .refl s

theorem lengthReply_works (source : BitVec 6) (tag : Byte) (a : LineageAnswer) (s : State) : Works s (lengthReply source tag a s) := by
  unfold lengthReply
  split
  · split
    · exact endLengthQuery_works _ _ _ s
    · exact .refl s
  · exact .refl s

theorem startLengthQuery_works {s t : State} (h : startLengthQuery s = some t) : Works s t := by
  unfold startLengthQuery at h
  split at h
  · cases h
  · split at h
    · split at h
      · cases h; exact works_ctr s _ (Ctr.updateLength_sameRecords _ _ _ _)
      · rename_i hm
        cases h
        exact (works_ctr s _ ((Ctr.updateLength_sameRecords _ _ _ _).trans (Ctr.setSlot_sameRecords _ _ _))).trans
          (offer_works _ _ _ (by simpa using hm))
    · cases h

theorem pseOffer_works (rest : List Frame) (f : Frame) (s : State) : Works s (pseOffer rest f s) := by
  unfold pseOffer
  split
  · exact setPse_works s _ le_rfl rfl
  · rename_i hm
    exact (setPse_works s _ le_rfl rfl).trans (offer_works _ _ _ (by simpa using hm))

theorem pseOfferAll_works (fs : List Frame) (s : State) : Works s (pseOfferAll fs s) := by
  cases fs with
  | nil => exact setPse_works s (fun p => { p with engine := .idle }) le_rfl rfl
  | cons f rest => exact pseOffer_works rest f s

theorem answerRequest_works (r : ServiceReq) (s : State) : Works s (answerRequest r s) := by
  unfold answerRequest
  split
  · exact pseOffer_works _ _ s
  · exact pseOfferAll_works _ s
  · split
    · exact .refl s
    · split
      · exact pseOffer_works _ _ s
      · exact setPse_works s _ le_rfl rfl
  · exact .refl s

theorem pseStep_works {s t : State} (h : pseStep s = some t) : Works s t := by
  unfold pseStep at h
  split at h
  · rename_i r rest _ hs
    split at h
    · cases h
      refine Works.trans (setPse_works s (fun p => { p with service := rest }) ?_ rfl) (answerRequest_works _ _)
      simp [hs]
    · cases h
  · cases h

theorem pseJoined_works (s : State) : Works s (pseJoined s) := by
  unfold pseJoined
  split
  · exact pseOfferAll_works _ s
  · exact .refl s

theorem deliverPeer_works (bins : List BinClass) (s : State) : Works s (deliverPeer bins s) := by
  unfold deliverPeer
  split
  · split
    · exact setPse_works s _ le_rfl rfl
    · exact pseOffer_works _ _ s
  · exact .refl s

theorem deliver_works (who : Evaluator) (bins : List BinClass) (s : State) : Works s (deliver who bins s) := by
  cases who
  · exact deliverPeer_works bins s
  · exact deliverLocal_works bins s

/-! ### Reports of BUS -/

theorem reportSent_works (e : TxEntry) (s : State) : Works s (reportSent e s) := by
  unfold reportSent
  split
  · exact .refl s
  · split
    · exact sentLengthQuery_works _ _ s
    · exact sentQuery_works _ _ s
    · exact sentFetch_works _ _ s
    · exact sentDescent_works _ s
    all_goals exact .refl s

theorem reportDropped_works (e : TxEntry) (s : State) : Works s (reportDropped e s) := by
  unfold reportDropped
  split
  · exact .refl s
  · split
    · split
      · exact failLengthQuery_works _ _ s
      · exact .refl s
    · split
      · exact failQuery_works _ _ s
      · exact .refl s
    · split
      · exact failFetch_works _ _ s
      · exact .refl s
    · split
      · exact failDescent_works s
      · exact .refl s
    · split
      · exact .refl s
      · rename_i hm
        exact offer_works _ _ s (by simpa using hm)
    all_goals exact .refl s

/-! ### The micro step -/

/-- What a micro step is: an owner at work, a frame that joins the queue, a record that joins the output queue, or a grant of the
page memory. -/
inductive MicroKind (s t : State) : Prop where
  | works (h : Works s t)
  | fill (h : fillStep s = some t)
  | emit (h : emitStep s = some t)
  | con (h : conStep s = some t)
  | grant (h : grantStep s = some t)

theorem micro_kind {s t : State} (h : micro s = some t) : MicroKind s t := by
  rcases micro_cases h with ⟨_, h⟩ | h
  · cases h with
    | lengthQuery h => exact .works (startLengthQuery_works h)
    | service h => exact .works (pseStep_works h)
    | localFetch h => exact .works (localStep_works h)
    | assign h => exact .works (assignStep_works h)
    | plan h => exact .works (planStep_works h)
    | query h => exact .works (queryStep_works h)
    | walk h => exact .works (walkStep_works h)
    | fill h => exact .fill h
    | emission h => exact .emit h
    | grant h => exact .grant h
  · exact .con h

end Sys2Proof.Machine

/-! PROOFS. What the line feed events do to the part beyond CTR's tables: a property that the few updates they are made of keep is
kept by each of them. -/

namespace Sys2Proof.Machine

/-- What each step of a fold keeps, the fold keeps. -/
theorem foldl_keeps {α : Type} {P : State → Prop} (f : State → α → State) (h : ∀ s a, P s → P (f s a)) (l : List α) (s : State)
    (hs : P s) : P (l.foldl f s) := by
  induction l generalizing s with
  | nil => exact hs
  | cons a l ih => exact ih _ (h s a hs)

/-- The updates that line feed events are made of keep `P`: CTR's tables, a fault, the segment stop time set to 0, a lookup in the
cache, and an announcement that joins a queue with room while MUTED is clear (R37 to R56). -/
structure Tracks (P : State → Prop) : Prop where
  ctr      : ∀ (s : State) (c : Ctr), P s → P { s with ctr := c }
  fault    : ∀ (s : State) (k : FaultKind) (b : Block) (c : Option Coil) (o : Option Nat), P s → P (s.writeFault k b c o)
  stop     : ∀ s : State, P s → P { s with smp := { s.smp with stopTime := 0 } }
  lookup   : ∀ (s : State) (c : Coil), P s → P (s.lookupCache c).2
  announce : ∀ (s : State) (f : Frame), s.bus.muted = false → s.bus.queue.length < Config.txCap → P s → P (s.join f .ctrAnnounce)

namespace Tracks

variable {P : State → Prop} (hP : Tracks P)
include hP

theorem announceRecord {s : State} (r : ExitRec) (h : P s) : P (s.announce r) := by
  unfold State.announce
  split
  · exact h
  · split
    · rename_i hg
      simp only [Bool.and_eq_true, Bool.not_eq_true', decide_eq_true_eq] at hg
      exact hP.announce _ _ hg.1 hg.2 h
    · exact hP.ctr _ _ h

theorem finalizeCoil {s : State} (expiry : Bool) (c : Coil) (h : P s) : P (finalizeCoil expiry s c) := by
  unfold Machine.finalizeCoil
  split
  · exact h
  · exact hP.announceRecord _ (hP.ctr _ _ h)

theorem finalizeReady {s : State} (checked : Coil → Bool) (h : P s) : P (finalizeReady checked s) := by
  unfold Machine.finalizeReady
  refine foldl_keeps (P := P) _ (fun s c h => ?_) _ _ h
  exact hP.finalizeCoil _ _ h

theorem endRunning {s : State} (x : Nat) (broken : Bool) (h : P s) : P (endRunning x broken s) := by
  unfold Machine.endRunning
  split
  · exact hP.ctr _ _ (hP.finalizeReady _ (hP.ctr _ _ h))
  · exact h

theorem evictEntry {s : State} (h : P s) : P (evictEntry s) := by
  unfold Machine.evictEntry
  split
  · exact h
  · split
    · exact h
    · exact hP.fault _ _ _ _ _ (hP.ctr _ _ h)

theorem joinAt {s : State} (thread : Bool) (x : Nat) (h : P s) : P (joinAt thread x s) := by
  have key : ∀ s : State, P s → P (Machine.evictEntry (Machine.endRunning x false s)) := fun s h =>
    hP.evictEntry (hP.endRunning _ _ h)
  unfold Machine.joinAt
  simp only
  split
  · exact hP.ctr _ _ (key _ (hP.fault _ _ _ _ _ h))
  · exact hP.ctr _ _ (key _ h)

theorem tailAt {s : State} (broken : Bool) (x : Nat) (h : P s) : P (tailAt broken x s) := by
  unfold Machine.tailAt
  split
  · exact hP.endRunning _ _ h
  · exact hP.fault _ _ _ _ _ h

theorem placeExit {s : State} (r : ExitRec) (h : P s) : P (placeExit s r) := by
  have hrenumber : P (Machine.renumber r.coil s) := by
    unfold Machine.renumber
    split
    · exact hP.fault _ _ _ _ _ (hP.ctr _ _ (hP.ctr _ _ h))
    · exact h
  have hevict : ∀ s : State, P s → P (Machine.evictExit s) := fun s h => by
    unfold Machine.evictExit
    split
    · exact h
    · split
      · exact h
      · exact hP.fault _ _ _ _ _ (hP.ctr _ _ (hP.ctr _ _ h))
  exact hP.ctr _ _ (hevict _ hrenumber)

theorem createExits {s : State} (oStart oEnd stop lanes : Nat) (sequence : BitVec 32) (h : P s) :
    P (createExits oStart oEnd stop lanes sequence s) := by
  unfold Machine.createExits
  refine hP.finalizeReady _ (foldl_keeps (P := P) _ (fun s r h => ?_) _ _ h)
  exact hP.placeExit r h

theorem cutAt {s : State} (scrap : Bool) (sequence : BitVec 32) (lanes x : Nat) (h : P s) : P (cutAt scrap sequence lanes x s) := by
  have h0 := hP.stop _ h
  unfold Machine.cutAt
  simp only
  split
  · exact hP.ctr _ _ (hP.ctr _ _ h0)
  · split
    · exact hP.ctr _ _ (hP.ctr _ _ (hP.fault _ _ _ _ _ h0))
    · exact hP.ctr _ _ (hP.ctr _ _ (hP.createExits _ _ _ _ _ h0))

theorem takePosition (hx : ∀ (s : State) (x : Nat), P s → P { s with lfr := { s.lfr with lastPos := x } }) {s : State}
    (p : Option (BitVec 48)) (h : P s) : P (takePosition p s).2 := by
  unfold Machine.takePosition
  simp only
  split
  · exact hP.fault _ _ _ _ _ (hx _ _ h)
  · exact hx _ _ h

theorem lookupLength {s : State} (c : Coil) (h : P s) : P (lookupLength c s).2.2 := by
  unfold Machine.lookupLength
  split
  · exact h
  · split
    · exact h
    · simp only
      split
      · exact hP.lookup _ _ h
      · exact h

theorem declareCoil {s : State} (c : Coil) (hf : Bool) (n : Nat) (o : Option Nat) (h : P s) : P (declareCoil c hf n o s) := by
  unfold Machine.declareCoil
  split
  · exact hP.fault _ _ _ _ _ h
  · simp only
    split
    · exact hP.ctr _ _ h
    · exact hP.ctr _ _ (hP.lookupLength _ h)

/-- What the updates of line feed events keep, a checked line feed record keeps, sample sets apart (R36). -/
theorem takeLf (hx : ∀ (s : State) (x : Nat), P s → P { s with lfr := { s.lfr with lastPos := x } }) {s : State}
    (r : LfRecord) (hr : ∀ es, r = .sampleSet es → P (takeLf (.sampleSet es) s)) (h : P s) :
    P (takeLf r s) := by
  cases r with
  | sampleSet es => exact hr es rfl
  | declare c hf rs n o => exact hP.declareCoil _ _ _ _ h
  | join thread p => exact hP.joinAt _ _ (hP.takePosition hx p h)
  | tailOut p => exact hP.tailAt _ _ (hP.takePosition hx p h)
  | stripBreak p => exact hP.tailAt _ _ (hP.takePosition hx p h)
  | cut scrap sq lanes p => exact hP.cutAt _ _ _ _ (hP.takePosition hx p h)

end Tracks

end Sys2Proof.Machine

/-! PROOFS. Every step keeps the capacities and ranges. -/

namespace Sys2Proof.Machine

/-! ### Counts and numbers -/

theorem satSucc_le {top n : Nat} (h : n ≤ top) : satSucc top n ≤ top := by
  unfold satSucc
  split <;> omega

theorem foldl_beNat_lt (bs : List Byte) (a : Nat) : bs.foldl (fun a b => a * 256 + b.toNat) a < (a + 1) * 256 ^ bs.length := by
  induction bs generalizing a with
  | nil => simp
  | cons b bs ih =>
    have hb : b.toNat < 256 := b.isLt
    calc (b :: bs).foldl (fun a b => a * 256 + b.toNat) a
        < (a * 256 + b.toNat + 1) * 256 ^ bs.length := ih _
      _ ≤ ((a + 1) * 256) * 256 ^ bs.length := Nat.mul_le_mul_right _ (by omega)
      _ = (a + 1) * 256 ^ (b :: bs).length := by rw [List.length_cons, pow_succ]; ring

/-- A number of n bytes is below 256^n (R183). -/
theorem beNat_lt (bs : List Byte) : beNat bs < 256 ^ bs.length := by
  have h := foldl_beNat_lt bs 0
  rwa [zero_add, one_mul] at h

/-! ### Shared operations -/

theorem State.Bounded.works {s t : State} (hs : s.Bounded) (h : Works s t) : t.Bounded where
  odometer := by rw [h.smp]; exact hs.odometer
  fraction := by rw [h.smp]; exact hs.fraction
  debt := by rw [h.smp]; exact hs.debt
  stopTime := by rw [h.smp]; exact hs.stopTime
  flush := by rw [h.tsc]; exact hs.flush
  transmit := h.bus.length.trans hs.transmit
  offLine := fun hr => by
    have hq := hs.offLine (by unfold State.running at *; rwa [h.sup] at hr)
    have hlen := h.bus.length
    rw [hq] at hlen
    exact List.eq_nil_of_length_eq_zero (Nat.le_zero.1 hlen)
  supply := by rw [h.sup]; exact hs.supply
  service := h.service.trans hs.service
  output := by rw [h.con]; exact hs.output
  places := h.places hs.places
  clock := by rw [h.clock]; exact hs.clock
  faultCount := by rw [h.sup]; exact hs.faultCount
  badFrames := by rw [h.bus.badFrames]; exact hs.badFrames
  collisions := by rw [h.bus.collisions]; exact hs.collisions
  drops := by rw [h.drops]; exact hs.drops
  lfErrors := by rw [h.lfr]; exact hs.lfErrors

theorem writeFault_bounded {s : State} (k : FaultKind) (b : Block) (c : Option Coil) (o : Option Nat) (hs : s.Bounded) :
    (s.writeFault k b c o).Bounded := { hs with faultCount := satSucc_le hs.faultCount }

theorem markBadFrame_bounded {s : State} (hs : s.Bounded) : s.markBadFrame.Bounded := by
  unfold State.markBadFrame
  split
  · exact hs
  · exact { writeFault_bounded .badFrame .bus none none hs with }

theorem markLfCheck_bounded {s : State} (hs : s.Bounded) : s.markLfCheck.Bounded := by
  unfold State.markLfCheck
  split
  · exact hs
  · exact { writeFault_bounded .lfCheck .lfr none none hs with }

theorem markServiceDrop_bounded {s : State} (c : Coil) (hs : s.Bounded) : (s.markServiceDrop c).Bounded := by
  unfold State.markServiceDrop
  split
  · exact hs
  · exact { writeFault_bounded .serviceDrop .pse (some c) none hs with }

/-- The head that starts stays in its place (R85). -/
theorem State.startHead_cases (s : State) : s.startHead = s ∨ s.bus.rx = .idle ∧ ∃ j e, s.bus.queue[j]? = some e ∧
    s.mayStart e = true ∧ s.startHead = { s with bus := { s.bus with
      queue := s.bus.queue.set j { e with onLine := true }, rx := .receiving, driven := false, observed := false } } := by
  unfold State.startHead
  split
  · rename_i hrx
    split
    · exact .inl rfl
    · split
      · exact .inl rfl
      · split
        · exact .inr ⟨hrx, _, _, ‹_›, ‹_›, rfl⟩
        · exact .inl rfl
  · exact .inl rfl

theorem startHead_bounded {s : State} (hs : s.Bounded) : s.startHead.Bounded := by
  rcases s.startHead_cases with h | ⟨_, j, e, _, _, h⟩ <;> rw [h]
  · exact hs
  · exact { hs with
      transmit := (List.length_set ..).trans_le hs.transmit
      offLine := fun hr => by
        change s.bus.queue.set j _ = []
        rw [hs.offLine hr, List.set_nil] }

theorem startHead_sup (s : State) : s.startHead.sup = s.sup := by
  rcases s.startHead_cases with h | ⟨_, j, e, _, _, h⟩ <;> rw [h]

/-- A frame joins a queue with room, in a running part (R90). -/
theorem join_bounded {s : State} (f : Frame) (o : Owner) (hr : s.running = true) (hlen : s.bus.queue.length < Config.txCap)
    (hs : s.Bounded) : (s.join f o).Bounded :=
  startHead_bounded { hs with
    transmit := by simpa using hlen
    offLine := fun hn => by
      change s.running = false at hn
      rw [hr] at hn; cases hn }

theorem removeTx_bounded {s : State} (j : Nat) (hs : s.Bounded) : (s.removeTx j).Bounded :=
  { hs with
    transmit := (List.length_eraseIdx_le ..).trans hs.transmit
    offLine := fun hr => by
      change s.bus.queue.eraseIdx j = []
      rw [hs.offLine hr, List.eraseIdx_nil] }

theorem conStep_bounded {s t : State} (hs : s.Bounded) (h : conStep s = some t) : t.Bounded := by
  unfold conStep at h
  split at h
  · cases h
  · rename_i hfree
    have hout : s.con.out.length < Config.outCap := by simpa [State.outFree] using hfree
    split at h
    · cases h; exact { hs with output := by simpa using hout }
    · cases h; exact { hs with output := by simpa using hout }
    · cases h; exact { hs with output := by simpa using hout }
    · cases h

/-! ### Micro steps -/

/-- What a free entry of the transmit queue is given to (R91). -/
theorem fillStep_cases {s t : State} (h : fillStep s = some t) : s.running = true ∧ s.bus.queue.length < Config.txCap ∧
    ((∃ j e, s.bus.waiting[j]? = some e ∧ t = joinWaiting j e s) ∨ ∃ r, s.pendingAnnounce = some r ∧ t = joinAnnounce r s) := by
  unfold fillStep at h
  split at h
  · cases h
  · rename_i hg
    have hg' : s.running = true ∧ s.bus.queue.length < Config.txCap := by simpa using hg
    refine ⟨hg'.1, hg'.2, ?_⟩
    split at h
    · split at h
      · simp only [Option.map_eq_some_iff] at h
        obtain ⟨e, he, rfl⟩ := h
        exact .inl ⟨_, e, he, rfl⟩
      · cases h; exact .inr ⟨_, ‹_›, rfl⟩
    · simp only [Option.map_eq_some_iff] at h
      obtain ⟨e, he, rfl⟩ := h
      exact .inl ⟨_, e, he, rfl⟩
    · cases h; exact .inr ⟨_, ‹_›, rfl⟩
    · cases h

theorem fillStep_bounded {s t : State} (hs : s.Bounded) (h : fillStep s = some t) : t.Bounded := by
  obtain ⟨hr, hlen, ⟨j, e, _, rfl⟩ | ⟨r, _, rfl⟩⟩ := fillStep_cases h
  · unfold joinWaiting
    have hj := join_bounded (s := { s with bus := { s.bus with waiting := s.bus.waiting.eraseIdx j } }) e.frame e.owner hr hlen
      { hs with }
    simp only
    split
    · exact hj.works (pseJoined_works _)
    · exact hj
  · exact join_bounded (s := { s with ctr := _ }) _ _ hr hlen { hs with }

/-- A record of REQ leaves the visited set as it was, or empties it (R128, R153). -/
theorem nextRecord_walk {r : Req} {x : Offered} (h : nextRecord r = some x) : x.2.walk = r.walk ∨ x.2.walk = .empty := by
  have htrace : nextTrace r = some x → x.2.walk = r.walk ∨ x.2.walk = .empty := fun h => by
    unfold nextTrace at h
    split at h
    · cases h; exact .inl rfl
    · split at h
      · cases h; exact .inr rfl
      · split at h
        · cases h; exact .inr rfl
        · split at h
          · cases h
          · split at h
            · cases h; exact .inl rfl
            · cases h
            · cases h; exact .inl rfl
  have hgen : nextGen r = some x → x.2.walk = r.walk ∨ x.2.walk = .empty := fun h => by
    unfold nextGen at h
    split at h
    · cases h; exact .inr rfl
    · split at h
      · simp only [Option.map_eq_some_iff] at h
        obtain ⟨e, _, rfl⟩ := h
        exact .inl rfl
      · split at h
        · cases h; exact .inr rfl
        · cases h
  unfold nextRecord at h
  split at h
  · cases h
  · simp only [Option.map_eq_some_iff] at h
    obtain ⟨e, _, rfl⟩ := h
    exact .inr rfl
  · exact htrace h
  · exact hgen h
  · exact hgen h
  · unfold nextList at h
    split at h
    · cases h; exact .inr rfl
    · split at h
      · cases h; exact .inl rfl
      · cases h; exact .inr rfl

/-- What an emission does (R154, R173). -/
theorem emitStep_cases {s t : State} (h : emitStep s = some t) :
    s.con.out.length < Config.outCap ∧ ∃ x, nextRecord s.req = some x ∧ t = (s.setReq fun _ => x.2).emit x.1 := by
  unfold emitStep at h
  split at h
  · rename_i hg
    simp only [Option.map_eq_some_iff] at h
    obtain ⟨x, hx, rfl⟩ := h
    simp only [Bool.and_eq_true, State.outFree, decide_eq_true_eq] at hg
    exact ⟨hg.1.1, x, hx, rfl⟩
  · cases h

theorem emitStep_bounded {s t : State} (hs : s.Bounded) (h : emitStep s = some t) : t.Bounded := by
  obtain ⟨hout, x, hx, rfl⟩ := emitStep_cases h
  exact { hs with
    output := by simpa using hout
    places := by
      rcases nextRecord_walk hx with h | h
      · simpa [h] using hs.places
      · simp [h, Walk.empty] }

theorem evictAt_flush (slot : Nat) (t : Tsc) : (evictAt slot t).flush = t.flush := by
  unfold evictAt
  split <;> rfl

/-- What a grant of the page memory does (R25 to R27). -/
theorem grantStep_cases {s t : State} (h : grantStep s = some t) : s.tsc.transfer = none ∧
    ((∃ p, s.sup.part = .run ∧ s.tsc.flush.head? = some p ∧ t = { s with tsc := grantWrite p s.tsc }) ∨
      ∃ a, pickAsk s.tsc.mark s.peerAsk s.localAsk = some a ∧ t = grantRead a s) := by
  unfold grantStep at h
  split at h
  · cases h
  · rename_i ht
    refine ⟨by simpa using ht, ?_⟩
    split at h
    · rename_i hp
      split at hp
      · cases h; exact .inl ⟨_, ‹_›, hp, rfl⟩
      · cases hp
    · simp only [Option.map_eq_some_iff] at h
      obtain ⟨a, ha, rfl⟩ := h
      exact .inr ⟨a, ha, rfl⟩

/-- The tsc of a granted read: the alternation mark, and the transfer where a ring slot holds the page (R25, R27). -/
theorem grantRead_works (a : PageAsk) (s : State) : ∃ u : State, Works u (grantRead a s) ∧
    (u = { s with tsc := { s.tsc with mark := a.1 } } ∨
      s.sup.part ≠ .runDegraded ∧
        u = { s with tsc := { s.tsc with mark := a.1, transfer := some (.read a.1 (readPage s a.2.1 a.2.2).1) } }) := by
  unfold grantRead
  simp only
  split
  · rename_i hx
    refine ⟨_, .refl _, .inr ⟨fun hp => ?_, rfl⟩⟩
    rw [readPage, if_pos hp] at hx
    cases hx
  · exact ⟨_, deliver_works _ _ _, .inl rfl⟩

theorem grantStep_bounded {s t : State} (hs : s.Bounded) (h : grantStep s = some t) : t.Bounded := by
  obtain ⟨_, ⟨p, _, _, rfl⟩ | ⟨a, _, rfl⟩⟩ := grantStep_cases h
  · exact { hs with flush := by simpa [grantWrite, evictAt_flush] using hs.flush }
  · obtain ⟨u, hw, hu | ⟨_, hu⟩⟩ := grantRead_works a s <;> refine State.Bounded.works ?_ hw <;> rw [hu] <;> exact { hs with }

theorem micro_bounded {s t : State} (h : micro s = some t) (hs : s.Bounded) : t.Bounded := by
  cases micro_kind h with
  | works h => exact hs.works h
  | fill h => exact fillStep_bounded hs h
  | emit h => exact emitStep_bounded hs h
  | con h => exact conStep_bounded hs h
  | grant h => exact grantStep_bounded hs h

/-! ### Strip and store -/

theorem flushDrop_bounded {s : State} (i openBin : Nat) (hs : s.Bounded) : (flushDrop i openBin s).Bounded :=
  writeFault_bounded _ _ _ _ { hs with flush := (List.length_filter_le ..).trans hs.flush }

theorem takeBin_bounded {s : State} (i openBin k : Nat) (b : Bin) (hs : s.Bounded) : (takeBin i openBin k b s).Bounded := by
  unfold takeBin
  split
  · exact hs
  · split
    · exact hs
    · split
      · exact hs
      · simp only
        split
        · split
          · rename_i hroom
            exact { hs with flush := by simpa using hroom }
          · exact flushDrop_bounded i openBin hs
        · exact { hs with }

theorem handBins_bounded {s : State} (g : Settings) (ob : Nat) (x : SmpChan × List (Nat × Bin)) (hs : s.Bounded) :
    (handBins g ob s x).Bounded := by
  unfold handBins
  split
  · exact hs
  · refine foldl_keeps (P := State.Bounded) _ (fun s kb h => ?_) _ _ hs
    exact takeBin_bounded _ _ _ _ h

theorem followOpenBins_bounded {s : State} (hs : s.Bounded) : (followOpenBins s).Bounded := by
  unfold followOpenBins
  split
  · exact { hs with }
  · exact hs

theorem wholeAdvance_bounded {s : State} (oa ob : Nat) (hs : s.Bounded) : (wholeAdvance oa ob s).Bounded := by
  unfold wholeAdvance
  refine followOpenBins_bounded (foldl_keeps (P := State.Bounded) _ (fun s x h => ?_) _ _ { hs with })
  exact handBins_bounded _ _ _ h

theorem forwardPulse_bounded {s : State} (hs : s.Bounded) : (forwardPulse s).Bounded := by
  have hd := hs.debt
  unfold forwardPulse
  simp only
  split
  · exact { hs with debt := (Nat.sub_le ..).trans hd }
  · have hmoved : ∀ n, { s with smp := { s.smp with
        odometer := min n Config.max48, fraction := if Config.max48 < n then 255 else
          (s.smp.fraction + (s.settings.pulseWeight - s.smp.debt)) % 256, debt := 0 } }.Bounded := fun n =>
      { hs with
        odometer := min_le_right _ _
        fraction := by
          change (if _ then _ else _) ≤ 255
          split
          · exact le_rfl
          · exact Nat.le_of_lt_succ (Nat.mod_lt _ (by decide))
        debt := Nat.zero_le _ }
    split
    · exact wholeAdvance_bounded _ _ (hmoved _)
    · exact hmoved _

theorem lfFail_bounded {s : State} (hs : s.Bounded) : (lfFail s).Bounded :=
  markLfCheck_bounded { hs with lfErrors := satSucc_le hs.lfErrors }

theorem takeSamples_eq (es : List SampleEntry) (m : Smp) : ∃ cs, m.takeSamples es = { m with chans := cs } := by
  unfold Smp.takeSamples
  split
  · exact ⟨m.chans, rfl⟩
  · exact ⟨_, rfl⟩

/-! ### Coil tracking -/

/-- A running part within its bounds. -/
def State.RunsBounded (s : State) : Prop := s.running = true ∧ s.Bounded

theorem runsBounded_tracks : Tracks State.RunsBounded where
  ctr := fun _ _ h => ⟨h.1, { h.2 with }⟩
  fault := fun _ k b c o h => ⟨h.1, writeFault_bounded k b c o h.2⟩
  stop := fun _ h => ⟨h.1, { h.2 with stopTime := Nat.zero_le _ }⟩
  lookup := fun s c h => ⟨by unfold State.running at *; rw [(lookupCache_works s c).sup]; exact h.1, h.2.works (lookupCache_works s c)⟩
  announce := fun s f _ hlen h =>
    ⟨by unfold State.running State.join; rw [startHead_sup]; exact h.1, join_bounded f _ h.1 hlen h.2⟩

theorem takeLf_bounded {s : State} (r : LfRecord) (h : s.RunsBounded) : (takeLf r s).Bounded :=
  (runsBounded_tracks.takeLf (fun _ _ h => ⟨h.1, { h.2 with }⟩) r (fun es _ => by
    obtain ⟨cs, hcs⟩ := takeSamples_eq es s.smp
    simp only [takeLf, hcs]
    exact ⟨h.1, { h.2 with }⟩) h).2

/-! ### The G-bus -/

theorem dropFrame_bounded {s : State} (j : Nat) (e : TxEntry) (k : FaultKind) (hs : s.Bounded) : (dropFrame j e k s).Bounded :=
  (writeFault_bounded _ _ _ _ (removeTx_bounded j hs)).works (reportDropped_works e _)

theorem returnToQueue_bounded {s : State} (j : Nat) (e : TxEntry) (hs : s.Bounded) : (returnToQueue j e s).Bounded := by
  unfold returnToQueue
  split
  · exact removeTx_bounded j hs
  · split
    · exact dropFrame_bounded j e _ hs
    · exact { hs with
        transmit := (List.length_set ..).trans_le hs.transmit
        offLine := fun hr => by
          change s.bus.queue.set j _ = []
          rw [hs.offLine hr, List.set_nil] }

theorem loseArbitration_bounded {s : State} (j : Nat) (e : TxEntry) (hs : s.Bounded) : (loseArbitration j e s).Bounded :=
  returnToQueue_bounded j e { hs with }

theorem collide_bounded {s : State} (j : Nat) (e : TxEntry) (hs : s.Bounded) : (collide j e s).Bounded := by
  have h0 : { s with bus := { s.bus with collisions := satSucc Config.max16 s.bus.collisions, driven := true } }.Bounded :=
    { hs with collisions := satSucc_le hs.collisions }
  unfold collide
  simp only
  split
  · exact dropFrame_bounded _ _ _ h0
  · exact returnToQueue_bounded _ _ h0

theorem sendFrame_bounded {s : State} (j : Nat) (e : TxEntry) (hs : s.Bounded) : (sendFrame j e s).Bounded := by
  unfold sendFrame
  refine State.Bounded.works (removeTx_bounded j ?_) (reportSent_works e _)
  exact { hs with }

theorem discardBadFrame_bounded {s : State} (hs : s.Bounded) : (discardBadFrame s).Bounded :=
  markBadFrame_bounded { hs with badFrames := satSucc_le hs.badFrames }

/-- The part after MUTED has been set and every dropped frame reported: nothing is queued (R97). -/
theorem becomeMuted_bounded {s : State} (hr : s.running = true) (hs : s.Bounded) : (becomeMuted s).Bounded := by
  unfold becomeMuted
  simp only
  generalize hu : ({ s.writeFault .duplicateStation .bus none none with
    bus := { s.bus with muted := true, queue := [], waiting := [] }, pse := s.pse.cleared } : State) = u
  have hb : u.Bounded := by
    rw [← hu]
    exact { writeFault_bounded .duplicateStation .bus none none hs with
      transmit := Nat.zero_le _, offLine := fun _ => rfl, service := Nat.zero_le _ }
  have hw : Works u ((s.bus.queue ++ s.bus.waiting).foldl (fun s e => reportDropped e s) u) :=
    foldl_works _ (fun s e => reportDropped_works e s) _ _
  have hq : u.bus.queue = [] := by rw [← hu]
  have hlen := hw.bus.length
  rw [hq] at hlen
  have hrun : u.running = true := by rw [← hu]; exact hr
  have hrun' : ((s.bus.queue ++ s.bus.waiting).foldl (fun s e => reportDropped e s) u).running = true := by
    unfold State.running at *; rw [hw.sup]; exact hrun
  refine join_bounded _ _ ?_ ?_ ?_
  · subst hu; exact hrun'
  · subst hu
    exact lt_of_le_of_lt hlen (by decide)
  · subst hu; exact hb.works hw

theorem takeTime_bounded {s : State} (p : List Byte) (hs : s.Bounded) : (takeTime p s).Bounded := by
  unfold takeTime
  split
  · exact hs
  · rename_i v hv
    split
    · exact hs
    · unfold parseTime at hv
      split at hv
      · rename_i hlen
        cases hv
        have hlt := beNat_lt p
        rw [hlen] at hlt
        exact { hs with clock := by change beNat p ≤ Config.max48; unfold Config.max48; omega }
      · cases hv

theorem keepRecord_bounded {s : State} (source : BitVec 6) (r : LineageRec) (hs : s.Bounded) : (s.keepRecord source r).Bounded := by
  unfold State.keepRecord
  split
  · exact { hs with }
  · exact hs

theorem takeLineageReply_bounded {s : State} (source : BitVec 6) (tag : Byte) (p : List Byte) (hs : s.Bounded) :
    (takeLineageReply source tag p s).Bounded := by
  have hroute : ∀ (a : LineageAnswer) (s : State), s.Bounded → (if tagUnit tag = 1 then queryReply source tag a s
      else if tagUnit tag = 2 then lengthReply source tag a s else s).Bounded := fun a s hs => by
    split
    · exact hs.works (queryReply_works _ _ _ _)
    · split
      · exact hs.works (lengthReply_works _ _ _ _)
      · exact hs
  unfold takeLineageReply
  split
  · exact hs
  · simp only
    apply hroute
    split
    · exact keepRecord_bounded _ _ hs
    · exact hs

theorem serviceArrive_bounded {s : State} (r : ServiceReq) (hs : s.Bounded) : (serviceArrive r s).Bounded := by
  unfold serviceArrive
  split
  · rename_i h
    exact { hs with service := by simpa using h }
  · exact markServiceDrop_bounded _ { hs with drops := satSucc_le hs.drops }

theorem answerStart_works (s : State) : Works s (answerStart s) := by
  unfold answerStart
  split
  · exact .refl s
  · rename_i h
    simp only [Bool.or_eq_true, not_or, Bool.not_eq_true] at h
    exact offer_works _ _ s h.1

theorem takePresence_bounded {s : State} (source : BitVec 6) (p : Presence) (hs : s.Bounded) : (takePresence source p s).Bounded := by
  have h0 := hs.works (updateRoster_works source (RosterEntry.presence p) s)
  unfold takePresence
  simp only
  split
  · exact h0
  · refine State.Bounded.works ?_ (answerStart_works _)
    split
    · exact { h0 with }
    · exact h0

theorem dispatch_bounded {s : State} (k : FrameKind) (source dest : BitVec 6) (tag : Byte) (p : List Byte) (hs : s.Bounded) :
    (dispatch k source dest tag p s).Bounded := by
  have hreq : ∀ k, (takeRequest k source dest tag p s).Bounded := fun k => by
    unfold takeRequest
    split
    · exact serviceArrive_bounded _ hs
    · exact hs
  unfold dispatch
  split
  · exact takeTime_bounded p hs
  · exact takeLineageReply_bounded _ _ p hs
  · split
    · exact hs
    · exact hs.works (fetchReply_works _ _ _ s)
  · split
    · exact hs
    · exact hs.works (descentReply_works _ _ _ s)
  iterate 3 exact hreq _
  · unfold takeAnnounce
    split
    · exact hs
    · split
      · exact keepRecord_bounded _ _ hs
      · exact hs
  · split
    · exact hs
    · split
      · exact hs
      · exact takePresence_bounded _ _ hs

theorem receiveFrame_bounded {s : State} (k : Option FrameKind) (source dest : BitVec 6) (tag : Byte) (p : List Byte)
    (hr : s.running = true) (hs : s.Bounded) : (receiveFrame k source dest tag p s).Bounded := by
  have h0 : { s with bus := { s.bus with rx := .hunt, driven := true, observed := true } }.Bounded := { hs with }
  unfold receiveFrame
  simp only
  split
  · exact h0
  · split
    · split
      · exact h0
      · exact becomeMuted_bounded hr h0
    · have h1 := h0.works (updateRoster_works source RosterEntry.heard _)
      split
      · exact h1
      · split
        · exact dispatch_bounded _ _ _ _ _ h1
        · exact h1

/-! ### The console link -/

theorem answer_bounded {s : State} (rec : ConRecord) (a : Answer) (hs : s.Bounded) : (s.answer rec a).Bounded := by
  have h0 : (s.setCon fun c => { c with complete := some ⟨rec, a⟩ }).Bounded := { hs with }
  unfold State.answer
  simp only
  cases h : conStep (s.setCon fun c => { c with complete := some ⟨rec, a⟩ }) with
  | none => exact h0
  | some t => exact conStep_bounded h0 h

theorem sendTime_bounded {s : State} (hs : s.Bounded) : (sendTime s).Bounded := by
  unfold sendTime
  simp only
  split
  · exact { hs with }
  · rename_i hm
    refine State.Bounded.works ?_ ((withdraw_works _ _).trans (offer_works _ _ _ ?_))
    · exact { hs with }
    · simpa [State.withdraw] using hm

theorem takeSetTime_bounded {s : State} (n : Nat) (hn : n ≤ Config.max48) (hs : s.Bounded) : (takeSetTime n s).Bounded := by
  unfold takeSetTime
  split
  · refine answer_bounded _ _ ?_
    unfold setClock
    split
    · exact { hs with clock := Nat.zero_le _ }
    · exact sendTime_bounded { hs with clock := hn }
  · exact answer_bounded _ _ hs

theorem passToReq_bounded {s : State} (q : Request) (take : State → State) (hw : Works s (take s)) (hs : s.Bounded) :
    (passToReq q take s).Bounded := by
  unfold passToReq
  split
  · exact hs.works hw
  · exact answer_bounded _ _ hs

theorem takeRequestRecord_bounded {s : State} (q : Request) (hq : q.inRange = true) (hs : s.Bounded) :
    (takeRequestRecord q s).Bounded := by
  unfold takeRequestRecord
  split
  · exact answer_bounded _ _ hs
  · split
    · exact answer_bounded _ _ hs
    · split
      · exact answer_bounded _ _ hs
      · exact passToReq_bounded _ _ (takePlayback_works _ _ _ _ _ _ s) hs
      · exact passToReq_bounded _ _ (takeGenealogy_works _ _ _ s) hs
      · exact passToReq_bounded _ _ (takeCoilList_works _ _ s) hs
      · unfold takeAbort
        split
        · exact answer_bounded _ _ hs
        · exact hs.works (abortRequest_works s)
      · exact answer_bounded _ _ { hs with faultCount := Nat.zero_le _ }
      · exact takeSetTime_bounded _ (by simpa [Request.inRange] using hq) hs

theorem conReceive_bounded {s : State} (rec : ConRecord) (hq : ∀ q, rec = .request q → q.inRange = true) (hs : s.Bounded) :
    (conReceive rec s).Bounded := by
  unfold conReceive
  split
  · exact hs
  · split
    · unfold overrunRecord
      split
      · exact hs
      · split
        · rename_i hfree
          exact { hs with output := by simpa [State.outFree] using hfree }
        · exact { hs with }
    · unfold processRecord
      split
      · exact answer_bounded _ _ hs
      · exact answer_bounded _ _ hs
      · exact answer_bounded _ _ hs
      · exact takeRequestRecord_bounded _ (hq _ rfl) hs

/-- A record judged a request has its fields in range (R172). -/
theorem judgeConsole_inRange {bs : List Byte} {cut : Bool} {q : Request} (h : judgeConsole bs cut = .request q) :
    q.inRange = true := by
  unfold judgeConsole at h
  simp only at h
  split at h
  · cases h
  · split at h
    · cases h
    · split at h
      · cases h
      · exact judgeRequest_inRange h

/-- What conReceive keeps, a byte of the console link keeps, if the assembler does not matter to it. -/
theorem conByte_keeps {P : State → Prop} (hset : ∀ s a, P s → P (s.setCon fun c => { c with assembler := a }))
    (hrec : ∀ rec s, (∀ q, rec = .request q → q.inRange = true) → P s → P (conReceive rec s)) (s : State) (b : Byte) (hs : P s) :
    P (conByte s b) := by
  unfold conByte
  split
  · exact hs
  · split
    · split
      · exact hset s _ hs
      · exact hs
    · split
      · exact hrec _ _ (fun _ => judgeConsole_inRange) (hset s none hs)
      · exact hset s _ hs

/-- What conReceive keeps, every end of a console row keeps, if the assembler does not matter to it. -/
theorem console_keeps {P : State → Prop} (hset : ∀ s a, P s → P (s.setCon fun c => { c with assembler := a }))
    (hrec : ∀ rec s, (∀ q, rec = .request q → q.inRange = true) → P s → P (conReceive rec s)) {s : State} (bs : List Byte)
    (hs : P s) : P (bs.foldl conByte s) ∧ (∀ b, P (conBadByte b (bs.foldl conByte s))) ∧ P (conSilence (bs.foldl conByte s)) := by
  have h0 : P (bs.foldl conByte s) := foldl_keeps (P := P) _ (conByte_keeps hset hrec) _ _ hs
  refine ⟨h0, fun b => ?_, ?_⟩
  · unfold conBadByte
    split
    · exact h0
    · split
      · exact h0
      · exact hrec _ _ (fun _ => judgeConsole_inRange) (hset _ none h0)
  · unfold conSilence
    split
    · exact h0
    · split
      · exact h0
      · exact hrec _ _ (fun _ => judgeConsole_inRange) (hset _ none h0)

/-! ### Starts and the supply -/

/-- In a part state other than RUN and RUN-DEGRADED the queue is empty and stays so. -/
theorem leaveRunning_bounded {s : State} (hs : s.Bounded) : (leaveRunning s).Bounded :=
  { hs with
    transmit := Nat.zero_le _, offLine := fun _ => rfl, service := Nat.zero_le _, output := Nat.zero_le _, places := Nat.zero_le _ }

/-- A change of the part state to one that does not run, the queue being empty. -/
theorem State.Bounded.toPart {s : State} (p : PartState) (hs : s.Bounded) (hq : s.bus.queue = [])
    (hp : s.sup.part ≠ .supplyLow) (hl : p ≠ .supplyLow) : { s with sup := { s.sup with part := p } }.Bounded :=
  { hs with
    offLine := fun _ => hq
    supply := ⟨fun _ => hl, fun _ => hs.supply.2 hp⟩ }

theorem trusted_bounded {s : State} (hs : s.Bounded) : { s with sup := s.sup.trusted }.Bounded := by
  unfold Sup.trusted
  split
  · exact { hs with }
  · exact { hs with faultCount := Nat.zero_le _ }

theorem configFaults_bounded (n : Nat) {s : State} (hs : s.Bounded) : (configFaults n s).Bounded := by
  induction n generalizing s with
  | zero => exact hs
  | succ n ih => exact ih (writeFault_bounded _ _ _ _ hs)

theorem startBlocks_bounded {s : State} (cold : Bool) (image : List (BitVec 16)) (hp : s.sup.part ≠ .supplyLow) (hs : s.Bounded) :
    (startBlocks cold image s).Bounded where
  odometer := by cases cold; exacts [hs.odometer, Nat.zero_le _]
  fraction := by cases cold; exacts [hs.fraction, Nat.zero_le _]
  debt := by cases cold; exacts [hs.debt, Nat.zero_le _]
  stopTime := by cases cold; exacts [hs.stopTime, Nat.zero_le _]
  flush := by
    change (Tsc.start cold _ _ s.tsc).flush.length ≤ _
    unfold Tsc.start
    simp only
    split
    · exact hs.flush
    · exact Nat.zero_le _
  transmit := Nat.zero_le _
  offLine := fun _ => rfl
  supply := by
    have hm := hs.supply.2 hp
    cases cold <;> exact ⟨fun _ h => (by cases h), fun _ => hm⟩
  service := Nat.zero_le _
  output := Nat.zero_le _
  places := by cases cold <;> exact Nat.zero_le _
  clock := Nat.zero_le _
  faultCount := by cases cold; exacts [hs.faultCount, Nat.zero_le _]
  badFrames := Nat.zero_le _
  collisions := Nat.zero_le _
  drops := Nat.zero_le _
  lfErrors := Nat.zero_le _

theorem loadImage_bounded {s : State} (image : List (BitVec 16)) (h : s.sup.part = .loading) (hs : s.Bounded) :
    (loadImage image s).Bounded := by
  have h0 := trusted_bounded hs
  have hpart : s.sup.trusted.part = .loading := by unfold Sup.trusted; split <;> exact h
  have hq : s.bus.queue = [] := hs.offLine (by simp [State.running, h, PartState.running])
  unfold loadImage
  simp only
  split
  · exact (writeFault_bounded .config .sup none none h0).toPart .configFault hq (by change s.sup.trusted.part ≠ _; simp [hpart]) (by simp)
  · exact configFaults_bounded _ (startBlocks_bounded _ _ (by simp [hpart]) h0)

theorem enterRun_bounded {s : State} {p : PartState} (hp : p.running = true) (h : s.sup.part = .checking) (hs : s.Bounded) :
    (enterRun p s).Bounded := by
  have hq : s.bus.queue = [] := hs.offLine (by simp [State.running, h, PartState.running])
  have hnot : p ≠ .supplyLow := fun hl => by rw [hl] at hp; cases hp
  unfold enterRun
  refine join_bounded _ _ hp (by simp [hq, Config.txCap]) ?_
  exact { hs with
    offLine := fun _ => hq
    supply := ⟨fun _ => hnot, fun _ => hs.supply.2 (by simp [h])⟩ }

theorem endSelfTest_bounded {s : State} (reads : List TestRead) (h : s.sup.part = .checking) (hs : s.Bounded) :
    (endSelfTest reads s).Bounded := by
  unfold endSelfTest
  split
  · exact enterRun_bounded rfl h { hs with }
  · exact enterRun_bounded rfl h (writeFault_bounded _ _ _ _ { hs with flush := Nat.zero_le _ })

theorem interruptTest_cases (testing : Option (BitVec 20)) (s : State) : interruptTest testing s = s ∨
    ∃ x, slotUnderTest s testing = some x ∧ interruptTest testing s = { s with tsc := { s.tsc with
      testMark := some x, ring := s.tsc.ring.map fun e => if e.1 = x.1 then (e.1, e.2.blank) else e } } := by
  unfold interruptTest
  split
  · exact .inl rfl
  · exact .inr ⟨_, ‹_›, rfl⟩

theorem holdReset_bounded {s : State} (testing : Option (BitVec 20)) (hs : s.Bounded) : (holdReset testing s).Bounded := by
  unfold holdReset
  simp only
  split
  · exact { hs with }
  · rename_i hp
    rcases interruptTest_cases testing { s with sup := { s.sup with resetPin := true } } with h | ⟨x, _, h⟩ <;> rw [h]
    · exact State.Bounded.toPart _ (leaveRunning_bounded { hs with }) rfl hp (by simp)
    · exact State.Bounded.toPart _ (leaveRunning_bounded { hs with }) rfl hp (by simp)

theorem releaseReset_bounded {s : State} (hs : s.Bounded) : (releaseReset s).Bounded := by
  unfold releaseReset
  simp only
  split
  · exact { hs with }
  · rename_i hp
    exact State.Bounded.toPart _ (leaveRunning_bounded { hs with }) rfl hp (by simp)

theorem enterSupplyLow_bounded {s : State} (hs : s.Bounded) : (enterSupplyLow s).Bounded :=
  { leaveRunning_bounded (writeFault_bounded .supplyLow .sup none (some s.smp.odometer) hs) with
    offLine := fun _ => rfl
    supply := by simp [enterSupplyLow] }

theorem loseRetained_bounded (s : State) : (loseRetained s).Bounded := by
  constructor <;> simp [loseRetained, State.reset, Smp.reset, Tsc.reset, Lfr.reset, Bus.reset, Pse.reset, Ros.reset, Req.reset,
    Walk.empty, Con.reset, Sup.reset]

theorem recoverSupply_bounded {s : State} (h : s.sup.monitor ≠ .above) (hs : s.Bounded) : (recoverSupply s).Bounded := by
  have hp : s.sup.part = .supplyLow := by
    by_contra hn
    exact h (hs.supply.2 hn)
  exact { hs with
    offLine := fun _ => hs.offLine (by simp [State.running, hp, PartState.running])
    supply := by simp [recoverSupply] }

/-! ### Ticks -/

theorem clockTick_le (c : Nat) : clockTick c ≤ Config.max48 := by
  unfold clockTick
  split
  · exact Nat.zero_le _
  · split
    · exact Nat.zero_le _
    · omega

theorem tickClock_bounded {s : State} (hs : s.Bounded) : (tickClock s).Bounded := { hs with clock := clockTick_le _ }

/-- A tick of SMP moves the standstill timer, the stop time, the sampler and STOP (R5, R8, R17). -/
theorem Smp.tick_cases (n : Nat) (m : Smp) : (∃ p cs t, m.tick n = { m with sampler := p, timer := t, chans := cs }) ∨
    m.tick n = { m with stopTime := satSucc Config.max32 m.stopTime } := by
  unfold Smp.tick
  split
  · simp only
    split
    · exact .inl ⟨_, _, _, rfl⟩
    · exact .inl ⟨_, _, _, rfl⟩
  · exact .inr rfl

theorem tickAll_bounded {s : State} (hs : s.Bounded) : (tickAll s).Bounded := by
  have hrest : ∀ m : Smp, m.odometer = s.smp.odometer → m.fraction = s.smp.fraction → m.debt = s.smp.debt →
      m.stopTime ≤ Config.max32 → { tickAll s with smp := m }.Bounded := fun m ho hf hd ht =>
    { hs with
      odometer := ho.trans_le hs.odometer
      fraction := hf.trans_le hs.fraction
      debt := hd.trans_le hs.debt
      stopTime := ht
      transmit := (List.length_map ..).trans_le hs.transmit
      offLine := fun hr => by
        change s.bus.queue.map _ = []
        rw [hs.offLine hr, List.map_nil]
      clock := clockTick_le _ }
  rcases s.smp.tick_cases s.settings.standstillTime with ⟨p, cs, t, h⟩ | h
  · exact hrest (s.smp.tick s.settings.standstillTime) (by rw [h]) (by rw [h]) (by rw [h]) (by rw [h]; exact hs.stopTime)
  · exact hrest (s.smp.tick s.settings.standstillTime) (by rw [h]) (by rw [h]) (by rw [h]) (by rw [h]; exact satSucc_le hs.stopTime)

/-! ### The step -/

theorem effect_bounded {c : Instr} {s u : State} (h : Effect c s u) (hs : s.Bounded) : u.Bounded := by
  have hrun : s.receives = true → s.RunsBounded := fun h => ⟨State.running_of_receives h, hs⟩
  have hconsole := fun bs => console_keeps (P := State.Bounded) (fun s a hs => { hs with }) (fun rec s => conReceive_bounded rec) (s := s) bs hs
  cases h with
  | forward _ => exact forwardPulse_bounded hs
  | reverse _ => exact { hs with debt := min_le_right _ _ }
  | standstill _ => exact { hs with }
  | lfFails _ => exact lfFail_bounded hs
  | lfTaken r h _ => exact takeLf_bounded r (hrun h)
  | expiry coil h =>
    have hr : s.running = true := ((Bool.and_eq_true _ _).mp h).1
    exact (runsBounded_tracks.ctr _ _ (runsBounded_tracks.finalizeCoil true coil ⟨hr, hs⟩)).2
  | lengthTimeout i _ => exact hs.works (failLengthQuery_works _ _ s)
  | flushed page cancelled _ _ =>
    refine { hs with flush := ?_ }
    change (completeWrite _ _ _ s.tsc).flush.length ≤ _
    unfold completeWrite
    simp only
    split
    · exact hs.flush
    · exact (List.length_tail ..).trans_le ((Nat.sub_le ..).trans hs.flush)
  | pageRead who bins _ _ =>
    refine State.Bounded.works ?_ (deliver_works who bins _)
    exact { hs with }
  | lineIdle _ _ => exact startHead_bounded { hs with }
  | stuck _ => exact writeFault_bounded _ _ _ _ { hs with }
  | badFrame _ => exact discardBadFrame_bounded hs
  | unfinished _ => exact { hs with }
  | frame k source dest tag p h => exact receiveFrame_bounded _ _ _ _ _ (hrun h).1 hs
  | lost j e _ _ _ => exact loseArbitration_bounded j e hs
  | collided j e _ _ _ => exact collide_bounded j e hs
  | sent j e _ _ _ => exact sendFrame_bounded j e hs
  | waited j e _ _ => exact startHead_bounded (dropFrame_bounded j e _ hs)
  | queryTimeout i _ => exact hs.works (failQuery_works _ _ s)
  | fetchTimeout i _ => exact hs.works (failFetch_works _ _ s)
  | quietTimer _ =>
    unfold quietEnds
    split
    · exact { hs with }
    · exact hs.works (endDescent_works 0 s)
  | overallTimer _ => exact hs.works (endDescent_works 0 s)
  | timeFrame _ => exact sendTime_bounded hs
  | clockWrap => exact { hs with clock := Nat.zero_le _ }
  | record rec hq => exact conReceive_bounded rec hq hs
  | bytes bs => exact (hconsole bs).1
  | badByte bs b => exact (hconsole bs).2.1 b
  | silence bs => exact (hconsole bs).2.2
  | outputSent => exact { hs with output := (List.length_tail ..).trans_le ((Nat.sub_le ..).trans hs.output) }
  | settled h =>
    exact { trusted_bounded hs with
      offLine := fun _ => hs.offLine (by simp [State.running, h, PartState.running])
      supply := by
        have hm := hs.supply.2 (by simp [h])
        simp only [enterLoading]
        unfold Sup.trusted
        split <;> simp [hm, Sup.clearFaults] }
  | loaded image _ h => exact loadImage_bounded image h hs
  | tested reads h => exact endSelfTest_bounded reads h hs
  | resetHeld testing => exact holdReset_bounded testing hs
  | resetReleased => exact releaseReset_bounded hs
  | supplyLost _ => exact enterSupplyLow_bounded hs
  | retentionLost _ => exact loseRetained_bounded s
  | recovered h => exact recoverSupply_bounded h hs
  | tick _ => exact tickAll_bounded hs
  | clockTick => exact tickClock_bounded hs

/-- Settles O57: the own effect of every command keeps the bounds, and so does every micro step. -/
theorem stepKeepsBounds : Obligations.StepKeepsBounds := fun _ _ hs h =>
  step_keeps (P := State.Bounded) (fun _ _ hs => { hs with }) (fun _ _ _ => effect_bounded) (fun _ _ => micro_bounded) hs h

end Sys2Proof.Machine

/-! PROOFS. Properties that do not look at what the links and the owners move: which updates they must keep, and the commands and
micro steps that then keep them. -/

namespace Sys2Proof.Machine

/-- The updates that the G-bus, the console and the blocks' own work are made of keep `P`. -/
structure Aside (P : State → Prop) : Prop where
  works  : ∀ {s t : State}, Works s t → P s → P t
  sup    : ∀ (s : State) (u : Sup), u.part = s.sup.part → P s → P { s with sup := u }
  con    : ∀ (s : State) (c : Con) (n : Nat), P s → P { s with con := c, freeSeq := n }
  req    : ∀ (s : State) (r : Req), P s → P { s with req := r }
  pse    : ∀ (s : State) (p : Pse), P s → P { s with pse := p }
  ros    : ∀ (s : State) (r : Ros), P s → P { s with ros := r }
  errors : ∀ (s : State) (n : Nat), P s → P { s with lfr := { s.lfr with assembler := [], errors := n } }
  keep   : ∀ (s : State) (source : BitVec 6) (r : LineageRec), P s → P (s.keepRecord source r)
  drop   : ∀ (s : State) (st : BitVec 6), P s → P (dropStation st s)
  line   : ∀ (s : State) (b : Bus), b.queue = s.bus.queue → b.waiting = s.bus.waiting → b.muted = s.bus.muted →
    (b.rx = .idle → s.bus.rx = .idle ∨ ∀ e ∈ s.bus.queue, e.onLine = false) → P s → P { s with bus := b }
  start  : ∀ s : State, P s → P s.startHead
  remove : ∀ (s : State) (j : Nat), P s → P (s.removeTx j)
  put    : ∀ (s : State) (j : Nat) (x y : TxEntry), s.bus.queue[j]? = some x → y.owner = x.owner → y.onLine = false → P s →
    P { s with bus := { s.bus with queue := s.bus.queue.set j y } }
  join   : ∀ (s : State) (f : Frame) (o : Owner), (s.bus.muted = true → o = .busFinal) → P s → P (s.join f o)
  fill   : ∀ (s : State) (j : Nat) (e : TxEntry), s.bus.waiting[j]? = some e → P s →
    P (State.join e.frame e.owner { s with bus := { s.bus with waiting := s.bus.waiting.eraseIdx j } })
  mute   : ∀ s : State, s.running = true → P s → P { s with bus := { s.bus with muted := true, queue := [], waiting := [] } }
  read   : ∀ (s : State) (m : Evaluator) (r : Option Transfer), (∀ p c, s.tsc.transfer ≠ some (.write p c)) →
    (∀ p c, r ≠ some (.write p c)) → (s.sup.part = .runDegraded → r = none ∨ r = s.tsc.transfer) → P s →
      P { s with tsc := { s.tsc with mark := m, transfer := r } }
  write  : ∀ (s : State) (p : Page), s.sup.part = .run → s.tsc.flush.head? = some p → s.tsc.transfer = none → P s →
    P { s with tsc := grantWrite p s.tsc }

namespace Aside

variable {P : State → Prop} (hP : Aside P)
include hP

theorem fault {s : State} (k : FaultKind) (b : Block) (c : Option Coil) (o : Option Nat) (h : P s) : P (s.writeFault k b c o) :=
  hP.sup s _ rfl h

/-! ### Micro steps -/

theorem conStep {s t : State} (h : P s) (ht : conStep s = some t) : P t := by
  unfold Machine.conStep at ht
  split at ht
  · cases ht
  · split at ht
    · cases ht; exact hP.con s _ s.freeSeq h
    · cases ht; exact hP.con s _ s.freeSeq h
    · cases ht; exact hP.con s _ _ h
    · cases ht

theorem fillStep {s t : State} (h : P s) (ht : fillStep s = some t) : P t := by
  obtain ⟨_, _, ⟨j, e, he, rfl⟩ | ⟨r, hr, rfl⟩⟩ := fillStep_cases ht
  · have hj := hP.fill s j e he h
    unfold joinWaiting
    simp only
    split
    · exact hP.works (pseJoined_works _) hj
    · exact hj
  · have hm : s.bus.muted = false := by
      unfold State.pendingAnnounce at hr
      split at hr
      · cases hr
      · rename_i hm
        simpa using hm
    refine hP.join _ _ _ (fun hm' => ?_) (hP.works (works_ctr s { s.ctr with exits := s.ctr.exits.map (setAnnounce false r.coil) }
      ⟨rfl, rfl, rfl, ?_⟩) h)
    · change s.bus.muted = true at hm'
      rw [hm] at hm'; cases hm'
    · simp only [List.map_map]
      refine List.map_congr_left fun x _ => ?_
      simp only [Function.comp, setAnnounce]
      split
      · split <;> rfl
      · rfl

theorem micro {s t : State} (ht : micro s = some t) (h : P s) : P t := by
  cases micro_kind ht with
  | works hw => exact hP.works hw h
  | fill ht => exact hP.fillStep h ht
  | emit ht =>
    obtain ⟨_, x, _, rfl⟩ := emitStep_cases ht
    exact hP.con (s.setReq fun _ => x.2) _ s.freeSeq (hP.req s _ h)
  | con ht => exact hP.conStep h ht
  | grant ht =>
    obtain ⟨hn, ⟨p, hr, hp, rfl⟩ | ⟨a, _, rfl⟩⟩ := grantStep_cases ht
    · exact hP.write s p hr hp hn h
    · have hnw : ∀ p c, s.tsc.transfer ≠ some (.write p c) := fun p c hw => by rw [hn] at hw; cases hw
      obtain ⟨u, hw, hu | ⟨hd, hu⟩⟩ := grantRead_works a s <;> refine hP.works hw ?_ <;> rw [hu]
      · exact hP.read s a.1 s.tsc.transfer hnw hnw (fun _ => .inr rfl) h
      · exact hP.read s a.1 _ hnw (fun p c hw => by cases hw) (fun hp => absurd hp hd) h

/-! ### The G-bus -/

theorem dropFrame {s : State} (j : Nat) (e : TxEntry) (k : FaultKind) (h : P s) : P (dropFrame j e k s) :=
  hP.works (reportDropped_works e _) (hP.fault k .bus none none (hP.remove s j h))

theorem returnToQueue {s : State} (j : Nat) (e x : TxEntry) (hx : s.bus.queue[j]? = some x) (ho : e.owner = x.owner) (h : P s) :
    P (returnToQueue j e s) := by
  unfold Machine.returnToQueue
  split
  · exact hP.remove s j h
  · split
    · exact hP.dropFrame j e _ h
    · exact hP.put s j x { e with onLine := false } hx ho rfl h

theorem loseArbitration {s : State} (j : Nat) (e : TxEntry) (he : s.bus.queue[j]? = some e) (h : P s) : P (loseArbitration j e s) :=
  hP.returnToQueue j e e he rfl (hP.line s { s.bus with driven := true, observed := false } rfl rfl rfl .inl h)

theorem collide {s : State} (j : Nat) (e : TxEntry) (he : s.bus.queue[j]? = some e) (h : P s) : P (collide j e s) := by
  have h0 := hP.line s { s.bus with collisions := satSucc Config.max16 s.bus.collisions, driven := true } rfl rfl rfl .inl h
  unfold Machine.collide
  simp only
  split
  · exact hP.dropFrame _ _ _ h0
  · exact hP.returnToQueue j { e with collisions := e.collisions + 1 } e he rfl h0

/-- A change of the receiver to a state other than IDLE. -/
theorem hunts {s : State} (b : Bus) (hq : b.queue = s.bus.queue) (hw : b.waiting = s.bus.waiting) (hm : b.muted = s.bus.muted)
    (hrx : b.rx ≠ .idle) (h : P s) : P { s with bus := b } :=
  hP.line s b hq hw hm (fun hi => absurd hi hrx) h

theorem sendFrame {s : State} (j : Nat) (e : TxEntry) (h : P s) : P (sendFrame j e s) := by
  unfold Machine.sendFrame
  refine hP.works (reportSent_works e _) (hP.remove _ j ?_)
  exact hP.hunts _ rfl rfl rfl (by simp) h

theorem discardBadFrame {s : State} (h : P s) : P (discardBadFrame s) := by
  have h0 := hP.hunts { s.bus with rx := .hunt, badFrames := satSucc Config.max16 s.bus.badFrames } rfl rfl rfl (by simp) h
  unfold Machine.discardBadFrame State.markBadFrame
  split
  · exact h0
  · exact hP.sup (State.writeFault .badFrame .bus none none _) _ rfl (hP.fault _ _ _ _ h0)

theorem becomeMuted {s : State} (hr : s.running = true) (h : P s) : P (becomeMuted s) := by
  unfold Machine.becomeMuted
  simp only
  refine hP.join _ _ _ (fun _ => rfl) (hP.works (foldl_works _ (fun s e => reportDropped_works e s) _ _) ?_)
  exact hP.pse _ s.pse.cleared (hP.mute (s.writeFault .duplicateStation .bus none none) hr (hP.fault _ _ _ _ h))

theorem takeLineageReply {s : State} (source : BitVec 6) (tag : Byte) (p : List Byte) (h : P s) :
    P (takeLineageReply source tag p s) := by
  have hroute : ∀ (a : LineageAnswer) (s : State), P s → P (if tagUnit tag = 1 then queryReply source tag a s
      else if tagUnit tag = 2 then lengthReply source tag a s else s) := fun a s hs => by
    split
    · exact hP.works (queryReply_works _ _ _ _) hs
    · split
      · exact hP.works (lengthReply_works _ _ _ _) hs
      · exact hs
  unfold Machine.takeLineageReply
  split
  · exact h
  · simp only
    apply hroute
    split
    · exact hP.keep _ _ _ h
    · exact h

theorem takePresence {s : State} (source : BitVec 6) (p : Presence) (h : P s) : P (takePresence source p s) := by
  have h0 := hP.works (updateRoster_works source (RosterEntry.presence p) s) h
  unfold Machine.takePresence
  simp only
  split
  · exact h0
  · refine hP.works (answerStart_works _) ?_
    split
    · exact hP.drop _ _ h0
    · exact h0

theorem takeRequest {s : State} (k : FrameKind) (source dest : BitVec 6) (tag : Byte) (p : List Byte) (h : P s) :
    P (takeRequest k source dest tag p s) := by
  unfold Machine.takeRequest
  split
  · unfold serviceArrive
    split
    · exact hP.pse s _ h
    · have h1 := hP.pse s { s.pse with drops := satSucc Config.max16 s.pse.drops } h
      unfold State.markServiceDrop
      split
      · exact h1
      · exact hP.sup (State.writeFault .serviceDrop .pse _ none _) _ rfl (hP.fault _ _ _ _ h1)
  · exact h

theorem dispatch {s : State} (k : FrameKind) (source dest : BitVec 6) (tag : Byte) (p : List Byte) (h : P s) :
    P (dispatch k source dest tag p s) := by
  unfold Machine.dispatch
  split
  · unfold takeTime
    split
    · exact h
    · split
      · exact h
      · exact hP.ros s _ h
  · exact hP.takeLineageReply _ _ _ h
  · split
    · exact h
    · exact hP.works (fetchReply_works _ _ _ s) h
  · split
    · exact h
    · exact hP.works (descentReply_works _ _ _ s) h
  iterate 3 exact hP.takeRequest _ _ _ _ _ h
  · unfold takeAnnounce
    split
    · exact h
    · split
      · exact hP.keep _ _ _ h
      · exact h
  · split
    · exact h
    · split
      · exact h
      · exact hP.takePresence _ _ h

theorem receiveFrame {s : State} (k : Option FrameKind) (source dest : BitVec 6) (tag : Byte) (p : List Byte)
    (hr : s.running = true) (h : P s) : P (receiveFrame k source dest tag p s) := by
  have h0 := hP.hunts { s.bus with rx := .hunt, driven := true, observed := true } rfl rfl rfl (by simp) h
  unfold Machine.receiveFrame
  simp only
  split
  · exact h0
  · split
    · split
      · exact h0
      · exact hP.becomeMuted hr h0
    · have h1 := hP.works (updateRoster_works source RosterEntry.heard _) h0
      split
      · exact h1
      · split
        · exact hP.dispatch _ _ _ _ _ h1
        · exact h1

/-! ### The console link -/

theorem setCon {s : State} (f : Con → Con) (h : P s) : P (s.setCon f) := hP.con s _ s.freeSeq h

theorem answer {s : State} (rec : ConRecord) (a : Answer) (h : P s) : P (s.answer rec a) := by
  have h0 := hP.setCon (fun c => { c with complete := some ⟨rec, a⟩ }) h
  unfold State.answer
  simp only
  cases ht : Machine.conStep (s.setCon fun c => { c with complete := some ⟨rec, a⟩ }) with
  | none => exact h0
  | some t => exact hP.conStep h0 ht

theorem sendTime {s : State} (h : P s) : P (sendTime s) := by
  have h0 := hP.ros s { s.ros with timeTimer := 0 } h
  unfold Machine.sendTime
  simp only
  split
  · exact h0
  · rename_i hm
    refine hP.works ((withdraw_works _ _).trans (offer_works _ _ _ ?_)) h0
    simpa [State.withdraw] using hm

theorem takeSetTime {s : State} (n : Nat) (h : P s) : P (takeSetTime n s) := by
  unfold Machine.takeSetTime
  split
  · refine hP.answer _ _ ?_
    unfold setClock
    split
    · exact hP.ros s _ h
    · exact hP.sendTime (hP.ros s _ h)
  · exact hP.answer _ _ h

theorem passToReq {s : State} (q : Request) (take : State → State) (hw : Works s (take s)) (h : P s) : P (passToReq q take s) := by
  unfold Machine.passToReq
  split
  · exact hP.works hw h
  · exact hP.answer _ _ h

theorem takeRequestRecord {s : State} (q : Request) (h : P s) : P (takeRequestRecord q s) := by
  unfold Machine.takeRequestRecord
  split
  · exact hP.answer _ _ h
  · split
    · exact hP.answer _ _ h
    · split
      · exact hP.answer _ _ h
      · exact hP.passToReq _ _ (takePlayback_works _ _ _ _ _ _ s) h
      · exact hP.passToReq _ _ (takeGenealogy_works _ _ _ s) h
      · exact hP.passToReq _ _ (takeCoilList_works _ _ s) h
      · unfold takeAbort
        split
        · exact hP.answer _ _ h
        · exact hP.works (abortRequest_works s) h
      · exact hP.answer _ _ (hP.sup s s.sup.clearFaults rfl h)
      · exact hP.takeSetTime _ h

theorem conReceive {s : State} (rec : ConRecord) (h : P s) : P (conReceive rec s) := by
  unfold Machine.conReceive
  split
  · exact h
  · split
    · unfold overrunRecord
      split
      · exact h
      · split
        · exact hP.setCon _ h
        · exact hP.setCon _ h
    · unfold processRecord
      split
      · exact hP.answer _ _ h
      · exact hP.answer _ _ h
      · exact hP.answer _ _ h
      · exact hP.takeRequestRecord _ h

omit hP in
/-- The effects that reach SMP, TSC, the line feed link, CTR's finalization, the part state or every timer at once. -/
inductive Inner (c : Instr) (s : State) : State → Prop where
  | forward (h : s.receives = true) : Inner c s (forwardPulse s)
  | reverse : Inner c s (reversePulse s)
  | standstill : Inner c s { s with smp := s.smp.reachStandstill s.settings.standstillTime }
  | lfTaken (r : LfRecord) (h : s.receives = true) : Inner c s (takeLf r s)
  | expiry (coil : Coil) : Inner c s (finalizeCoil true s coil).release
  | flushed (page : Page) (cancelled : Bool) (h : s.running = true) (ht : s.tsc.transfer = some (.write page cancelled)) :
      Inner c s { s with tsc := completeWrite s.settings.storeCode page cancelled s.tsc }
  | settled (h : s.sup.part = .settling) : Inner c s (enterLoading s)
  | loaded (image : List (BitVec 16)) (hc : c = .configLoad image) (h : s.sup.part = .loading) : Inner c s (loadImage image s)
  | tested (reads : List TestRead) (h : s.sup.part = .checking) : Inner c s (endSelfTest reads s)
  | resetHeld (testing : Option (BitVec 20)) : Inner c s (holdReset testing s)
  | resetReleased : Inner c s (releaseReset s)
  | supplyLost : Inner c s (enterSupplyLow s)
  | retentionLost (h : s.sup.monitor = .between) : Inner c s (loseRetained s)
  | recovered (h : s.sup.monitor ≠ .above) : Inner c s (recoverSupply s)
  | tick (h : s.running = true) : Inner c s (tickAll s)

/-- What the listed updates keep, every command keeps but those of `Inner`. -/
theorem effect {c : Instr} {s u : State} (hu : Effect c s u) (h : P s) : P u ∨ Inner c s u := by
  have hconsole := fun bs => console_keeps (P := P) (fun s a hs => hP.setCon _ hs) (fun rec s _ hs => hP.conReceive rec hs)
    (s := s) bs h
  cases hu with
  | forward hr => exact .inr (.forward hr)
  | reverse _ => exact .inr .reverse
  | standstill _ => exact .inr .standstill
  | lfFails _ =>
    have h0 := hP.errors s (satSucc Config.max16 s.lfr.errors) h
    refine .inl ?_
    unfold lfFail State.markLfCheck
    simp only
    split
    · exact h0
    · exact hP.sup (State.writeFault .lfCheck .lfr none none _) _ rfl (hP.fault _ _ _ _ h0)
  | lfTaken r hr _ => exact .inr (.lfTaken r hr)
  | expiry coil _ => exact .inr (.expiry coil)
  | lengthTimeout i _ => exact .inl (hP.works (failLengthQuery_works _ _ s) h)
  | flushed page cancelled hr ht => exact .inr (.flushed page cancelled hr ht)
  | pageRead who bins _ ht =>
    refine .inl (hP.works (deliver_works who bins _) ?_)
    exact hP.read s s.tsc.mark none (fun p c hw => by rw [ht] at hw; cases hw) (fun p c hw => by cases hw)
      (fun _ => .inl rfl) h
  | lineIdle _ hs =>
    refine .inl (hP.start _ ?_)
    refine hP.line s _ rfl rfl rfl (fun _ => .inr ?_) h
    simpa [State.sending, onLinePlace] using hs
  | stuck _ => exact .inl (hP.fault _ _ _ _ (hP.hunts _ rfl rfl rfl (by simp) h))
  | badFrame _ => exact .inl (hP.discardBadFrame h)
  | unfinished _ => exact .inl (hP.hunts _ rfl rfl rfl (by simp) h)
  | frame k source dest tag p hr => exact .inl (hP.receiveFrame _ _ _ _ _ (State.running_of_receives hr) h)
  | lost j e _ _ he => exact .inl (hP.loseArbitration j e he h)
  | collided j e _ _ he => exact .inl (hP.collide j e he h)
  | sent j e _ _ _ => exact .inl (hP.sendFrame j e h)
  | waited j e _ _ => exact .inl (hP.start _ (hP.dropFrame j e _ h))
  | queryTimeout i _ => exact .inl (hP.works (failQuery_works _ _ s) h)
  | fetchTimeout i _ => exact .inl (hP.works (failFetch_works _ _ s) h)
  | quietTimer _ =>
    refine .inl ?_
    unfold quietEnds
    split
    · exact hP.req s _ h
    · exact hP.req s _ h
  | overallTimer _ => exact .inl (hP.req s _ h)
  | timeFrame _ => exact .inl (hP.sendTime h)
  | clockWrap => exact .inl (hP.ros s _ h)
  | record rec _ => exact .inl (hP.conReceive rec h)
  | bytes bs => exact .inl (hconsole bs).1
  | badByte bs b => exact .inl ((hconsole bs).2.1 b)
  | silence bs => exact .inl (hconsole bs).2.2
  | outputSent => exact .inl (hP.setCon _ h)
  | settled hp => exact .inr (.settled hp)
  | loaded image hc hp => exact .inr (.loaded image hc hp)
  | tested reads hp => exact .inr (.tested reads hp)
  | resetHeld testing => exact .inr (.resetHeld testing)
  | resetReleased => exact .inr .resetReleased
  | supplyLost _ => exact .inr .supplyLost
  | retentionLost hm => exact .inr (.retentionLost hm)
  | recovered hm => exact .inr (.recovered hm)
  | tick hr => exact .inr (.tick hr)
  | clockTick => exact .inl (hP.ros s _ h)

end Aside

end Sys2Proof.Machine

/-! PROOFS. Every step keeps a MUTED part silent and at most one own frame on the line. -/

namespace Sys2Proof.Machine

/-- What `StepKeepsSilence` speaks of. -/
def State.Silent (s : State) : Prop := s.MutedSilent ∧ s.bus.OneOnLine

/-! ### The frame on the line -/

theorem onLine_length_set {q : List TxEntry} (j : Nat) (y : TxEntry) (h : y.onLine = false) :
    ((q.set j y).filter (·.onLine)).length ≤ (q.filter (·.onLine)).length := by
  induction q generalizing j with
  | nil => simp
  | cons a q ih =>
    cases j with
    | zero =>
      rw [List.set_cons_zero, List.filter_cons_of_neg (by simp [h])]
      exact ((List.sublist_cons_self a q).filter _).length_le
    | succ j =>
      rw [List.set_cons_succ]
      cases ha : a.onLine <;> simp [ha, ih j]

theorem onLine_length_start {q : List TxEntry} (j : Nat) (y : TxEntry) (h : ∀ e ∈ q, e.onLine = false) :
    ((q.set j y).filter (·.onLine)).length ≤ 1 := by
  induction q generalizing j with
  | nil => simp
  | cons a q ih =>
    simp only [List.mem_cons, forall_eq_or_imp] at h
    have hq : q.filter (·.onLine) = [] := List.filter_eq_nil_iff.2 fun e he => by simp [h.2 e he]
    cases j with
    | zero => cases hy : y.onLine <;> simp [hy, hq]
    | succ j => simpa [h.1] using ih j h.2

/-! ### Updates of the bus -/

/-- A queue whose frames are those of another, off the line where they were and with the same owners, is as silent. -/
theorem State.Silent.queue {s : State} (h : s.Silent) (q : List TxEntry)
    (ho : ∀ e ∈ q, ∃ x ∈ s.bus.queue, x.owner = e.owner ∧ (e.onLine = true → x.onLine = true))
    (hl : (q.filter (·.onLine)).length ≤ (s.bus.queue.filter (·.onLine)).length) :
    { s with bus := { s.bus with queue := q } }.Silent := by
  refine ⟨⟨fun hm e he => ?_, h.1.waiting, h.1.checking⟩, ⟨hl.trans h.2.one, fun hi e he => ?_⟩⟩
  · obtain ⟨x, hx, hxo, _⟩ := ho e he
    rw [← hxo]; exact h.1.queue hm x hx
  · obtain ⟨x, hx, _, hxl⟩ := ho e he
    have := h.2.idle hi x hx
    cases hl : e.onLine with
    | false => rfl
    | true => rw [hxl hl] at this; cases this

theorem startHead_silent {s : State} (h : s.Silent) : s.startHead.Silent := by
  rcases s.startHead_cases with hs | ⟨hi, j, e, hj, hmay, hs⟩ <;> rw [hs]
  · exact h
  · have hmem : e ∈ s.bus.queue := List.mem_of_getElem? hj
    refine ⟨⟨fun hm x hx => ?_, h.1.waiting, h.1.checking⟩, ⟨onLine_length_start j _ (h.2.idle hi), fun hrx => by cases hrx⟩⟩
    rcases List.mem_or_eq_of_mem_set hx with hx | rfl
    · exact h.1.queue hm x hx
    · exact h.1.queue hm e hmem

theorem join_silent {s : State} (f : Frame) (o : Owner) (ho : s.bus.muted = true → o = .busFinal) (h : s.Silent) :
    (s.join f o).Silent := by
  refine startHead_silent ⟨⟨fun hm e he => ?_, h.1.waiting, h.1.checking⟩, ⟨?_, fun hi e he => ?_⟩⟩
  · rcases List.mem_append.1 he with he | he
    · exact h.1.queue hm e he
    · rw [List.mem_singleton.1 he]; exact ho hm
  · change ((s.bus.queue ++ [TxEntry.fresh f o]).filter _).length ≤ 1
    rw [List.filter_append]
    simpa [TxEntry.fresh] using h.2.one
  · rcases List.mem_append.1 he with he | he
    · exact h.2.idle hi e he
    · rw [List.mem_singleton.1 he]; rfl

theorem works_silent {s t : State} (hw : Works s t) (h : s.Silent) : t.Silent := by
  refine ⟨⟨fun hm e he => ?_, fun hm => ?_, fun hp => ?_⟩, ⟨hw.bus.onLine.trans h.2.one, fun hi e he => ?_⟩⟩
  · obtain ⟨x, hx, ho, _⟩ := hw.bus.queue e he
    rw [← ho]; exact h.1.queue (hw.bus.muted ▸ hm) x hx
  · rw [hw.bus.muted] at hm
    exact hw.bus.waiting hm (h.1.waiting hm)
  · rw [hw.bus.muted]; exact h.1.checking (hw.sup ▸ hp)
  · obtain ⟨x, hx, _, hl⟩ := hw.bus.queue e he
    rw [← hl]; exact h.2.idle (hw.bus.rx ▸ hi) x hx

theorem silent_aside : Aside State.Silent where
  works := works_silent
  sup := fun s u hu h => ⟨⟨h.1.queue, h.1.waiting, fun hp => h.1.checking (hu ▸ hp)⟩, h.2⟩
  con := fun _ _ _ h => ⟨{ h.1 with }, h.2⟩
  req := fun _ _ h => ⟨{ h.1 with }, h.2⟩
  pse := fun _ _ h => ⟨{ h.1 with }, h.2⟩
  ros := fun _ _ h => ⟨{ h.1 with }, h.2⟩
  errors := fun _ _ h => ⟨{ h.1 with }, h.2⟩
  keep := fun s source r h => by
    unfold State.keepRecord
    split
    · exact ⟨{ h.1 with }, h.2⟩
    · exact h
  drop := fun _ _ h => ⟨{ h.1 with }, h.2⟩
  line := fun s b hq hw hm hi h => by
    refine ⟨⟨?_, ?_, ?_⟩, ⟨?_, fun hrx => ?_⟩⟩
    · change b.muted = true → ∀ e ∈ b.queue, _
      rw [hq, hm]; exact h.1.queue
    · change b.muted = true → b.waiting = []
      rw [hw, hm]; exact h.1.waiting
    · change _ → b.muted = false
      rw [hm]; exact h.1.checking
    · change (b.queue.filter _).length ≤ 1
      rw [hq]; exact h.2.one
    · change ∀ e ∈ b.queue, _
      rw [hq]
      rcases hi hrx with hi | hi
      · exact h.2.idle hi
      · exact hi
  start := fun _ => startHead_silent
  remove := fun s j h => h.queue _ (fun e he => ⟨e, List.mem_of_mem_eraseIdx he, rfl, id⟩)
    (((List.eraseIdx_sublist _ _).filter _).length_le)
  put := fun s j x y hx ho hl h => h.queue _ (fun e he => by
      rcases List.mem_or_eq_of_mem_set he with he | rfl
      · exact ⟨e, he, rfl, id⟩
      · exact ⟨x, List.mem_of_getElem? hx, ho.symm, fun hy => by rw [hl] at hy; cases hy⟩)
    (onLine_length_set j y hl)
  join := fun _ f o ho h => join_silent f o ho h
  fill := fun s j e he h => by
    have hm : s.bus.muted = false := by
      cases hm : s.bus.muted with
      | false => rfl
      | true => rw [h.1.waiting hm] at he; cases he
    have hnot : ¬ s.bus.muted = true := by simp [hm]
    exact join_silent _ _ (fun hm' => absurd hm' hnot) ⟨⟨h.1.queue, fun hm' => absurd hm' hnot, h.1.checking⟩, ⟨h.2.one, h.2.idle⟩⟩
  mute := fun s hr h => by
    refine ⟨⟨fun _ e he => (by cases he), fun _ => rfl, fun hp => ?_⟩, ⟨by simp, fun _ e he => by cases he⟩⟩
    change s.sup.part = .checking at hp
    simp [State.running, hp, PartState.running] at hr
  read := fun _ _ _ _ _ _ h => ⟨{ h.1 with }, h.2⟩
  write := fun _ _ _ _ _ h => ⟨{ h.1 with }, h.2⟩

theorem silent_tracks : Tracks State.Silent where
  ctr := fun _ _ h => ⟨{ h.1 with }, h.2⟩
  fault := fun _ k b c o h => silent_aside.fault k b c o h
  stop := fun _ h => ⟨{ h.1 with }, h.2⟩
  lookup := fun s c h => works_silent (lookupCache_works s c) h
  announce := fun s f hm _ h => join_silent f _ (fun hm' => by rw [hm] at hm'; cases hm') h

/-! ### The strip and the store -/

/-- The bus and the part state of `s` stand in `t`. -/
def State.SameLine (s t : State) : Prop := t.bus = s.bus ∧ t.sup.part = s.sup.part

theorem State.Silent.sameLine {s t : State} (h : s.Silent) (ht : s.SameLine t) : t.Silent := by
  obtain ⟨hb, hp⟩ := ht
  exact ⟨⟨hb ▸ h.1.queue, hb ▸ h.1.waiting, fun hc => hb ▸ h.1.checking (hp ▸ hc)⟩, hb ▸ h.2⟩

/-- Only TSC and the fault record differ (R18, R24). -/
def State.StoreMoves (s t : State) : Prop :=
  ∃ tsc fault count, t = { s with tsc := tsc, sup := { s.sup with fault := fault, faultCount := count } }

theorem State.StoreMoves.refl (s : State) : s.StoreMoves s := ⟨s.tsc, s.sup.fault, s.sup.faultCount, rfl⟩

theorem State.StoreMoves.trans {s t u : State} (h : s.StoreMoves t) (k : t.StoreMoves u) : s.StoreMoves u := by
  obtain ⟨_, _, _, rfl⟩ := h
  obtain ⟨tsc, fault, count, rfl⟩ := k
  exact ⟨tsc, fault, count, rfl⟩

theorem storeMoves_tsc (s : State) (t : Tsc) : s.StoreMoves { s with tsc := t } := ⟨t, s.sup.fault, s.sup.faultCount, rfl⟩

theorem flushDrop_storeMoves (i openBin : Nat) (s : State) : s.StoreMoves (flushDrop i openBin s) := ⟨_, _, _, rfl⟩

theorem takeBin_storeMoves (i openBin k : Nat) (b : Bin) (s : State) : s.StoreMoves (takeBin i openBin k b s) := by
  unfold takeBin
  split
  · exact .refl s
  · split
    · exact .refl s
    · split
      · exact .refl s
      · simp only
        split
        · split
          · exact storeMoves_tsc s _
          · exact flushDrop_storeMoves i openBin s
        · exact storeMoves_tsc s _

theorem handBins_storeMoves (g : Settings) (ob : Nat) (s : State) (x : SmpChan × List (Nat × Bin)) :
    s.StoreMoves (handBins g ob s x) := by
  unfold handBins
  split
  · exact .refl s
  · refine foldl_keeps (P := s.StoreMoves) _ (fun t kb h => ?_) _ _ (.refl s)
    exact h.trans (takeBin_storeMoves _ _ _ _ t)

theorem followOpenBins_storeMoves (s : State) : s.StoreMoves (followOpenBins s) := by
  unfold followOpenBins
  split
  · exact storeMoves_tsc s _
  · exact .refl s

/-- What an advance leaves to SMP (R5, R6, R14). -/
def Smp.advanced (g : Settings) (oa ob : Nat) (m : Smp) : Smp :=
  { m with sampler := .moving, timer := 0, chans := m.chans.map fun c => (advanceChannel g oa ob c).1 }

theorem wholeAdvance_storeMoves (oa ob : Nat) (s : State) :
    State.StoreMoves { s with smp := s.smp.advanced s.settings oa ob } (wholeAdvance oa ob s) := by
  have hmap : (s.smp.chans.map (advanceChannel s.settings oa ob)).map (·.1) =
      s.smp.chans.map fun c => (advanceChannel s.settings oa ob c).1 := by rw [List.map_map]; rfl
  unfold wholeAdvance Smp.advanced
  simp only [hmap]
  refine State.StoreMoves.trans ?_ (followOpenBins_storeMoves _)
  refine foldl_keeps (P := State.StoreMoves _) _ (fun t x h => ?_) _ _ (.refl _)
  exact h.trans (handBins_storeMoves _ _ t x)

/-- A forward pulse moves SMP, and beyond it TSC and the fault record; the odometer does not fall below its top. -/
theorem forwardPulse_moves (s : State) : ∃ m, State.StoreMoves { s with smp := m } (forwardPulse s) ∧
    (s.smp.odometer ≤ Config.max48 → s.smp.odometer ≤ m.odometer) := by
  unfold forwardPulse
  simp only
  split
  · exact ⟨_, .refl _, fun _ => le_rfl⟩
  · split
    · refine ⟨_, wholeAdvance_storeMoves _ _ _, fun h => ?_⟩
      exact le_min (Nat.le_add_right _ _) h
    · exact ⟨_, .refl _, fun h => le_min (Nat.le_add_right _ _) h⟩

theorem forwardPulse_sameLine (s : State) : s.SameLine (forwardPulse s) := by
  obtain ⟨m, ⟨t, f, n, h⟩, _⟩ := forwardPulse_moves s
  exact ⟨by rw [h], by rw [h]⟩

/-! ### Starts and the supply -/

/-- An empty queue, and a part state other than CHECKING. -/
theorem silent_of_abandoned {t : State} (b : Bus) (hb : t.bus = b.abandoned) (hp : t.sup.part ≠ .checking) : t.Silent := by
  refine ⟨⟨fun _ e he => ?_, fun _ => ?_, fun hc => absurd hc hp⟩, ⟨?_, fun _ e he => ?_⟩⟩
  · rw [hb] at he; cases he
  · rw [hb]; rfl
  · rw [hb]; exact Nat.zero_le _
  · rw [hb] at he; cases he

theorem toPart_silent {s : State} (h : s.Silent) (u : Sup) (hp : u.part ≠ .checking) : { s with sup := u }.Silent :=
  ⟨⟨h.1.queue, h.1.waiting, fun hc => absurd hc hp⟩, h.2⟩

theorem enterRun_silent {s : State} (p : PartState) (hp : p ≠ .checking) (h : s.Silent) (hm : s.bus.muted = false) :
    (enterRun p s).Silent := by
  unfold enterRun
  refine join_silent _ _ (fun hm' => ?_) ?_
  · change s.bus.muted = true at hm'
    rw [hm] at hm'; cases hm'
  · refine ⟨⟨h.1.queue, h.1.waiting, fun hc => absurd hc hp⟩, ⟨h.2.one, fun hi => by cases hi⟩⟩

theorem endSelfTest_silent {s : State} (reads : List TestRead) (hp : s.sup.part = .checking) (h : s.Silent) :
    (endSelfTest reads s).Silent := by
  have hm := h.1.checking hp
  unfold endSelfTest
  split
  · exact enterRun_silent _ (by simp) ⟨{ h.1 with }, h.2⟩ hm
  · exact enterRun_silent _ (by simp) (silent_aside.fault _ _ _ _ ⟨{ h.1 with }, h.2⟩) hm

theorem loadImage_silent {s : State} (image : List (BitVec 16)) (h : s.Silent) : (loadImage image s).Silent := by
  unfold loadImage
  simp only
  split
  · exact ⟨⟨h.1.queue, h.1.waiting, fun hc => (by cases hc)⟩, h.2⟩
  · have hfaults : ∀ (n : Nat) (s : State), s.Silent → (configFaults n s).Silent := fun n => by
      induction n with
      | zero => exact fun s h => h
      | succ n ih => exact fun s h => ih _ (silent_aside.fault _ _ _ _ h)
    exact hfaults _ _ ⟨⟨fun _ e he => (by cases he), fun _ => rfl, fun _ => rfl⟩, ⟨by simp [startBlocks, Bus.reset], fun _ e he => by cases he⟩⟩

theorem tickAll_silent {s : State} (h : s.Silent) : (tickAll s).Silent := by
  refine State.Silent.sameLine (h.queue (s.bus.queue.map (TxEntry.tick s.settings.queueWait)) (fun e he => ?_) (le_of_eq ?_)) ⟨rfl, rfl⟩
  · obtain ⟨x, hx, rfl⟩ := List.mem_map.1 he
    exact ⟨x, hx, rfl, id⟩
  · rw [List.filter_map, List.length_map]
    rfl

theorem inner_silent {c : Instr} {s u : State} (hu : Aside.Inner c s u) (h : s.Silent) : u.Silent := by
  cases hu with
  | forward _ => exact h.sameLine (forwardPulse_sameLine s)
  | reverse => exact ⟨{ h.1 with }, h.2⟩
  | standstill => exact ⟨{ h.1 with }, h.2⟩
  | lfTaken r _ => exact silent_tracks.takeLf (fun _ _ h => ⟨{ h.1 with }, h.2⟩) r (fun es _ => ⟨{ h.1 with }, h.2⟩) h
  | expiry coil => exact silent_tracks.ctr _ _ (silent_tracks.finalizeCoil true coil h)
  | flushed _ _ _ _ => exact ⟨{ h.1 with }, h.2⟩
  | settled _ => exact ⟨⟨h.1.queue, h.1.waiting, fun hc => (by cases hc)⟩, h.2⟩
  | loaded image _ _ => exact loadImage_silent image h
  | tested reads hp => exact endSelfTest_silent reads hp h
  | resetHeld testing =>
    unfold holdReset
    simp only
    split
    · exact ⟨{ h.1 with }, h.2⟩
    · rcases interruptTest_cases testing { s with sup := { s.sup with resetPin := true } } with ht | ⟨x, _, ht⟩ <;> rw [ht]
      · exact silent_of_abandoned s.bus rfl (by simp)
      · exact silent_of_abandoned s.bus rfl (by simp)
  | resetReleased =>
    unfold releaseReset
    simp only
    split
    · exact ⟨{ h.1 with }, h.2⟩
    · exact silent_of_abandoned s.bus rfl (by simp)
  | supplyLost => exact silent_of_abandoned s.bus rfl (by simp [enterSupplyLow])
  | retentionLost _ =>
    exact ⟨⟨fun _ e he => (by cases he), fun _ => rfl, fun hc => (by cases hc)⟩, ⟨by simp [loseRetained, State.reset, Bus.reset],
      fun _ e he => by cases he⟩⟩
  | recovered _ => exact toPart_silent h _ (by simp)
  | tick _ => exact tickAll_silent h

/-- Settles O59: every own effect and every micro step keeps a MUTED part silent and at most one frame on the line. -/
theorem stepKeepsSilence : Obligations.StepKeepsSilence := fun _ _ hm hl h =>
  step_keeps (P := State.Silent) (fun _ _ hs => ⟨{ hs.1 with }, hs.2⟩)
    (fun _ _ _ hu hs => (silent_aside.effect hu hs).elim id fun hi => inner_silent hi hs)
    (fun _ _ ht hs => silent_aside.micro ht hs) ⟨hm, hl⟩ h

end Sys2Proof.Machine

/-! PROOFS. The state right after reset, and what a step takes. -/

namespace Sys2Proof.Machine

/-- A commit answers a next state. -/
theorem commit_next (s : State) (o : Option State) : ∃ t, commit s o = .next t := by
  cases o with
  | none => exact ⟨s, rfl⟩
  | some u => exact ⟨settle u, rfl⟩

theorem requestArrives_next (q : Request) (s : State) : ∃ t, requestArrives q s = .next t := commit_next s _

/-- Every row ends in a commit. -/
theorem exec_next (c : Instr) (s : State) : ∃ t, exec c s = .next t := by
  cases c with
  | genealogy coil direction depth =>
    change ∃ t, execGenealogy coil direction depth s = .next t
    unfold execGenealogy requestArrives
    split <;> exact commit_next _ _
  | playback => exact requestArrives_next _ _
  | coilList => exact requestArrives_next _ _
  | status => exact requestArrives_next _ _
  | abort => exact requestArrives_next _ _
  | clearFault => exact requestArrives_next _ _
  | setTime => exact requestArrives_next _ _
  | consoleBadRecord bytes framingError => exact commit_next s (some (conBytes bytes framingError s))
  | consoleByteTimeout got => exact commit_next s (some (conSilence (got.foldl conByte s)))
  | externalResetAssert testing => exact commit_next s (some (holdReset testing s))
  | _ => exact commit_next _ _

/-- Settles O1: by the definition of a step, and since every row ends in a commit. -/
theorem stepTakesFrontCommand : Obligations.StepTakesFrontCommand := by
  refine ⟨fun _ _ => rfl, fun s h => ?_, exec_next⟩
  unfold step
  rw [h]

/-- Settles O2: the reset values, field by field. -/
theorem resetLeavesColdValues : Obligations.ResetLeavesColdValues := by
  and_intros <;> decide

/-- The store holds nothing at reset. -/
theorem reset_storeSound : State.reset.StoreSound := by
  constructor <;> simp [State.reset, Settings.unloaded, Smp.reset, Tsc.reset, Sup.reset, ringWf, slotCount, State.running,
    PartState.running]

/-- Settles O60: every table is empty at reset, every count 0, and the part in its settle count. -/
theorem resetHasForms : Obligations.ResetHasForms := by
  refine ⟨?_, ?_, ?_, rfl, fun c hc => (by cases hc), le_rfl, ?_, reset_storeSound, ?_, ?_⟩
  · constructor <;> decide
  · constructor <;> decide
  · constructor <;> decide
  · constructor <;> simp [State.reset, Ctr.reset, Lfr.reset]
  · constructor <;> decide
  · constructor <;> decide

end Sys2Proof.Machine

/-! PROOFS. The tables of the tracker, the event positions, the lineage cache, the slots of the page ring and the open bins, under
every command. -/

namespace Sys2Proof.Machine

/-! ### The tracker's records while blocks go on (R54, R56) -/

/-- Start and end of each entry record, in JOIN order. -/
def Ctr.spans (c : Ctr) : List (Nat × Option Nat) := c.entries.map fun e => (e.eStart, e.eEnd)

theorem startHead_ctr (s : State) : s.startHead.ctr = s.ctr := by
  rcases s.startHead_cases with h | ⟨_, j, e, _, _, h⟩ <;> rw [h]

theorem startHead_lfr (s : State) : s.startHead.lfr = s.lfr := by
  rcases s.startHead_cases with h | ⟨_, j, e, _, _, h⟩ <;> rw [h]

theorem setAnnounce_coil (m : Bool) (c : Coil) (r : ExitRec) : (setAnnounce m c r).coil = r.coil := by
  unfold setAnnounce
  split
  · split <;> rfl
  · rfl

theorem announce_sameRecords (r : ExitRec) (s : State) : s.ctr.SameRecords (s.announce r).ctr := by
  unfold State.announce
  split
  · exact .refl _
  · split
    · unfold State.join
      rw [startHead_ctr]
      exact .refl _
    · refine ⟨rfl, rfl, rfl, ?_⟩
      simp only [List.map_map]
      exact List.map_congr_left fun x _ => setAnnounce_coil _ _ x

theorem ExitRec.finalized_coil (es : List Entry) (expiry : Bool) (r : ExitRec) : (r.finalized es expiry).coil = r.coil := by
  unfold ExitRec.finalized
  split <;> rfl

/-- Finalization leaves every record in its place (R54). -/
theorem finalizeCoil_sameRecords (expiry : Bool) (s : State) (c : Coil) : s.ctr.SameRecords (finalizeCoil expiry s c).ctr := by
  unfold finalizeCoil
  split
  · exact .refl _
  · rename_i r hr
    have hc : r.coil = c := by simpa using List.find?_some hr
    dsimp only
    refine Ctr.SameRecords.trans ?_ (announce_sameRecords _ _)
    refine ⟨rfl, rfl, rfl, ?_⟩
    simp only [List.map_map]
    refine List.map_congr_left fun x _ => ?_
    simp only [Function.comp]
    split
    · rename_i hx
      rw [ExitRec.finalized_coil, hc, hx]
    · rfl

theorem finalizeReady_sameRecords (checked : Coil → Bool) (s : State) : s.ctr.SameRecords (finalizeReady checked s).ctr := by
  unfold finalizeReady
  refine foldl_keeps (P := fun t => s.ctr.SameRecords t.ctr) _ (fun t c h => ?_) _ _ (.refl _)
  exact h.trans (finalizeCoil_sameRecords _ _ _)

/-! ### Entry records (R43 to R47) -/

theorem release_spans (c : Ctr) : c.release.spans.Sublist c.spans := List.filter_sublist.map _

/-- The entry records after the RUNNING one ends at `x`: those of before, each with an end, but for those no longer needed. -/
theorem endRunning_spans (x : Nat) (broken : Bool) (s : State) :
    (endRunning x broken s).ctr.spans.Sublist (s.ctr.spans.map fun e => (e.1, some (e.2.getD x))) ∧
      (endRunning x broken s).ctr.decls.length = s.ctr.decls.length ∧ (endRunning x broken s).ctr.segStart = s.ctr.segStart ∧
        (endRunning x broken s).ctr.exits.map (·.coil) = s.ctr.exits.map (·.coil) := by
  unfold endRunning
  split
  · have hsame := finalizeReady_sameRecords (fun _ => true)
      { s with ctr := { s.ctr with entries := s.ctr.entries.map (Entry.endAt x broken) } }
    have hspans : (s.ctr.entries.map (Entry.endAt x broken)).map (fun e => (e.eStart, e.eEnd)) =
        s.ctr.spans.map fun e => (e.1, some (e.2.getD x)) := ?_
    · exact ⟨(release_spans _).trans (hsame.entries.trans hspans ▸ .refl _), hsame.decls, hsame.segStart, hsame.exits⟩
    simp only [Ctr.spans, List.map_map]
    refine List.map_congr_left fun e _ => ?_
    simp only [Function.comp, Entry.endAt]
    split <;> simp [*]
  · rename_i hn
    have hdone : ∀ e ∈ s.ctr.entries, e.eEnd.isSome = true := by
      simpa [Ctr.running, Option.isSome_iff_ne_none] using hn
    have hspans : s.ctr.spans = s.ctr.spans.map fun e => (e.1, some (e.2.getD x)) := ?_
    · exact ⟨hspans ▸ .refl _, rfl, rfl, rfl⟩
    simp only [Ctr.spans, List.map_map]
    refine List.map_congr_left fun e he => ?_
    obtain ⟨y, hy⟩ := Option.isSome_iff_exists.1 (hdone e he)
    simp [hy]

/-- ENTRY-EVICT only removes a record, and where the table is full of DONE records it does (R47). -/
theorem evictEntry_spans (s : State) : (evictEntry s).ctr.spans.Sublist s.ctr.spans ∧
    (evictEntry s).ctr.decls = s.ctr.decls ∧ (evictEntry s).ctr.segStart = s.ctr.segStart ∧
      (evictEntry s).ctr.exits.map (·.coil) = s.ctr.exits.map (·.coil) ∧
        (s.ctr.entries.length ≤ Config.entryCap → (∀ e ∈ s.ctr.entries, e.eEnd.isSome = true) →
          (evictEntry s).ctr.entries.length < Config.entryCap) := by
  unfold evictEntry
  split
  · exact ⟨.refl _, rfl, rfl, rfl, fun _ _ => ‹_›⟩
  · rename_i hfull
    split
    · rename_i hnone
      refine ⟨.refl _, rfl, rfl, rfl, fun _ hdone => absurd ?_ hfull⟩
      have hempty : s.ctr.entries = [] := List.eq_nil_iff_forall_not_mem.2 fun e he => by
        simpa [hdone e he] using List.find?_eq_none.1 hnone e he
      rw [hempty]
      decide
    · rename_i e he
      refine ⟨List.filter_sublist.map _, rfl, rfl, ?_, fun hlen _ => ?_⟩
      · simp only [State.writeFault_ctr, List.map_map]
        refine List.map_congr_left fun r _ => ?_
        simp only [Function.comp, ExitRec.cutLink]
        split <;> rfl
      · refine lt_of_lt_of_le (List.length_filter_lt_length_iff_exists.2 ⟨e, List.mem_of_find?_eq_some he, by simp⟩) hlen

/-- The entry table after a JOIN at `x`: records of before, all with an end, and the new RUNNING one (R43). -/
theorem joinAt_spans (thread : Bool) (x : Nat) (s : State) :
    ∃ l, (joinAt thread x s).ctr.spans = l ++ [(x, none)] ∧ l.Sublist (s.ctr.spans.map fun e => (e.1, some (e.2.getD x))) ∧
      (joinAt thread x s).ctr.decls.length ≤ s.ctr.decls.length ∧ (joinAt thread x s).ctr.segStart = s.ctr.segStart ∧
        (joinAt thread x s).ctr.exits.map (·.coil) = s.ctr.exits.map (·.coil) ∧
          (s.ctr.entries.length ≤ Config.entryCap → l.length < Config.entryCap) := by
  have key : ∀ u : State, u.ctr = s.ctr → ∃ l, (addRunning x (evictEntry (endRunning x false u)).ctr).spans = l ++ [(x, none)] ∧
      l.Sublist (s.ctr.spans.map fun e => (e.1, some (e.2.getD x))) ∧
        (addRunning x (evictEntry (endRunning x false u)).ctr).decls.length ≤ s.ctr.decls.length ∧
          (addRunning x (evictEntry (endRunning x false u)).ctr).segStart = s.ctr.segStart ∧
            (addRunning x (evictEntry (endRunning x false u)).ctr).exits.map (·.coil) = s.ctr.exits.map (·.coil) ∧
              (s.ctr.entries.length ≤ Config.entryCap → l.length < Config.entryCap) := fun u hu => by
    obtain ⟨hsub, hdecls, hseg, hexits⟩ := endRunning_spans x false u
    obtain ⟨hsub', hdecls', hseg', hexits', hroom⟩ := evictEntry_spans (endRunning x false u)
    rw [hu] at hsub hdecls hseg hexits
    generalize evictEntry (endRunning x false u) = v at hsub' hdecls' hseg' hexits' hroom
    have hadd : (addRunning x v.ctr).spans = v.ctr.spans ++ [(x, none)] ∧ (addRunning x v.ctr).decls.length ≤ v.ctr.decls.length ∧
        (addRunning x v.ctr).segStart = v.ctr.segStart ∧ (addRunning x v.ctr).exits = v.ctr.exits := by
      unfold addRunning
      split
      · rename_i hd
        exact ⟨by simp [Ctr.spans], by simp [hd], rfl, rfl⟩
      · exact ⟨by simp [Ctr.spans], le_rfl, rfl, rfl⟩
    obtain ⟨h1, h2, h3, h4⟩ := hadd
    refine ⟨v.ctr.spans, h1, hsub'.trans hsub, h2.trans (by rw [hdecls', hdecls]), h3.trans (hseg'.trans hseg), ?_, fun hlen => ?_⟩
    · rw [h4, hexits', hexits]
    · refine lt_of_eq_of_lt (by simp [Ctr.spans]) (hroom ?_ fun e he => ?_)
      · refine le_trans ?_ hlen
        simpa [Ctr.spans] using hsub.length_le
      · have hmem : (e.eStart, e.eEnd) ∈ (endRunning x false u).ctr.spans := List.mem_map.2 ⟨e, he, rfl⟩
        obtain ⟨y, _, hy⟩ := List.mem_map.1 (hsub.subset hmem)
        simp only [Prod.mk.injEq] at hy
        rw [← hy.2]; rfl
  unfold joinAt
  simp only
  split
  · exact key _ rfl
  · exact key _ rfl

/-! ### Exit records (R49 to R52) -/

theorem removeExit_coils (c : Coil) (s : State) :
    (removeExit c s).ctr.exits.map (·.coil) = (s.ctr.exits.map (·.coil)).filter fun d => d != c := by
  simp only [removeExit, State.release, Ctr.release, List.filter_map]
  rfl

theorem removeExit_rest (c : Coil) (s : State) : (removeExit c s).ctr.spans.Sublist s.ctr.spans ∧
    (removeExit c s).ctr.decls = s.ctr.decls ∧ (removeExit c s).ctr.segStart = s.ctr.segStart :=
  ⟨List.filter_sublist.map _, rfl, rfl⟩

theorem renumber_coils (c : Coil) (s : State) :
    (renumber c s).ctr.exits.map (·.coil) = (s.ctr.exits.map (·.coil)).filter fun d => d != c := by
  unfold renumber
  split
  · exact removeExit_coils c s
  · rename_i hn
    symm
    refine List.filter_eq_self.2 fun d hd => ?_
    obtain ⟨r, hr, rfl⟩ := List.mem_map.1 hd
    have := (by simpa [State.findExit] using hn : ∀ r ∈ s.ctr.exits, ¬ r.coil = c) r hr
    simpa using this

theorem renumber_rest (c : Coil) (s : State) : (renumber c s).ctr.spans.Sublist s.ctr.spans ∧
    (renumber c s).ctr.decls = s.ctr.decls ∧ (renumber c s).ctr.segStart = s.ctr.segStart := by
  unfold renumber
  split
  · exact removeExit_rest c s
  · exact ⟨.refl _, rfl, rfl⟩

theorem evictExit_coils (s : State) : ((evictExit s).ctr.exits.map (·.coil)).Sublist (s.ctr.exits.map (·.coil)) ∧
    (s.ctr.exits.length ≤ Config.exitCap → (evictExit s).ctr.exits.length < Config.exitCap) ∧
      (evictExit s).ctr.spans.Sublist s.ctr.spans ∧ (evictExit s).ctr.decls = s.ctr.decls ∧
        (evictExit s).ctr.segStart = s.ctr.segStart := by
  unfold evictExit
  split
  · exact ⟨.refl _, fun _ => ‹_›, .refl _, rfl, rfl⟩
  · rename_i hfull
    split
    · rename_i hnone
      refine ⟨.refl _, fun _ => absurd ?_ hfull, .refl _, rfl, rfl⟩
      rw [List.head?_eq_none_iff.1 hnone]
      decide
    · rename_i r hr
      obtain ⟨h1, h2, h3⟩ := removeExit_rest r.coil s
      refine ⟨?_, fun hlen => ?_, h1, h2, h3⟩
      · rw [State.writeFault_ctr, removeExit_coils]
        exact List.filter_sublist
      · refine lt_of_lt_of_le ?_ hlen
        rw [State.writeFault_ctr, ← List.length_map (fun r : ExitRec => r.coil), removeExit_coils,
          ← List.length_map (as := s.ctr.exits) (fun r : ExitRec => r.coil)]
        exact List.length_filter_lt_length_iff_exists.2 ⟨r.coil, List.mem_map.2 ⟨r, List.mem_of_mem_head? hr, rfl⟩, by simp⟩

/-! ### The forms the tracker's tables keep -/

/-- The coil numbers of the exit records in close order. -/
def Ctr.exitCoils (c : Ctr) : List Coil := c.exits.map (·.coil)

theorem Ctr.sound_iff (c : Ctr) : c.Sound ↔ c.decls.length ≤ Config.declCap ∧ c.spans.length ≤ Config.entryCap ∧
    (c.spans.filter fun e => e.2.isNone).length ≤ 1 ∧ c.exitCoils.length ≤ Config.exitCap ∧ c.exitCoils.Nodup := by
  have hrun : (c.spans.filter fun e => e.2.isNone).length = (c.entries.filter fun e => e.eEnd.isNone).length := by
    rw [Ctr.spans, List.filter_map, List.length_map]
    rfl
  rw [hrun, Ctr.spans, Ctr.exitCoils, List.length_map, List.length_map]
  exact ⟨fun h => ⟨h.decls, h.entries, h.running, h.exits, h.coils⟩, fun ⟨h1, h2, h3, h4, h5⟩ => ⟨h1, h2, h3, h4, h5⟩⟩

/-- Tables that only lose records stay in form. -/
theorem Ctr.Sound.shrinks {c d : Ctr} (h : c.Sound) (hd : d.decls.length ≤ c.decls.length) (hs : d.spans.Sublist c.spans)
    (he : d.exitCoils.Sublist c.exitCoils) : d.Sound := by
  obtain ⟨h1, h2, h3, h4, h5⟩ := c.sound_iff.1 h
  exact d.sound_iff.2 ⟨hd.trans h1, hs.length_le.trans h2, (hs.filter _).length_le.trans h3, he.length_le.trans h4, h5.sublist he⟩

theorem Ctr.Sound.sameRecords {c d : Ctr} (h : c.Sound) (hs : c.SameRecords d) : d.Sound :=
  h.shrinks hs.decls.le ((show d.spans = c.spans from hs.entries) ▸ .refl _) ((show d.exitCoils = c.exitCoils from hs.exits) ▸ .refl _)

/-- Where every entry record has an end, none is RUNNING. -/
theorem filter_ended (x : Nat) (l : List (Nat × Option Nat)) :
    ((l.map fun e => (e.1, some (e.2.getD x))).filter fun e => e.2.isNone) = [] := by
  rw [List.filter_eq_nil_iff]
  intro e he
  obtain ⟨y, _, rfl⟩ := List.mem_map.1 he
  simp

theorem endRunning_sound {s : State} (x : Nat) (broken : Bool) (h : s.ctr.Sound) : (endRunning x broken s).ctr.Sound := by
  obtain ⟨hsub, hdecls, _, hexits⟩ := endRunning_spans x broken s
  obtain ⟨h1, h2, _, h4, h5⟩ := s.ctr.sound_iff.1 h
  refine (Ctr.sound_iff _).2 ⟨hdecls.trans_le h1, ?_, ?_, ?_, ?_⟩
  · exact hsub.length_le.trans ((List.length_map ..).trans_le h2)
  · refine (hsub.filter _).length_le.trans ?_
    rw [filter_ended]
    exact Nat.zero_le _
  · exact (congrArg List.length hexits).trans_le h4
  · exact (congrArg List.Nodup hexits).mpr h5

theorem joinAt_sound {s : State} (thread : Bool) (x : Nat) (h : s.ctr.Sound) : (joinAt thread x s).ctr.Sound := by
  obtain ⟨l, hl, hsub, hdecls, _, hexits, hroom⟩ := joinAt_spans thread x s
  obtain ⟨h1, h2, _, h4, h5⟩ := s.ctr.sound_iff.1 h
  refine (Ctr.sound_iff _).2 ⟨hdecls.trans h1, ?_, ?_, ?_, ?_⟩
  · rw [hl, List.length_append]
    exact hroom h.entries
  · rw [hl, List.filter_append, List.length_append]
    have hnone : (l.filter fun e => e.2.isNone) = [] :=
      List.sublist_nil.1 (filter_ended x s.ctr.spans ▸ hsub.filter _)
    simp [hnone]
  · exact (congrArg List.length hexits).trans_le h4
  · exact (congrArg List.Nodup hexits).mpr h5

theorem tailAt_sound {s : State} (broken : Bool) (x : Nat) (h : s.ctr.Sound) : (tailAt broken x s).ctr.Sound := by
  unfold tailAt
  split
  · exact endRunning_sound _ _ h
  · exact h

/-- Placing an exit record: it stands last, with no other of its coil, in a table with room (R51, R52). -/
theorem placeExit_coils (s : State) (r : ExitRec) : ∃ l, (placeExit s r).ctr.exitCoils = l ++ [r.coil] ∧
    l.Sublist (s.ctr.exitCoils.filter fun d => d != r.coil) ∧ (s.ctr.exitCoils.length ≤ Config.exitCap → l.length < Config.exitCap) ∧
      (placeExit s r).ctr.spans.Sublist s.ctr.spans ∧ (placeExit s r).ctr.decls = s.ctr.decls ∧
        (placeExit s r).ctr.segStart = s.ctr.segStart := by
  obtain ⟨hsub, hroom, hspans, hdecls, hseg⟩ := evictExit_coils (renumber r.coil s)
  obtain ⟨hspans', hdecls', hseg'⟩ := renumber_rest r.coil s
  rw [renumber_coils] at hsub
  refine ⟨(evictExit (renumber r.coil s)).ctr.exitCoils, ?_, hsub, fun hlen => ?_, hspans.trans hspans', hdecls.trans hdecls',
    hseg.trans hseg'⟩
  · simp [Ctr.exitCoils, placeExit]
  · refine lt_of_eq_of_lt (List.length_map ..) (hroom ?_)
    rw [← List.length_map (fun r : ExitRec => r.coil), renumber_coils]
    exact (List.length_filter_le ..).trans hlen

theorem placeExit_sound {s : State} (r : ExitRec) (h : s.ctr.Sound) : (placeExit s r).ctr.Sound := by
  obtain ⟨l, hl, hsub, hroom, hspans, hdecls, _⟩ := placeExit_coils s r
  obtain ⟨h1, h2, h3, h4, h5⟩ := s.ctr.sound_iff.1 h
  refine (Ctr.sound_iff _).2 ⟨hdecls ▸ h1, hspans.length_le.trans h2, (hspans.filter _).length_le.trans h3, ?_, ?_⟩
  · rw [hl, List.length_append]
    exact hroom h4
  · rw [hl, List.nodup_append]
    refine ⟨(h5.filter _).sublist hsub, List.nodup_singleton _, fun a ha b hb hab => ?_⟩
    have hne := (List.mem_filter.1 (hsub.subset ha)).2
    rw [List.mem_singleton.1 hb] at hab
    simp [hab] at hne

theorem createExits_sound {s : State} (oStart oEnd stop lanes : Nat) (sequence : BitVec 32) (h : s.ctr.Sound) :
    (createExits oStart oEnd stop lanes sequence s).ctr.Sound := by
  refine Ctr.Sound.sameRecords ?_ (finalizeReady_sameRecords _ _)
  refine foldl_keeps (P := fun t => t.ctr.Sound) _ (fun t r h => ?_) _ _ h
  exact placeExit_sound r h

theorem cutAt_sound {s : State} (scrap : Bool) (sequence : BitVec 32) (lanes x : Nat) (h : s.ctr.Sound) :
    (cutAt scrap sequence lanes x s).ctr.Sound := by
  have hend : ∀ u : State, u.ctr.Sound → (State.release { u with ctr := { u.ctr with segStart := x } }).ctr.Sound := fun u hu =>
    Ctr.Sound.shrinks (c := { u.ctr with segStart := x }) { hu with } le_rfl (release_spans _) (.refl _)
  unfold cutAt
  simp only
  apply hend
  split
  · exact h
  · split
    · exact h
    · exact createExits_sound _ _ _ _ _ h

theorem takePosition_ctr (p : Option (BitVec 48)) (s : State) : (takePosition p s).2.ctr = s.ctr := by
  unfold takePosition
  simp only
  split <;> rfl

theorem lookupLength_ctr (c : Coil) (s : State) : (lookupLength c s).2.2.ctr = s.ctr := by
  unfold lookupLength State.lookupCache
  split
  · rfl
  · split
    · rfl
    · simp only
      split
      · split <;> rfl
      · rfl

/-- A DECLARE adds one declaration where there is room, and moves nothing else of CTR (R38). -/
theorem declareCoil_ctr (c : Coil) (hf : Bool) (n : Nat) (o : Option Nat) (s : State) :
    (declareCoil c hf n o s).ctr = s.ctr ∨ s.ctr.decls.length < Config.declCap ∧
      ∃ d m, (declareCoil c hf n o s).ctr = { s.ctr with decls := s.ctr.decls ++ [d], nextId := m } := by
  unfold declareCoil
  split
  · exact .inl rfl
  · rename_i hroom
    refine .inr ⟨by omega, ?_⟩
    simp only
    split
    · exact ⟨_, _, rfl⟩
    · simp only [lookupLength_ctr]
      exact ⟨_, _, rfl⟩

theorem takeLf_sound {s : State} (r : LfRecord) (h : s.ctr.Sound) : (takeLf r s).ctr.Sound := by
  have hpos := fun p => takePosition_ctr p s
  cases r with
  | sampleSet es => exact h
  | declare c hf rs n o =>
    rcases declareCoil_ctr c hf n.toNat (o.map BitVec.toNat) s with hc | ⟨hroom, d, m, hc⟩
    · exact (congrArg Ctr.Sound hc).mpr h
    · refine (congrArg Ctr.Sound hc).mpr { h with decls := ?_ }
      rw [List.length_append]
      exact hroom
  | join thread p => exact joinAt_sound _ _ (hpos p ▸ h)
  | tailOut p => exact tailAt_sound _ _ (hpos p ▸ h)
  | stripBreak p => exact tailAt_sound _ _ (hpos p ▸ h)
  | cut scrap sq lanes p => exact cutAt_sound _ _ _ _ (hpos p ▸ h)

theorem Ctr.tick_sameRecords (c : Ctr) : c.SameRecords c.tick := by
  refine ⟨rfl, rfl, rfl, ?_⟩
  simp only [Ctr.tick, List.map_map]
  refine List.map_congr_left fun r _ => ?_
  simp only [Function.comp, ExitRec.tick]
  split <;> rfl

theorem Ctr.start_sameRecords (g : Settings) (c : Ctr) : c.SameRecords (c.start false g) := by
  refine ⟨rfl, ?_, ?_, ?_⟩
  · simp [Ctr.start]
  · simp [Ctr.start, Function.comp_def]
  · change (c.exits.map (ExitRec.restart (g.finalHours * Config.msPerHour))).map (·.coil) = c.exits.map (·.coil)
    rw [List.map_map]
    refine List.map_congr_left fun r _ => ?_
    simp only [Function.comp, ExitRec.restart]
    split <;> rfl

/-! ### What the other commands do to CTR and the event positions -/

/-- What a command other than a line feed record leaves of CTR and the event positions: the records in their places, or none of them
and the positions at 0 (R37, R59, R60). -/
inductive Restarts (s u : State) : Prop where
  | same (hc : s.ctr.SameRecords u.ctr) (hl : u.lfr.lastPos = s.lfr.lastPos)
      (ho : s.smp.odometer ≤ Config.max48 → s.smp.odometer ≤ u.smp.odometer)
  | cold (hd : u.ctr.decls = []) (he : u.ctr.entries = []) (hx : u.ctr.exits = []) (hs : u.ctr.segStart = 0) (hl : u.lfr.lastPos = 0)

theorem Restarts.of_eq {s u : State} (hc : u.ctr = s.ctr) (hl : u.lfr.lastPos = s.lfr.lastPos)
    (ho : u.smp.odometer = s.smp.odometer) : Restarts s u := .same (hc ▸ .refl _) hl fun _ => ho.ge

theorem configFaults_eq (n : Nat) (s : State) : ∃ fault count, configFaults n s = { s with sup := { s.sup with fault := fault, faultCount := count } } := by
  induction n generalizing s with
  | zero => exact ⟨_, _, rfl⟩
  | succ n ih =>
    obtain ⟨f, c, h⟩ := ih (configFault s)
    exact ⟨f, c, h⟩

theorem loadImage_restarts (image : List (BitVec 16)) (s : State) : Restarts s (loadImage image s) := by
  unfold loadImage
  simp only
  split
  · exact .of_eq rfl rfl rfl
  · obtain ⟨f, n, h⟩ := configFaults_eq (imageFaults image)
      (startBlocks (startIsCold image s.sup.trusted) image { s with sup := s.sup.trusted })
    rw [h]
    cases startIsCold image s.sup.trusted with
    | true => exact .cold rfl rfl rfl rfl rfl
    | false => exact .same (Ctr.start_sameRecords _ _) rfl fun _ => le_rfl

theorem enterRun_restarts (p : PartState) {s u : State} (h : Restarts s u) : Restarts s (enterRun p u) := by
  unfold enterRun State.join
  rcases State.startHead_cases { { u with bus := { u.bus with rx := .hunt }, sup := { u.sup with part := p } } with
    bus := { { u.bus with rx := .hunt } with queue := u.bus.queue ++ [.fresh (ownPresence u false u.sup.coldStart) .rosStart] } }
    with hs | ⟨hi, _⟩
  · rw [show State.startHead _ = _ from hs]
    cases h with
    | same hc hl ho => exact .same hc hl ho
    | cold hd he hx hs hl => exact .cold hd he hx hs hl
  · cases hi

/-- The inner effects, as CTR and the event positions see them. -/
theorem inner_tracker {c : Instr} {s u : State} (hu : Aside.Inner c s u) :
    (∃ r, u = takeLf r s) ∨ (∃ coil, u = (finalizeCoil true s coil).release) ∨ Restarts s u := by
  cases hu with
  | lfTaken r _ => exact .inl ⟨r, rfl⟩
  | expiry coil => exact .inr (.inl ⟨coil, rfl⟩)
  | forward _ =>
    obtain ⟨m, ⟨t, f, n, h⟩, ho⟩ := forwardPulse_moves s
    rw [h]
    exact .inr (.inr (.same (.refl _) rfl ho))
  | reverse => exact .inr (.inr (.of_eq rfl rfl rfl))
  | standstill => exact .inr (.inr (.of_eq rfl rfl rfl))
  | flushed _ _ _ _ => exact .inr (.inr (.of_eq rfl rfl rfl))
  | settled _ => exact .inr (.inr (.of_eq rfl rfl rfl))
  | loaded image _ _ => exact .inr (.inr (loadImage_restarts image s))
  | tested reads _ =>
    unfold endSelfTest
    split
    · exact .inr (.inr (enterRun_restarts _ (.of_eq rfl rfl rfl)))
    · exact .inr (.inr (enterRun_restarts _ (.of_eq rfl rfl rfl)))
  | resetHeld testing =>
    unfold holdReset
    simp only
    split
    · exact .inr (.inr (.of_eq rfl rfl rfl))
    · rcases interruptTest_cases testing { s with sup := { s.sup with resetPin := true } } with ht | ⟨x, _, ht⟩ <;> rw [ht] <;>
        exact .inr (.inr (.of_eq rfl rfl rfl))
  | resetReleased =>
    unfold releaseReset
    simp only
    split <;> exact .inr (.inr (.of_eq rfl rfl rfl))
  | supplyLost => exact .inr (.inr (.of_eq rfl rfl rfl))
  | retentionLost _ => exact .inr (.inr (.cold rfl rfl rfl rfl rfl))
  | recovered _ => exact .inr (.inr (.of_eq rfl rfl rfl))
  | tick _ =>
    refine .inr (.inr (.same (Ctr.tick_sameRecords _) rfl fun _ => le_of_eq ?_))
    rcases s.smp.tick_cases s.settings.standstillTime with ⟨p, cs, t, h⟩ | h
    · exact (congrArg Smp.odometer h).symm
    · exact (congrArg Smp.odometer h).symm

end Sys2Proof.Machine

/-! PROOFS. The forms of the tracker's tables, the cache, the ring and the open bins, and the order of the event positions, under
every command. -/

namespace Sys2Proof.Machine

/-! ### Properties of a few blocks -/

/-- What the tables of the tracker, the cache, the open bins and the event positions are told by stands in `t` as in `s`. -/
structure State.SameTables (s t : State) : Prop where
  settings : t.settings = s.settings
  smp      : t.smp = s.smp
  ctr      : t.ctr = s.ctr
  lastPos  : t.lfr.lastPos = s.lfr.lastPos
  lch      : t.lch = s.lch

theorem startHead_sameTables (s : State) : s.SameTables s.startHead := by
  rcases s.startHead_cases with h | ⟨_, j, e, _, _, h⟩ <;> rw [h] <;> exact ⟨rfl, rfl, rfl, rfl, rfl⟩

theorem State.SameTables.join (s : State) (f : Frame) (o : Owner) (b : Bus) : s.SameTables (State.join f o { s with bus := b }) := by
  obtain ⟨h1, h2, h3, h4, h5⟩ := startHead_sameTables { s with bus := { b with queue := b.queue ++ [.fresh f o] } }
  exact ⟨h1, h2, h3, h4, h5⟩

/-- A property of these blocks alone is kept by what the links and the owners do, where touches and kept records keep it. -/
theorem aside_of_tables {P : State → Prop} (hworks : ∀ {s t : State}, Works s t → P s → P t)
    (hsame : ∀ s t : State, s.SameTables t → P s → P t) (hkeep : ∀ (s : State) (source : BitVec 6) (r : LineageRec), P s → P (s.keepRecord source r))
    (hdrop : ∀ (s : State) (st : BitVec 6), P s → P (dropStation st s)) : Aside P where
  works := hworks
  sup := fun s _ _ h => hsame s _ ⟨rfl, rfl, rfl, rfl, rfl⟩ h
  con := fun s _ _ h => hsame s _ ⟨rfl, rfl, rfl, rfl, rfl⟩ h
  req := fun s _ h => hsame s _ ⟨rfl, rfl, rfl, rfl, rfl⟩ h
  pse := fun s _ h => hsame s _ ⟨rfl, rfl, rfl, rfl, rfl⟩ h
  ros := fun s _ h => hsame s _ ⟨rfl, rfl, rfl, rfl, rfl⟩ h
  errors := fun s _ h => hsame s _ ⟨rfl, rfl, rfl, rfl, rfl⟩ h
  keep := hkeep
  drop := hdrop
  line := fun s _ _ _ _ _ h => hsame s _ ⟨rfl, rfl, rfl, rfl, rfl⟩ h
  start := fun s h => hsame s _ (startHead_sameTables s) h
  remove := fun s _ h => hsame s _ ⟨rfl, rfl, rfl, rfl, rfl⟩ h
  put := fun s _ _ _ _ _ _ h => hsame s _ ⟨rfl, rfl, rfl, rfl, rfl⟩ h
  join := fun s f o _ h => hsame s _ (State.SameTables.join s f o s.bus) h
  fill := fun s _ e _ h => hsame s _ (State.SameTables.join s e.frame e.owner _) h
  mute := fun s _ h => hsame s _ ⟨rfl, rfl, rfl, rfl, rfl⟩ h
  read := fun s _ _ _ _ _ h => hsame s _ ⟨rfl, rfl, rfl, rfl, rfl⟩ h
  write := fun s _ _ _ _ h => hsame s _ ⟨rfl, rfl, rfl, rfl, rfl⟩ h

theorem keepRecord_cases (source : BitVec 6) (r : LineageRec) (s : State) : s.keepRecord source r = s ∨
    r.passes s.settings.station source = true ∧ s.keepRecord source r = { s with lch := { s.lch with cache := cacheInsert s.lch.cache r } } := by
  unfold State.keepRecord
  split
  · exact .inr ⟨‹_›, rfl⟩
  · exact .inl rfl

/-! ### The tables of the tracker -/

theorem ctrSound_aside : Aside fun s => s.ctr.Sound :=
  aside_of_tables (fun hw h => Ctr.Sound.sameRecords h hw.ctr) (fun _ _ hs h => (congrArg Ctr.Sound hs.ctr).mpr h)
    (fun s source r h => by rcases keepRecord_cases source r s with hk | ⟨_, hk⟩ <;> rw [hk] <;> exact h) (fun _ _ h => h)

theorem inner_ctrSound {c : Instr} {s u : State} (hu : Aside.Inner c s u) (h : s.ctr.Sound) : u.ctr.Sound := by
  rcases inner_tracker hu with ⟨r, rfl⟩ | ⟨coil, rfl⟩ | hr
  · exact takeLf_sound r h
  · exact (h.sameRecords (finalizeCoil_sameRecords true s coil)).shrinks le_rfl (release_spans _) (.refl _)
  · cases hr with
    | same hc => exact h.sameRecords hc
    | cold hd he hx => exact (Ctr.sound_iff _).2 (by simp [Ctr.spans, Ctr.exitCoils, hd, he, hx])

/-! ### The order of the event positions (R37) -/

theorem Ctr.ordered_iff (c : Ctr) (n : Nat) : c.Ordered n ↔
    (c.spans.Pairwise fun e f => ∃ x, e.2 = some x ∧ x ≤ f.1) ∧ (∀ e ∈ c.spans, e.1 ≤ e.2.getD n ∧ e.2.getD n ≤ n) ∧ c.segStart ≤ n := by
  simp only [Ctr.spans, List.pairwise_map, List.mem_map, forall_exists_index, and_imp, forall_apply_eq_imp_iff₂]
  exact ⟨fun h => ⟨h.entries, h.spans, h.segment⟩, fun ⟨h1, h2, h3⟩ => ⟨h1, h2, h3⟩⟩

/-- The event positions are in order and none is above the odometer. -/
def State.InOrder (s : State) : Prop := s.lfr.lastPos ≤ s.smp.odometer ∧ s.ctr.Ordered s.lfr.lastPos

theorem Ctr.Ordered.shrinks {c d : Ctr} {n : Nat} (h : c.Ordered n) (hs : d.spans.Sublist c.spans) (hseg : d.segStart ≤ n) :
    d.Ordered n := by
  obtain ⟨h1, h2, _⟩ := (c.ordered_iff n).1 h
  exact (d.ordered_iff n).2 ⟨h1.sublist hs, fun e he => h2 e (hs.subset he), hseg⟩

theorem Ctr.Ordered.sameRecords {c d : Ctr} {n : Nat} (h : c.Ordered n) (hs : c.SameRecords d) : d.Ordered n :=
  h.shrinks ((show d.spans = c.spans from hs.entries) ▸ .refl _) (hs.segStart ▸ h.segment)

/-- A later last event position (R37). -/
theorem Ctr.Ordered.later {c : Ctr} {n m : Nat} (h : c.Ordered n) (hnm : n ≤ m) : c.Ordered m := by
  obtain ⟨h1, h2, h3⟩ := (c.ordered_iff n).1 h
  refine (c.ordered_iff m).2 ⟨h1, fun e he => ?_, h3.trans hnm⟩
  obtain ⟨ha, hb⟩ := h2 e he
  cases hx : e.2 with
  | none => rw [hx] at ha; exact ⟨ha.trans hnm, le_rfl⟩
  | some x => rw [hx] at ha hb; exact ⟨ha, hb.trans hnm⟩

/-- The records with every end set, in order up to the event position. -/
theorem Ctr.Ordered.ended {c : Ctr} {x : Nat} (h : c.Ordered x) :
    ((c.spans.map fun e => (e.1, some (e.2.getD x))).Pairwise fun e f => ∃ y, e.2 = some y ∧ y ≤ f.1) ∧
      ∀ e ∈ c.spans.map fun e => (e.1, some (e.2.getD x)), e.1 ≤ e.2.getD x ∧ e.2.getD x ≤ x := by
  obtain ⟨h1, h2, _⟩ := (c.ordered_iff x).1 h
  refine ⟨List.pairwise_map.2 (h1.imp ?_), fun e he => ?_⟩
  · rintro a b ⟨y, hy, hle⟩
    exact ⟨y, by simp [hy], hle⟩
  · obtain ⟨y, hy, rfl⟩ := List.mem_map.1 he
    exact h2 y hy

theorem settlePosition_bounds {o l : Nat} (p : Option (BitVec 48)) (h : l ≤ o) : l ≤ (settlePosition o l p).1 ∧ (settlePosition o l p).1 ≤ o := by
  unfold settlePosition
  split
  · exact ⟨h, le_rfl⟩
  · split
    · exact ⟨h, le_rfl⟩
    · split
      · exact ⟨le_rfl, h⟩
      · exact ⟨by omega, by omega⟩

/-- What settling an event position does (R37). -/
theorem takePosition_eq (p : Option (BitVec 48)) (s : State) : (takePosition p s).1 = (settlePosition s.smp.odometer s.lfr.lastPos p).1 ∧
    (takePosition p s).2.ctr = s.ctr ∧ (takePosition p s).2.smp = s.smp ∧
      (takePosition p s).2.lfr = { s.lfr with lastPos := (settlePosition s.smp.odometer s.lfr.lastPos p).1 } := by
  refine ⟨rfl, ?_⟩
  unfold takePosition
  simp only
  split <;> exact ⟨rfl, rfl, rfl⟩

/-- The odometer and the last event position under what a line feed event does after its position is settled. -/
theorem positions_tracks (o l : Nat) : Tracks fun s => s.smp.odometer = o ∧ s.lfr.lastPos = l where
  ctr := fun _ _ h => h
  fault := fun _ _ _ _ _ h => h
  stop := fun _ h => h
  lookup := fun s c h => by
    have hw := lookupCache_works s c
    exact ⟨hw.smp ▸ h.1, hw.lfr ▸ h.2⟩
  announce := fun s f _ _ h => by
    obtain ⟨_, hm, _, hl, _⟩ := State.SameTables.join s f .ctrAnnounce s.bus
    exact ⟨(congrArg Smp.odometer hm).trans h.1, hl.trans h.2⟩

/-- An event in a state whose last event position is the event's own. -/
theorem joinAt_ordered {s : State} (thread : Bool) {x : Nat} (h : s.ctr.Ordered x) : (joinAt thread x s).ctr.Ordered x := by
  obtain ⟨l, hl, hsub, _, hseg, _⟩ := joinAt_spans thread x s
  obtain ⟨hp, hs⟩ := h.ended
  refine (Ctr.ordered_iff _ _).2 ⟨?_, fun e he => ?_, hseg.trans_le h.segment⟩
  · rw [hl, List.pairwise_append]
    refine ⟨hp.sublist hsub, List.pairwise_singleton _ _, fun e he f hf => ?_⟩
    rw [List.mem_singleton.1 hf]
    have hmem := hsub.subset he
    obtain ⟨y, _, rfl⟩ := List.mem_map.1 hmem
    exact ⟨_, rfl, (hs _ hmem).2⟩
  · rw [hl, List.mem_append] at he
    rcases he with he | he
    · exact hs e (hsub.subset he)
    · rw [List.mem_singleton.1 he]
      exact ⟨le_rfl, le_rfl⟩

theorem endRunning_ordered {s : State} (broken : Bool) {x : Nat} (h : s.ctr.Ordered x) : (endRunning x broken s).ctr.Ordered x := by
  obtain ⟨hsub, _, hseg, _⟩ := endRunning_spans x broken s
  obtain ⟨hp, hs⟩ := h.ended
  exact (Ctr.ordered_iff _ _).2 ⟨hp.sublist hsub, fun e he => hs e (hsub.subset he), hseg.trans_le h.segment⟩

theorem cutAt_ordered {s : State} (scrap : Bool) (sequence : BitVec 32) (lanes : Nat) {x : Nat} (h : s.ctr.Ordered x) :
    (cutAt scrap sequence lanes x s).ctr.Ordered x := by
  have hend : ∀ u : State, u.ctr.Ordered x → (State.release { u with ctr := { u.ctr with segStart := x } }).ctr.Ordered x := fun u hu =>
    Ctr.Ordered.shrinks (c := { u.ctr with segStart := x }) { hu with segment := le_rfl } (release_spans _) le_rfl
  unfold cutAt
  simp only
  apply hend
  split
  · exact h
  · split
    · exact h
    · unfold createExits
      refine Ctr.Ordered.sameRecords ?_ (finalizeReady_sameRecords _ _)
      refine foldl_keeps (P := fun t => t.ctr.Ordered x) _ (fun t r h => ?_) _ _ h
      obtain ⟨_, _, _, _, hspans, _, hseg⟩ := placeExit_coils t r
      exact h.shrinks hspans (hseg.trans_le h.segment)

theorem takeLf_inOrder {s : State} (r : LfRecord) (h : s.InOrder) : (takeLf r s).InOrder := by
  have hevent : ∀ (p : Option (BitVec 48)) (f : Nat → State → State), (∀ x u, u.ctr.Ordered x → (f x u).ctr.Ordered x) →
      (∀ (P : State → Prop), Tracks P → ∀ x u, P u → P (f x u)) → (f (takePosition p s).1 (takePosition p s).2).InOrder :=
      fun p f hf ht => by
    obtain ⟨h1, h2, h3, h4⟩ := takePosition_eq p s
    obtain ⟨hlo, hhi⟩ := settlePosition_bounds p h.1
    have hpos := ht _ (positions_tracks s.smp.odometer (takePosition p s).1) (takePosition p s).1 (takePosition p s).2
      ⟨congrArg Smp.odometer h3, by rw [h4, h1]⟩
    refine ⟨by rw [hpos.1, hpos.2, h1]; exact hhi, ?_⟩
    rw [hpos.2]
    refine hf _ _ ?_
    rw [h2, h1]
    exact h.2.later hlo
  cases r with
  | sampleSet es =>
    obtain ⟨cs, hcs⟩ := takeSamples_eq es s.smp
    simp only [takeLf, hcs]
    exact h
  | declare c hf rs n o =>
    obtain ⟨ho, hl⟩ := (positions_tracks s.smp.odometer s.lfr.lastPos).declareCoil c hf n.toNat (o.map BitVec.toNat) ⟨rfl, rfl⟩
    refine ⟨hl.trans_le (h.1.trans_eq ho.symm), (congrArg (Ctr.Ordered _) hl).mpr ?_⟩
    rcases declareCoil_ctr c hf n.toNat (o.map BitVec.toNat) s with hc | ⟨_, d, m, hc⟩
    · exact (congrArg (fun c => Ctr.Ordered c _) hc).mpr h.2
    · exact (congrArg (fun c => Ctr.Ordered c _) hc).mpr { h.2 with }
  | join thread p => exact hevent p (joinAt thread) (fun x u => joinAt_ordered thread) fun P hP x u => hP.joinAt thread x
  | tailOut p =>
    exact hevent p (tailAt false) (fun x u h => by
      unfold tailAt; split
      · exact endRunning_ordered _ h
      · exact h) fun P hP x u => hP.tailAt false x
  | stripBreak p =>
    exact hevent p (tailAt true) (fun x u h => by
      unfold tailAt; split
      · exact endRunning_ordered _ h
      · exact h) fun P hP x u => hP.tailAt true x
  | cut scrap sq lanes p =>
    exact hevent p (cutAt scrap sq lanes.toNat) (fun x u => cutAt_ordered scrap sq _) fun P hP x u => hP.cutAt scrap sq _ x

theorem inOrder_aside : Aside State.InOrder :=
  aside_of_tables (fun {s t} hw h => by
      refine ⟨by rw [hw.lfr, hw.smp]; exact h.1, ?_⟩
      rw [hw.lfr]
      exact h.2.sameRecords hw.ctr)
    (fun s t hs h => by
      refine ⟨by rw [hs.lastPos, hs.smp]; exact h.1, ?_⟩
      rw [hs.lastPos, hs.ctr]
      exact h.2)
    (fun s source r h => by rcases keepRecord_cases source r s with hk | ⟨_, hk⟩ <;> rw [hk] <;> exact h) (fun _ _ h => h)

theorem inner_inOrder {c : Instr} {s u : State} (hu : Aside.Inner c s u) (ho : s.smp.odometer ≤ Config.max48) (h : s.InOrder) :
    u.InOrder := by
  rcases inner_tracker hu with ⟨r, rfl⟩ | ⟨coil, rfl⟩ | hr
  · exact takeLf_inOrder r h
  · obtain ⟨hod, hl⟩ := (positions_tracks s.smp.odometer s.lfr.lastPos).finalizeCoil true coil ⟨rfl, rfl⟩
    have hord := h.2.sameRecords (finalizeCoil_sameRecords true s coil)
    exact ⟨hl.trans_le (h.1.trans_eq hod.symm), (congrArg (Ctr.Ordered _) hl).mpr (hord.shrinks (release_spans _) hord.segment)⟩
  · cases hr with
    | same hc hl hod =>
      refine ⟨hl.trans_le (h.1.trans (hod ho)), ?_⟩
      rw [hl]
      exact h.2.sameRecords hc
    | cold hd he hx hs hl =>
      exact ⟨hl.trans_le (Nat.zero_le _), (Ctr.ordered_iff _ _).2 (by simp [Ctr.spans, he, hs])⟩

/-! ### The lineage cache (R71 to R78) -/

/-- A list of records as the cache holds them. -/
def cacheForm (own : BitVec 6) (l : List LineageRec) : Prop :=
  l.length ≤ Config.cacheCap ∧ (l.map (·.coil)).Nodup ∧ ∀ r ∈ l, r.coil.station ≠ own

theorem State.cacheSound_iff (s : State) : s.CacheSound ↔ cacheForm s.settings.station s.lch.cache :=
  ⟨fun h => ⟨h.size, h.coils, h.peers⟩, fun ⟨h1, h2, h3⟩ => ⟨h1, h2, h3⟩⟩

theorem cacheForm.sublist {own : BitVec 6} {l m : List LineageRec} (h : cacheForm own l) (hs : m.Sublist l) : cacheForm own m :=
  ⟨hs.length_le.trans h.1, h.2.1.sublist (hs.map _), fun r hr => h.2.2 r (hs.subset hr)⟩

theorem cacheForm.insert {own source : BitVec 6} {l : List LineageRec} {r : LineageRec} (h : cacheForm own l)
    (hr : r.passes own source = true) : cacheForm own (cacheInsert l r) := by
  have hown : r.coil.station ≠ own := by
    simp only [LineageRec.passes, Bool.and_eq_true, bne_iff_ne] at hr
    exact hr.1.1.1.1.1.1.2
  refine ⟨List.length_take_le .., (List.Nodup.sublist ((List.take_sublist ..).map _) ?_), fun x hx => ?_⟩
  · rw [List.map_cons, List.nodup_cons]
    refine ⟨fun hmem => ?_, h.2.1.sublist (List.filter_sublist.map _)⟩
    obtain ⟨y, hy, hc⟩ := List.mem_map.1 hmem
    simpa [hc] using (List.mem_filter.1 hy).2
  · rcases List.mem_cons.1 (List.mem_of_mem_take hx) with rfl | hx
    · exact hown
    · exact h.2.2 x (List.mem_filter.1 hx).1

theorem cacheSound_aside : Aside State.CacheSound :=
  aside_of_tables (fun {s t} hw h => by
      rw [State.cacheSound_iff] at *
      have hp := hw.cache h.2.1
      rw [hw.settings]
      exact ⟨hp.length_eq.trans_le h.1, (hp.map _).nodup_iff.2 h.2.1, fun r hr => h.2.2 r (hp.subset hr)⟩)
    (fun s t hs h => by
      rw [State.cacheSound_iff] at *
      rw [hs.settings, hs.lch]
      exact h)
    (fun s source r h => by
      rw [State.cacheSound_iff] at *
      rcases keepRecord_cases source r s with hk | ⟨hr, hk⟩ <;> rw [hk]
      · exact h
      · exact h.insert hr)
    (fun s st h => by
      rw [State.cacheSound_iff] at *
      exact h.sublist List.filter_sublist)

theorem cacheSound_tracks : Tracks State.CacheSound where
  ctr := fun _ _ h => { h with }
  fault := fun _ _ _ _ _ h => { h with }
  stop := fun _ h => { h with }
  lookup := fun s c h => cacheSound_aside.works (lookupCache_works s c) h
  announce := fun s f hm _ h => cacheSound_aside.join s f _ (fun hm' => by rw [hm] at hm'; cases hm') h

/-- A start leaves an empty cache (R76). -/
theorem cacheSound_of_nil {s : State} (h : s.lch.cache = []) : s.CacheSound :=
  (State.cacheSound_iff s).2 (h ▸ ⟨Nat.zero_le _, List.nodup_nil, fun _ hr => by cases hr⟩)

theorem loadImage_cacheSound {s : State} (image : List (BitVec 16)) (h : s.CacheSound) : (loadImage image s).CacheSound := by
  unfold loadImage
  simp only
  split
  · exact { h with }
  · obtain ⟨f, n, hf⟩ := configFaults_eq (imageFaults image)
      (startBlocks (startIsCold image s.sup.trusted) image { s with sup := s.sup.trusted })
    rw [hf]
    exact cacheSound_of_nil rfl

theorem endSelfTest_cacheSound {s : State} (reads : List TestRead) (h : s.CacheSound) : (endSelfTest reads s).CacheSound := by
  have hrun : ∀ (p : PartState) (u : State), u.settings = s.settings → u.lch = s.lch → (enterRun p u).CacheSound := fun p u hg hl => by
    obtain ⟨h1, _, _, _, h2⟩ := State.SameTables.join { u with sup := { u.sup with part := p } }
      (ownPresence u false u.sup.coldStart) .rosStart { u.bus with rx := .hunt }
    rw [State.cacheSound_iff] at *
    rw [← hg, ← hl] at h
    exact (congrArg₂ (fun a b => cacheForm (Settings.station a) (Lch.cache b)) h1 h2).mpr h
  unfold endSelfTest
  split
  · exact hrun _ _ rfl rfl
  · exact hrun _ _ rfl rfl

theorem inner_cacheSound {c : Instr} {s u : State} (hu : Aside.Inner c s u) (h : s.CacheSound) : u.CacheSound := by
  cases hu with
  | forward _ =>
    obtain ⟨m, ⟨t, f, n, hf⟩, _⟩ := forwardPulse_moves s
    rw [hf]; exact { h with }
  | reverse => exact { h with }
  | standstill => exact { h with }
  | lfTaken r _ => exact cacheSound_tracks.takeLf (fun _ _ h => { h with }) r (fun es _ => { h with }) h
  | expiry coil => exact cacheSound_tracks.ctr _ _ (cacheSound_tracks.finalizeCoil true coil h)
  | flushed _ _ _ _ => exact { h with }
  | settled _ => exact { h with }
  | loaded image _ _ => exact loadImage_cacheSound image h
  | tested reads _ => exact endSelfTest_cacheSound reads h
  | resetHeld testing =>
    unfold holdReset
    simp only
    split
    · exact { h with }
    · rcases interruptTest_cases testing { s with sup := { s.sup with resetPin := true } } with ht | ⟨x, _, ht⟩ <;> rw [ht] <;>
        exact { h with }
  | resetReleased =>
    unfold releaseReset
    simp only
    split <;> exact { h with }
  | supplyLost => exact { h with }
  | retentionLost _ => exact cacheSound_of_nil rfl
  | recovered _ => exact { h with }
  | tick _ => exact { h with }

end Sys2Proof.Machine

/-! PROOFS. The open bins and the slots of the page ring under every command. -/

namespace Sys2Proof.Machine

/-! ### From what the links move to line feed events -/

/-- What `Aside` asks gives most of what `Tracks` asks. -/
theorem Aside.tracks {P : State → Prop} (hP : Aside P) (hctr : ∀ (s : State) (c : Ctr), P s → P { s with ctr := c })
    (hstop : ∀ s : State, P s → P { s with smp := { s.smp with stopTime := 0 } }) : Tracks P where
  ctr := hctr
  fault := fun _ k b c o h => hP.fault k b c o h
  stop := hstop
  lookup := fun s c h => hP.works (lookupCache_works s c) h
  announce := fun s f hm _ h => hP.join s f _ (fun hm' => by rw [hm] at hm'; cases hm') h

/-! ### Open bins (R12 to R17) -/

/-- Every open bin has its sum between its count times its least and its greatest value. -/
def State.BinsSound (s : State) : Prop := ∀ c ∈ s.smp.chans, c.acc.Sound

theorem Acc.empty_sound : Acc.empty.Sound := ⟨rfl, rfl⟩

theorem Acc.accept_sound {a : Acc} (v : Int) (h : a.Sound) : (a.accept v).Sound := by
  unfold Acc.Sound at h
  by_cases hc : a.count < Config.max16
  · rw [Acc.accept_of_lt v hc]
    unfold Acc.Sound
    cases hx : a.extrema with
    | none =>
      rw [hx] at h
      obtain ⟨hn, hs⟩ := h
      simp [widen, hn, hs]
    | some x =>
      obtain ⟨lo, hi⟩ := x
      rw [hx] at h
      obtain ⟨_, hlo, hhi, hle⟩ := h
      have hn : (0 : Int) ≤ a.count := Int.natCast_nonneg _
      have h1 : (a.count : Int) * min lo v ≤ a.count * lo := mul_le_mul_of_nonneg_left (min_le_left _ _) hn
      have h2 : (a.count : Int) * hi ≤ a.count * max hi v := mul_le_mul_of_nonneg_left (le_max_left _ _) hn
      have h3 : min lo v ≤ v := min_le_right _ _
      have h4 : v ≤ max hi v := le_max_right _ _
      refine ⟨Nat.succ_pos _, ?_, ?_, h3.trans h4⟩
      · push_cast; rw [add_mul, one_mul]; omega
      · push_cast; rw [add_mul, one_mul]; omega
  · rw [Acc.accept_of_full v (Nat.not_lt.1 hc)]
    unfold Acc.Sound
    cases hx : a.extrema with
    | none =>
      rw [hx] at h
      rw [h.1] at hc
      exact absurd (by decide) hc
    | some x =>
      obtain ⟨lo, hi⟩ := x
      rw [hx] at h
      obtain ⟨hpos, hlo, hhi, hle⟩ := h
      have hn : (0 : Int) ≤ a.count := Int.natCast_nonneg _
      exact ⟨hpos, (mul_le_mul_of_nonneg_left (min_le_left _ _) hn).trans hlo,
        hhi.trans (mul_le_mul_of_nonneg_left (le_max_left _ _) hn), (min_le_right _ _).trans (le_max_right _ _)⟩

theorem takeSample_sound {l : List SmpChan} (e : SampleEntry) (h : ∀ c ∈ l, c.acc.Sound) : ∀ c ∈ takeSample l e, c.acc.Sound := by
  unfold takeSample
  split
  · exact h
  · intro c hc
    obtain ⟨x, hx, rfl⟩ := List.mem_map.1 hc
    split
    · exact Acc.accept_sound _ (h x hx)
    · exact h x hx

theorem takeSamples_sound {m : Smp} (es : List SampleEntry) (h : ∀ c ∈ m.chans, c.acc.Sound) : ∀ c ∈ (m.takeSamples es).chans, c.acc.Sound := by
  unfold Smp.takeSamples
  split
  · exact h
  · have hfold : ∀ (es : List SampleEntry) (l : List SmpChan), (∀ c ∈ l, c.acc.Sound) → ∀ c ∈ es.foldl takeSample l, c.acc.Sound := by
      intro es
      induction es with
      | nil => exact fun _ h => h
      | cons e es ih => exact fun l h => ih _ (takeSample_sound e h)
    exact hfold es _ h

/-- The accumulator of a channel after an advance: a new one, or as it was (R14). -/
theorem advanceChannel_acc (g : Settings) (oa ob : Nat) (c : SmpChan) :
    (advanceChannel g oa ob c).1.index = c.index ∧
      ((advanceChannel g oa ob c).1.acc = .empty ∨ (advanceChannel g oa ob c).1.acc = c.acc) := by
  unfold advanceChannel
  split
  · exact ⟨rfl, .inr rfl⟩
  · unfold closeChannel
    simp only
    split
    · exact ⟨rfl, .inl rfl⟩
    · exact ⟨rfl, .inr rfl⟩

theorem binsSound_aside : Aside State.BinsSound :=
  aside_of_tables (fun hw h => by unfold State.BinsSound; rw [hw.smp]; exact h) (fun _ _ hs h => by unfold State.BinsSound; rw [hs.smp]; exact h)
    (fun s source r h => by rcases keepRecord_cases source r s with hk | ⟨_, hk⟩ <;> rw [hk] <;> exact h) (fun _ _ h => h)

/-- What a forward pulse makes of the open bins. -/
theorem forwardPulse_smp (s : State) : ∃ m : Smp, State.StoreMoves { s with smp := m } (forwardPulse s) ∧
    (m.chans = s.smp.chans ∨ ∃ oa ob, m.chans = s.smp.chans.map fun c => (advanceChannel s.settings oa ob c).1) := by
  unfold forwardPulse
  simp only
  split
  · exact ⟨_, .refl _, .inl rfl⟩
  · split
    · exact ⟨_, wholeAdvance_storeMoves _ _ _, .inr ⟨_, _, rfl⟩⟩
    · exact ⟨_, .refl _, .inl rfl⟩

/-- What a tick makes of the open bins (R5, R17). -/
theorem Smp.tick_chans (n : Nat) (m : Smp) : (m.tick n).chans = m.chans ∨ (m.tick n).chans = m.chans.map SmpChan.stopped := by
  unfold Smp.tick
  split
  · simp only
    split
    · exact .inr rfl
    · exact .inl rfl
  · exact .inl rfl

theorem stopped_sound {l : List SmpChan} (h : ∀ c ∈ l, c.acc.Sound) : ∀ c ∈ l.map SmpChan.stopped, c.acc.Sound := by
  intro c hc
  obtain ⟨x, hx, rfl⟩ := List.mem_map.1 hc
  exact h x hx

theorem inner_binsSound {c : Instr} {s u : State} (hu : Aside.Inner c s u) (h : s.BinsSound) : u.BinsSound := by
  have ht := binsSound_aside.tracks (fun _ _ h => h) (fun _ h => h)
  cases hu with
  | forward _ =>
    obtain ⟨m, ⟨t, f, n, hf⟩, hm⟩ := forwardPulse_smp s
    rw [hf]
    intro c hc
    rcases hm with hm | ⟨oa, ob, hm⟩
    · change c ∈ m.chans at hc
      rw [hm] at hc; exact h c hc
    · change c ∈ m.chans at hc
      rw [hm] at hc
      obtain ⟨x, hx, rfl⟩ := List.mem_map.1 hc
      rcases (advanceChannel_acc s.settings oa ob x).2 with ha | ha <;> rw [ha]
      · exact Acc.empty_sound
      · exact h x hx
  | reverse => exact h
  | standstill => exact stopped_sound h
  | lfTaken r _ => exact ht.takeLf (fun _ _ h => h) r (fun es _ => takeSamples_sound es h) h
  | expiry coil => exact ht.ctr _ _ (ht.finalizeCoil true coil h)
  | flushed _ _ _ _ => exact h
  | settled _ => exact h
  | loaded image _ _ =>
    unfold loadImage
    simp only
    split
    · exact h
    · obtain ⟨f, n, hf⟩ := configFaults_eq (imageFaults image)
        (startBlocks (startIsCold image s.sup.trusted) image { s with sup := s.sup.trusted })
      rw [hf]
      intro c hc
      obtain ⟨d, _, rfl⟩ := List.mem_map.1 hc
      exact ⟨rfl, rfl⟩
  | tested reads _ =>
    have hrun : ∀ (p : PartState) (u : State), u.smp = s.smp → (enterRun p u).BinsSound := fun p u hm => by
      obtain ⟨_, h1, _⟩ := State.SameTables.join { u with sup := { u.sup with part := p } }
        (ownPresence u false u.sup.coldStart) .rosStart { u.bus with rx := .hunt }
      exact (congrArg (fun m => ∀ c ∈ Smp.chans m, c.acc.Sound) (h1.trans hm)).mpr h
    unfold endSelfTest
    split
    · exact hrun _ _ rfl
    · exact hrun _ _ rfl
  | resetHeld testing =>
    unfold holdReset
    simp only
    split
    · exact h
    · rcases interruptTest_cases testing { s with sup := { s.sup with resetPin := true } } with ht | ⟨x, _, ht⟩ <;> rw [ht] <;> exact h
  | resetReleased =>
    unfold releaseReset
    simp only
    split <;> exact h
  | supplyLost => exact h
  | retentionLost _ => exact fun c hc => by cases hc
  | recovered _ => exact h
  | tick _ =>
    intro c hc
    change c ∈ (s.smp.tick s.settings.standstillTime).chans at hc
    rcases s.smp.tick_chans s.settings.standstillTime with hm | hm <;> rw [hm] at hc
    · exact h c hc
    · exact stopped_sound h c hc

/-! ### Properties of the store -/

/-- The settings, SMP, the store and the part state stand in `t` as in `s`. -/
structure State.SameStore (s t : State) : Prop where
  settings : t.settings = s.settings
  smp      : t.smp = s.smp
  tsc      : t.tsc = s.tsc
  part     : t.sup.part = s.sup.part

theorem startHead_sameStore (s : State) : s.SameStore s.startHead := by
  rcases s.startHead_cases with h | ⟨_, j, e, _, _, h⟩ <;> rw [h] <;> exact ⟨rfl, rfl, rfl, rfl⟩

theorem State.SameStore.join (s : State) (f : Frame) (o : Owner) (b : Bus) : s.SameStore (State.join f o { s with bus := b }) := by
  obtain ⟨h1, h2, h3, h4⟩ := startHead_sameStore { s with bus := { b with queue := b.queue ++ [.fresh f o] } }
  exact ⟨h1, h2, h3, h4⟩

theorem Works.sameStore {s t : State} (h : Works s t) : s.SameStore t := ⟨h.settings, h.smp, h.tsc, congrArg Sup.part h.sup⟩

/-- A property of the store alone is kept by what the links and the owners do, where grants of the page memory keep it. -/
theorem aside_of_store {P : State → Prop} (hsame : ∀ s t : State, s.SameStore t → P s → P t)
    (hread : ∀ (s : State) (m : Evaluator) (r : Option Transfer), (∀ p c, s.tsc.transfer ≠ some (.write p c)) →
      (∀ p c, r ≠ some (.write p c)) → (s.sup.part = .runDegraded → r = none ∨ r = s.tsc.transfer) → P s →
        P { s with tsc := { s.tsc with mark := m, transfer := r } })
    (hwrite : ∀ (s : State) (p : Page), s.sup.part = .run → s.tsc.flush.head? = some p → s.tsc.transfer = none → P s →
      P { s with tsc := grantWrite p s.tsc }) : Aside P where
  works := fun hw h => hsame _ _ hw.sameStore h
  sup := fun s _ hp h => hsame s _ ⟨rfl, rfl, rfl, hp⟩ h
  con := fun s _ _ h => hsame s _ ⟨rfl, rfl, rfl, rfl⟩ h
  req := fun s _ h => hsame s _ ⟨rfl, rfl, rfl, rfl⟩ h
  pse := fun s _ h => hsame s _ ⟨rfl, rfl, rfl, rfl⟩ h
  ros := fun s _ h => hsame s _ ⟨rfl, rfl, rfl, rfl⟩ h
  errors := fun s _ h => hsame s _ ⟨rfl, rfl, rfl, rfl⟩ h
  keep := fun s source r h => by rcases keepRecord_cases source r s with hk | ⟨_, hk⟩ <;> rw [hk]
                                 exacts [h, hsame s _ ⟨rfl, rfl, rfl, rfl⟩ h]
  drop := fun s _ h => hsame s _ ⟨rfl, rfl, rfl, rfl⟩ h
  line := fun s _ _ _ _ _ h => hsame s _ ⟨rfl, rfl, rfl, rfl⟩ h
  start := fun s h => hsame s _ (startHead_sameStore s) h
  remove := fun s _ h => hsame s _ ⟨rfl, rfl, rfl, rfl⟩ h
  put := fun s _ _ _ _ _ _ h => hsame s _ ⟨rfl, rfl, rfl, rfl⟩ h
  join := fun s f o _ h => hsame s _ (State.SameStore.join s f o s.bus) h
  fill := fun s _ e _ h => hsame s _ (State.SameStore.join s e.frame e.owner _) h
  mute := fun s _ h => hsame s _ ⟨rfl, rfl, rfl, rfl⟩ h
  read := hread
  write := hwrite

/-! ### The slots of the ring (R19) -/

theorem ring_aside : Aside fun s => ringWf s.tsc.ring = true :=
  aside_of_store (fun s t hs h => by rw [hs.tsc]; exact h) (fun _ _ _ _ _ _ h => h) (fun _ _ _ _ _ h => evictAt_ring _ _ h)

theorem forwardPulse_ring {s : State} (h : ringWf s.tsc.ring = true) : ringWf (forwardPulse s).tsc.ring = true := by
  have hhand : ∀ (g : Settings) (ob : Nat) (u : State) (x : SmpChan × List (Nat × Bin)), ringWf u.tsc.ring = true →
      ringWf (handBins g ob u x).tsc.ring = true := fun g ob u x h => by
    unfold handBins
    split
    · exact h
    · refine foldl_keeps (P := fun t => ringWf t.tsc.ring = true) _ (fun t kb h => ?_) _ _ h
      exact takeBin_ring _ _ _ _ _ h
  have hwhole : ∀ (oa ob : Nat) (u : State), ringWf u.tsc.ring = true → ringWf (wholeAdvance oa ob u).tsc.ring = true :=
      fun oa ob u h => by
    have hfold := fun (g : Settings) (xs : List (SmpChan × List (Nat × Bin))) (m : Smp) =>
      foldl_keeps (P := fun t => ringWf t.tsc.ring = true) (handBins g ob) (fun t x h => hhand _ _ t x h) xs { u with smp := m } h
    unfold wholeAdvance followOpenBins
    simp only
    split
    · exact hfold _ _ _
    · exact hfold _ _ _
  unfold forwardPulse
  simp only
  split
  · exact h
  · split
    · exact hwhole _ _ _ h
    · exact h

/-- What a start leaves of the store (R31, R33 to R35). -/
theorem Tsc.start_cases (cold : Bool) (g : Settings) (o : Nat) (t : Tsc) :
    (cold = false ∧ t.intact = true ∧ t.start cold g o =
      { t with ring := t.restored, transfer := none, mark := .localEval, storeFault := false, intact := true, testMark := none }) ∨
    t.start cold g o = { t.emptied g o with mark := .localEval, storeFault := false, intact := true, testMark := none } := by
  unfold Tsc.start
  cases hk : !cold && t.intact with
  | true =>
    simp only [Bool.and_eq_true, Bool.not_eq_true'] at hk
    exact .inl ⟨hk.1, hk.2, rfl⟩
  | false => exact .inr rfl

theorem Tsc.restored_wf {t : Tsc} (h : ringWf t.ring = true) : ringWf t.restored = true := by
  unfold Tsc.restored
  split
  · exact h
  · refine ringMap_wf _ (fun e => ?_) h
    split
    · exact (‹e.1 = _›).symm
    · rfl

theorem inner_ring {c : Instr} {s u : State} (hu : Aside.Inner c s u) (h : ringWf s.tsc.ring = true) : ringWf u.tsc.ring = true := by
  have ht := ring_aside.tracks (fun _ _ h => h) (fun _ h => h)
  cases hu with
  | forward _ => exact forwardPulse_ring h
  | reverse => exact h
  | standstill => exact h
  | lfTaken r _ => exact ht.takeLf (fun _ _ h => h) r (fun es _ => h) h
  | expiry coil => exact ht.ctr _ _ (ht.finalizeCoil true coil h)
  | flushed _ _ _ _ => exact completeWrite_ring _ _ _ _ h
  | settled _ => exact h
  | loaded image _ _ =>
    unfold loadImage
    simp only
    split
    · exact h
    · obtain ⟨f, n, hf⟩ := configFaults_eq (imageFaults image)
        (startBlocks (startIsCold image s.sup.trusted) image { s with sup := s.sup.trusted })
      rw [hf]
      change ringWf (Tsc.start _ _ _ s.tsc).ring = true
      rcases Tsc.start_cases (startIsCold image s.sup.trusted) (imageSettings image)
        (s.smp.start (startIsCold image s.sup.trusted) (imageSettings image)).odometer s.tsc with ⟨_, _, hk⟩ | hk <;> rw [hk]
      · exact Tsc.restored_wf h
      · rfl
  | tested reads _ =>
    have hrun : ∀ (p : PartState) (u : State), ringWf u.tsc.ring = true → ringWf (enterRun p u).tsc.ring = true := fun p u hm => by
      obtain ⟨_, _, h1, _⟩ := State.SameStore.join { u with sup := { u.sup with part := p } }
        (ownPresence u false u.sup.coldStart) .rosStart { u.bus with rx := .hunt }
      exact (congrArg (fun t => ringWf (Tsc.ring t) = true) h1).mpr hm
    unfold endSelfTest
    split
    · exact hrun _ _ h
    · exact hrun _ _ rfl
  | resetHeld testing =>
    unfold holdReset
    simp only
    split
    · exact h
    · rcases interruptTest_cases testing { s with sup := { s.sup with resetPin := true } } with ht | ⟨x, _, ht⟩ <;> rw [ht]
      · exact h
      · refine ringMap_wf _ (fun e => ?_) h
        split <;> rfl
  | resetReleased =>
    unfold releaseReset
    simp only
    split <;> exact h
  | supplyLost => exact ringMap_wf (fun e => (e.1, e.2.blank)) (fun _ => rfl) h
  | retentionLost _ => rfl
  | recovered _ => exact h
  | tick _ => exact h

/-! ### The first part of `StepKeepsTables` -/

/-- What an aside and the inner commands keep, a step keeps. -/
theorem Aside.step {P : State → Prop} (hP : Aside P) (hqueue : ∀ s rest, P s → P { s with pending := rest })
    (hinner : ∀ {c s u}, Inner c s u → P s → P u) {s t : State} (hs : P s) (h : step s = .next t) : P t :=
  step_keeps hqueue (fun _ _ _ hu hs => (hP.effect hu hs).elim id fun hi => hinner hi hs) (fun _ _ ht hs => hP.micro ht hs) hs h

theorem step_ctrSound {s t : State} (h : s.ctr.Sound) (ht : step s = .next t) : t.ctr.Sound :=
  ctrSound_aside.step (fun _ _ h => h) (fun hu h => inner_ctrSound hu h) h ht

theorem step_cacheSound {s t : State} (h : s.CacheSound) (ht : step s = .next t) : t.CacheSound :=
  cacheSound_aside.step (fun _ _ h => { h with }) (fun hu h => inner_cacheSound hu h) h ht

theorem step_ring {s t : State} (h : ringWf s.tsc.ring = true) (ht : step s = .next t) : ringWf t.tsc.ring = true :=
  ring_aside.step (fun _ _ h => h) (fun hu h => inner_ring hu h) h ht

theorem step_binsSound {s t : State} (h : s.BinsSound) (ht : step s = .next t) : t.BinsSound :=
  binsSound_aside.step (fun _ _ h => h) (fun hu h => inner_binsSound hu h) h ht

/-! ### The second part of `StepKeepsTables` -/

theorem step_inOrder {s t : State} (hb : s.Bounded) (h : s.InOrder) (ht : step s = .next t) : t.InOrder := by
  refine (step_keeps (P := fun s => s.Bounded ∧ s.InOrder) (fun _ _ h => ⟨{ h.1 with }, h.2⟩) (fun c s u hu hs => ?_)
    (fun s t hm hs => ⟨micro_bounded hm hs.1, inOrder_aside.micro hm hs.2⟩) ⟨hb, h⟩ ht).2
  exact ⟨effect_bounded hu hs.1, (inOrder_aside.effect hu hs.2).elim id fun hi => inner_inOrder hi hs.1.odometer hs.2⟩

end Sys2Proof.Machine

/-! PROOFS. The form of the trend store, as a property of TSC alone, under each operation of the store. -/

namespace Sys2Proof.Machine

/-! ### The held bins of one channel (R20 to R22) -/

/-- What the order of pages depends on: channel, number and first bin. -/
def Page.header (p : Page) : Nat × Nat × Nat := (p.chan, p.no, p.first)

theorem isChain_header {l m : List Page} (h : m.map Page.header = l.map Page.header)
    (hl : l.IsChain fun p q => q.no = p.no + 1 ∧ q.first = 64 * q.no) : m.IsChain fun p q => q.no = p.no + 1 ∧ q.first = 64 * q.no := by
  have hmap : ∀ k : List Page, (k.IsChain fun p q => q.no = p.no + 1 ∧ q.first = 64 * q.no) ↔
      (k.map Page.header).IsChain fun x y => y.2.1 = x.2.1 + 1 ∧ y.2.2 = 64 * y.2.1 := fun k =>
    (List.isChain_map (R := fun x y : Nat × Nat × Nat => y.2.1 = x.2.1 + 1 ∧ y.2.2 = 64 * y.2.1) Page.header).symm
  rw [hmap] at hl ⊢
  rwa [h]

theorem forall_mem_header {l m : List Page} (h : m.map Page.header = l.map Page.header) {P : Nat → Nat → Nat → Prop}
    (hl : ∀ p ∈ l, P p.chan p.no p.first) : ∀ p ∈ m, P p.chan p.no p.first := by
  intro p hp
  have hx : p.header ∈ l.map Page.header := h ▸ List.mem_map_of_mem hp
  obtain ⟨q, hq, he⟩ := List.mem_map.1 hx
  obtain ⟨h1, h2, h3⟩ : q.chan = p.chan ∧ q.no = p.no ∧ q.first = p.first := by simpa [Page.header] using he
  rw [← h1, ← h2, ← h3]
  exact hl q hq

theorem head_header {l m : List Page} (h : m.map Page.header = l.map Page.header) : m.head?.map (·.first) = l.head?.map (·.first) := by
  have hx : ∀ k : List Page, k.head?.map (·.first) = (k.map Page.header).head?.map (·.2.2) := fun k => by cases k <;> rfl
  rw [hx, hx, h]

namespace TscChan.Holds

variable {c : TscChan} {ps qs : List Page} {a b : Bool} {k : Nat}

theorem fresh (i openBin : Nat) (a : Bool) : (TscChan.fresh i openBin).Holds [] a openBin where
  meet := .singleton _
  own := by
    intro p hp
    obtain rfl : p = emptyPage i openBin := by simpa [TscChan.fresh] using hp
    exact ⟨rfl, Nat.mul_div_le openBin 64⟩
  horizon := rfl
  full := fun _ p hp => by cases hp
  current := ⟨rfl, rfl⟩

/-- Only the contents of pages changed, and those not of an intact store. -/
theorem contents (h : c.Holds ps a k) (hp : qs.map Page.header = ps.map Page.header) (hb : b = true → a = true ∧ qs = ps) :
    c.Holds qs b k := by
  have hall : (qs ++ [c.cur]).map Page.header = (ps ++ [c.cur]).map Page.header := by simp [hp]
  exact {
    meet := isChain_header hall h.meet
    own := forall_mem_header hall (P := fun x y z => x = c.index ∧ 64 * y ≤ z) h.own
    horizon := (head_header hall).trans h.horizon
    full := fun hb' => by obtain ⟨ha, rfl⟩ := hb hb'; exact h.full ha
    current := h.current }

/-- The current page takes a bin (R22). -/
theorem take (h : c.Holds ps a k) (bin : Bin) (hk : k % 64 ≠ 63) :
    TscChan.Holds { c with cur := { c.cur with bins := c.cur.bins ++ [bin] } } ps a (k + 1) := by
  have hall : (ps ++ [{ c.cur with bins := c.cur.bins ++ [bin] }]).map Page.header = (ps ++ [c.cur]).map Page.header := by
    simp [Page.header]
  obtain ⟨hno, hlen⟩ := h.current
  exact {
    meet := isChain_header hall h.meet
    own := forall_mem_header hall (P := fun x y z => x = c.index ∧ 64 * y ≤ z) h.own
    horizon := (head_header hall).trans h.horizon
    full := h.full
    current := ⟨by change c.cur.no = _; omega, by simp only [List.length_append, List.length_singleton]; omega⟩ }

/-- The current page completes, and the next one opens (R22). -/
theorem complete (h : c.Holds ps a k) (bin : Bin) (hk : k % 64 = 63) :
    TscChan.Holds { c with cur := pageAfter c.index (k / 64) } (ps ++ [{ c.cur with bins := c.cur.bins ++ [bin] }]) a (k + 1) := by
  have hall : (ps ++ [{ c.cur with bins := c.cur.bins ++ [bin] }]).map Page.header = (ps ++ [c.cur]).map Page.header := by
    simp [Page.header]
  obtain ⟨hno, hlen⟩ := h.current
  refine { meet := ?_, own := ?_, horizon := ?_, full := ?_, current := ?_ }
  · refine List.isChain_append.2 ⟨isChain_header hall h.meet, .singleton _, ?_⟩
    intro p hp q hq
    obtain rfl : p = { c.cur with bins := c.cur.bins ++ [bin] } := by simpa using hp.symm
    obtain rfl : q = pageAfter c.index (k / 64) := by simpa using hq.symm
    exact ⟨by change k / 64 + 1 = c.cur.no + 1; omega, rfl⟩
  · intro p hp
    rcases List.mem_append.1 hp with hp | hp
    · exact forall_mem_header hall (P := fun x y z => x = c.index ∧ 64 * y ≤ z) h.own p hp
    · obtain rfl : p = pageAfter c.index (k / 64) := by simpa using hp
      exact ⟨rfl, le_rfl⟩
  · have hx := (head_header hall).trans h.horizon
    cases ps <;> exact hx
  · intro ha p hp
    rcases List.mem_append.1 hp with hp | hp
    · exact h.full ha p hp
    · obtain rfl : p = { c.cur with bins := c.cur.bins ++ [bin] } := by simpa using hp
      simp only [List.length_append, List.length_singleton]
      omega
  · exact ⟨by change k / 64 + 1 = _; omega, by change 64 * (k / 64 + 1) + 0 = _; omega⟩

/-- The oldest page leaves (R26). -/
theorem evict {p : Page} (d : List (Nat × Nat)) (h : c.Holds (p :: ps) a k) :
    TscChan.Holds { c with dir := d, horizon := 64 * (p.no + 1) } ps a k where
  meet := h.meet.tail
  own := fun q hq => h.own q (List.mem_cons_of_mem _ hq)
  horizon := by
    have hm := h.meet
    cases ps with
    | nil =>
      obtain ⟨⟨hn, hf⟩, _⟩ := List.isChain_cons_cons.1 hm
      simp [hf, hn]
    | cons q qs =>
      obtain ⟨⟨hn, hf⟩, _⟩ := List.isChain_cons_cons.1 hm
      simp [hf, hn]
  full := fun ha q hq => h.full ha q (List.mem_cons_of_mem _ hq)
  current := h.current

theorem withDir (d : List (Nat × Nat)) (h : c.Holds ps a k) : TscChan.Holds { c with dir := d } ps a k := { h with }

/-- The pages before the current one have lower numbers. -/
theorem no_le (h : c.Holds ps a k) : ∀ p ∈ ps, p.no + 1 ≤ c.cur.no := by
  have hm := h.meet
  have hall : ∀ (ps : List Page), ((ps ++ [c.cur]).IsChain fun p q => q.no = p.no + 1 ∧ q.first = 64 * q.no) →
      ∀ p ∈ ps, p.no + 1 ≤ c.cur.no := by
    intro ps
    induction ps with
    | nil => exact fun _ p hp => by cases hp
    | cons q qs ih =>
      intro hm p hp
      have ht := ih hm.tail
      rcases List.mem_cons.1 hp with rfl | hp
      · cases qs with
        | nil =>
          obtain ⟨⟨hn, _⟩, _⟩ := List.isChain_cons_cons.1 hm
          omega
        | cons r rs =>
          obtain ⟨⟨hn, _⟩, _⟩ := List.isChain_cons_cons.1 hm
          have := ht r List.mem_cons_self
          omega
      · exact ht p hp
  exact hall ps hm

/-- In an intact store the horizon is not above the open bin (R21). -/
theorem horizon_le (h : c.Holds ps true k) : c.horizon ≤ k := by
  have hh := h.horizon
  obtain ⟨hno, hlen⟩ := h.current
  cases ps with
  | nil =>
    have : c.cur.first = c.horizon := by simpa using hh
    omega
  | cons p qs =>
    have hp : p.first = c.horizon := by simpa using hh
    have := h.full rfl p List.mem_cons_self
    have := h.no_le p List.mem_cons_self
    omega

end TscChan.Holds

/-! ### The form of TSC -/

/-- The trend store at the open bins `ob`: what `State.StoreSound` says of TSC whatever the part state. -/
structure Tsc.Form (g : Settings) (ob : Nat → Nat) (t : Tsc) : Prop where
  stores : t.chans.map (·.index) = g.channels.map (·.index)
  ring   : ringWf t.ring = true
  slots  : t.writePtr < slotCount g.storeCode ∧ ∀ e ∈ t.ring, e.1 < slotCount g.storeCode
  named  : ∀ e ∈ t.ring, ∃ c ∈ t.chans, c.index = e.2.chan ∧ (e.2.no, e.1) ∈ c.dir
  names  : ∀ c ∈ t.chans, ∀ x ∈ c.dir, ∃ p, ringAt t.ring x.2 = some p ∧ p.chan = c.index ∧ p.no = x.1
  order  : ∀ c ∈ t.chans,
    (c.dir.map fun x => (x.2 + slotCount g.storeCode - t.writePtr) % slotCount g.storeCode).Pairwise (· < ·)
  held   : ∀ c ∈ t.chans, c.Holds (t.completePages c) t.intact (ob c.index)
  queued : ∀ p ∈ t.flush, ∃ c ∈ t.chans, c.index = p.chan
  write  : ∀ p cancelled, t.transfer = some (.write p cancelled) →
    ringAt t.ring t.writePtr = none ∧ (cancelled = false → t.flush.head? = some p)
  buffer : ∀ i q p, t.testMark = some (i, q) → ringAt t.ring i = some p → q.chan = p.chan ∧ q.no = p.no ∧ q.first = p.first

/-- The open bins of the channels of the settings `g` at odometer `o` (R10). -/
def openBins (g : Settings) (o i : Nat) : Nat := ((g.channel i).map (·.openBin o)).getD 0

theorem channel_isSome {g : Settings} {i : Nat} (h : i ∈ g.channels.map (·.index)) : ∃ d, g.channel i = some d ∧ d.index = i := by
  obtain ⟨d, hd, hi⟩ := List.mem_map.1 h
  unfold Settings.channel
  cases hf : g.channels.find? fun d => d.index == i with
  | none => exact absurd (List.find?_eq_none.1 hf d hd) (by simp [hi])
  | some e => exact ⟨e, rfl, by simpa using List.find?_some hf⟩

theorem openBins_eq {g : Settings} {o i : Nat} {d : ChannelDef} (h : g.channel i = some d) : openBins g o i = o / d.step := by
  simp [openBins, h, ChannelDef.openBin]

theorem State.storeSound_iff (s : State) : s.StoreSound ↔
    ((s.settings.channels.map (·.index)).Pairwise (· < ·) ∧ s.smp.chans.map (·.index) = s.settings.channels.map (·.index)) ∧
    s.tsc.Form s.settings (openBins s.settings s.smp.odometer) ∧
    (s.sup.part = .checking ∨ s.sup.part = .run → s.tsc.testMark = none) ∧
    (s.sup.part = .checking ∨ s.running = true → s.tsc.intact = true) ∧
    (s.sup.part = .runDegraded → s.tsc.ring = [] ∧ s.tsc.flush = [] ∧ s.tsc.transfer = none) := by
  constructor
  · intro h
    refine ⟨⟨h.table, h.samplers⟩, { h with held := fun c hc => ?_ }, h.tested, h.intact, h.degraded⟩
    obtain ⟨d, hd, _⟩ := channel_isSome (h.stores ▸ List.mem_map_of_mem hc : c.index ∈ _)
    rw [openBins_eq hd]
    exact h.held c hc d hd
  · rintro ⟨⟨htable, hsamplers⟩, h, htested, hintact, hdegraded⟩
    exact { h with
      table := htable, samplers := hsamplers, tested := htested, intact := hintact, degraded := hdegraded
      held := fun c hc d hd => openBins_eq (o := s.smp.odometer) hd ▸ h.held c hc }

namespace Tsc.Form

variable {g : Settings} {ob ob' : Nat → Nat} {t : Tsc}

theorem congr (h : t.Form g ob) (ho : ∀ c ∈ t.chans, ob' c.index = ob c.index) : t.Form g ob' :=
  { h with held := fun c hc => ho c hc ▸ h.held c hc }

/-- A transfer that is no write. -/
theorem withTransfer (h : t.Form g ob) (m : Evaluator) (r : Option Transfer) (b : Bool) (hr : ∀ p c, r ≠ some (.write p c)) :
    Tsc.Form g ob { t with mark := m, transfer := r, storeFault := b } :=
  { h with write := fun p c hw => absurd hw (hr p c) }

/-- Each live slot reads as its directory names it, in its own page or in the test buffer. -/
theorem pageIn_header (h : t.Form g ob) {i : Nat} {p : Page} (hp : ringAt t.ring i = some p) :
    ∃ q, t.pageIn i = some q ∧ q.header = p.header := by
  unfold Tsc.pageIn
  rw [hp]
  simp only [Option.map_some]
  cases hm : t.testMark with
  | none => exact ⟨p, rfl, rfl⟩
  | some x =>
    obtain ⟨j, q⟩ := x
    by_cases hj : j = i
    · subst hj
      obtain ⟨h1, h2, h3⟩ := h.buffer j q p hm hp
      exact ⟨q, by simp, by simp [Page.header, h1, h2, h3]⟩
    · exact ⟨p, by simp [hj], rfl⟩

theorem nodup (h : t.Form g ob) (hg : (g.channels.map (·.index)).Pairwise (· < ·)) : (t.chans.map (·.index)).Nodup := by
  rw [h.stores]
  exact hg.imp Nat.ne_of_lt

/-- Channels of the same number are the same. -/
theorem unique (h : t.Form g ob) (hg : (g.channels.map (·.index)).Pairwise (· < ·)) {c d : TscChan} (hc : c ∈ t.chans) (hd : d ∈ t.chans)
    (hi : c.index = d.index) : c = d := List.inj_on_of_nodup_map (h.nodup hg) hc hd hi

/-- Contents of slots and the marks changed; the headers stand. -/
theorem contents (h : t.Form g ob) (u : Tsc) (hchans : u.chans = t.chans) (hptr : u.writePtr = t.writePtr) (hflush : u.flush = t.flush)
    (htransfer : ∀ p c, u.transfer ≠ some (.write p c)) (hwf : ringWf u.ring = true)
    (hring : ∀ i, (ringAt u.ring i).map Page.header = (ringAt t.ring i).map Page.header)
    (hmem : ∀ e ∈ u.ring, ∃ p, (e.1, p) ∈ t.ring ∧ p.header = e.2.header)
    (hbuffer : ∀ i q p, u.testMark = some (i, q) → ringAt u.ring i = some p → q.header = p.header)
    (hpages : u.intact = true → t.intact = true ∧ ∀ i, u.pageIn i = t.pageIn i) : u.Form g ob := by
  have hpage : ∀ i, (u.pageIn i).map Page.header = (ringAt u.ring i).map Page.header := fun i => by
    unfold Tsc.pageIn
    cases hp : ringAt u.ring i with
    | none => rfl
    | some p =>
      cases hm : u.testMark with
      | none => rfl
      | some x =>
        obtain ⟨j, q⟩ := x
        by_cases hj : j = i
        · subst hj; simp [hbuffer j q p hm hp]
        · simp [hj]
  have hpage' : ∀ i, (t.pageIn i).map Page.header = (ringAt t.ring i).map Page.header := fun i => by
    cases hp : ringAt t.ring i with
    | none => simp [Tsc.pageIn, hp]
    | some p => obtain ⟨q, hq, he⟩ := h.pageIn_header hp; simp [hq, he]
  refine { stores := hchans ▸ h.stores, ring := hwf, slots := ⟨hptr ▸ h.slots.1, ?_⟩, named := ?_, names := ?_, order := ?_, held := ?_,
           queued := ?_, write := fun p c hw => absurd hw (htransfer p c), buffer := ?_ }
  · intro e he
    obtain ⟨p, hp, _⟩ := hmem e he
    exact h.slots.2 (e.1, p) hp
  · intro e he
    obtain ⟨p, hp, hh⟩ := hmem e he
    obtain ⟨h1, h2, h3⟩ : p.chan = e.2.chan ∧ p.no = e.2.no ∧ p.first = e.2.first := by simpa [Page.header] using hh
    obtain ⟨c, hc, hi, hd⟩ := h.named _ hp
    exact ⟨c, hchans ▸ hc, hi.trans h1, h2 ▸ hd⟩
  · intro c hc x hx
    obtain ⟨p, hp, h1, h2⟩ := h.names c (hchans ▸ hc) x hx
    have hr := hring x.2
    rw [hp] at hr
    obtain ⟨q, hq, hh⟩ := Option.map_eq_some_iff.1 hr
    obtain ⟨k1, k2, _⟩ : q.chan = p.chan ∧ q.no = p.no ∧ q.first = p.first := by simpa [Page.header] using hh
    exact ⟨q, hq, k1.trans h1, k2.trans h2⟩
  · intro c hc
    rw [hptr]
    exact h.order c (hchans ▸ hc)
  · intro c hc
    refine (h.held c (hchans ▸ hc)).contents ?_ fun hi => ⟨(hpages hi).1, ?_⟩
    · simp only [Tsc.completePages, List.map_append, List.map_filterMap, hflush]
      congr 1
      refine List.filterMap_congr fun x _ => ?_
      rw [hpage, hpage', hring]
    · simp only [Tsc.completePages, hflush, (hpages hi).2]
  · intro p hp
    obtain ⟨c, hc, hi⟩ := h.queued p (hflush ▸ hp)
    exact ⟨c, hchans ▸ hc, hi⟩
  · intro i q p hm hp
    simpa [Page.header] using hbuffer i q p hm hp

end Tsc.Form

end Sys2Proof.Machine

/-! PROOFS. The operations of the trend store keep its form. -/

namespace Sys2Proof.Machine

/-! ### Slots of the ring -/

theorem ringAt_of_mem {r : List (Nat × Page)} (h : ringWf r = true) {e : Nat × Page} (he : e ∈ r) : ringAt r e.1 = some e.2 := by
  rw [ringWf_iff] at h
  unfold ringAt
  cases hf : r.find? fun x => x.1 == e.1 with
  | none => exact absurd (List.find?_eq_none.1 hf e he) (by simp)
  | some x =>
    have hx : x.1 = e.1 := by simpa using List.find?_some hf
    rw [List.inj_on_of_nodup_map (h.imp Nat.ne_of_lt) (List.mem_of_find?_eq_some hf) he hx]
    rfl

theorem mem_of_ringAt {r : List (Nat × Page)} {i : Nat} {p : Page} (h : ringAt r i = some p) : (i, p) ∈ r := by
  obtain ⟨e, he, rfl⟩ := Option.map_eq_some_iff.1 h
  have hi : e.1 = i := by simpa using List.find?_some he
  exact hi ▸ List.mem_of_find?_eq_some he

/-- A change of contents alone, read slot by slot. -/
theorem ringAt_map (f : Nat × Page → Nat × Page) (hf : ∀ e, (f e).1 = e.1) (r : List (Nat × Page)) (i : Nat) :
    ringAt (r.map f) i = (ringAt r i).map fun p => (f (i, p)).2 := by
  unfold ringAt
  induction r with
  | nil => rfl
  | cons e r ih =>
    by_cases hi : e.1 = i
    · subst hi; simp [hf]
    · have hn : (e.1 == i) = false := by simpa using hi
      have hn' : ((f e).1 == i) = false := by simpa [hf] using hi
      simp only [List.map_cons, List.find?_cons, hn, hn']
      exact ih

namespace Tsc.Form

variable {g : Settings} {ob : Nat → Nat} {t : Tsc}

/-- A change of contents alone, with its effect on the pages as the next start finds them. -/
theorem mapRing (h : t.Form g ob) (f : Nat × Page → Nat × Page) (hf : ∀ e, (f e).1 = e.1) (u : Tsc) (hchans : u.chans = t.chans)
    (hptr : u.writePtr = t.writePtr) (hflush : u.flush = t.flush) (htransfer : ∀ p c, u.transfer ≠ some (.write p c))
    (hr : u.ring = t.ring.map f) (hh : ∀ i p, ringAt t.ring i = some p → (f (i, p)).2.header = p.header)
    (hbuffer : ∀ i q p, u.testMark = some (i, q) → ringAt t.ring i = some p → q.header = p.header)
    (hpages : u.intact = true → t.intact = true ∧ ∀ i, u.pageIn i = t.pageIn i) : u.Form g ob := by
  refine h.contents u hchans hptr hflush htransfer (hr ▸ ringMap_wf f hf h.ring) (fun i => ?_) (fun e he => ?_) (fun i q p hm hp => ?_) hpages
  · rw [hr, ringAt_map f hf]
    cases hp : ringAt t.ring i with
    | none => rfl
    | some p => exact congrArg some (hh i p hp)
  · rw [hr] at he
    obtain ⟨x, hx, rfl⟩ := List.mem_map.1 he
    refine ⟨x.2, ?_, (hh x.1 x.2 (ringAt_of_mem h.ring hx)).symm⟩
    rw [hf]
    exact hx
  · rw [hr, ringAt_map f hf] at hp
    obtain ⟨p', hp', rfl⟩ := Option.map_eq_some_iff.1 hp
    rw [hh i p' hp']
    exact hbuffer i q p' hm hp'

/-- The page contents are lost (R35). -/
theorem unrefreshed (h : t.Form g ob) (htransfer : t.transfer = none) : t.unrefreshed.Form g ob := by
  refine h.mapRing (fun e => (e.1, e.2.blank)) (fun _ => rfl) _ rfl rfl rfl (by simp [Tsc.unrefreshed, htransfer]) rfl (fun _ _ _ => rfl)
    (fun i q p hm hp => ?_) (fun hi => by cases hi)
  obtain ⟨h1, h2, h3⟩ := h.buffer i q p hm hp
  simp [Page.header, h1, h2, h3]

/-- A self-test is cut off in a live slot (R31). -/
theorem interrupted (h : t.Form g ob) {i : Nat} {p : Page} (hp : ringAt t.ring i = some p) (hm : t.testMark = none) :
    Tsc.Form g ob { t with
      testMark := some (i, p), ring := t.ring.map fun e => if e.1 = i then (e.1, e.2.blank) else e, transfer := none } := by
  refine h.mapRing (fun e => if e.1 = i then (e.1, e.2.blank) else e) (fun e => by split <;> rfl) _ rfl rfl rfl
    (fun _ _ hw => by cases hw) rfl ?_ ?_ ?_
  · intro j q _
    simp only
    split <;> rfl
  · intro j q q' hj hq
    obtain ⟨rfl, rfl⟩ : i = j ∧ p = q := by simpa using hj
    rw [hp] at hq
    cases hq
    rfl
  · refine fun hi => ⟨hi, fun j => ?_⟩
    unfold Tsc.pageIn
    rw [ringAt_map (fun e => if e.1 = i then (e.1, e.2.blank) else e) (fun e => by split <;> rfl), hm]
    by_cases hj : i = j
    · subst hj; simp [hp]
    · cases ringAt t.ring j <;> simp [hj, Ne.symm hj]

/-- The test buffer is written back into the marked slot (R31). -/
theorem restored (h : t.Form g ob) : Tsc.Form g ob
    { t with ring := t.restored, transfer := none, mark := .localEval, storeFault := false, intact := t.intact, testMark := none } := by
  cases hm : t.testMark with
  | none =>
    have hr : t.restored = t.ring.map id := by simp [Tsc.restored, hm]
    refine h.mapRing id (fun _ => rfl) _ rfl rfl rfl (fun _ _ hw => by cases hw) hr (fun _ _ _ => rfl) (fun _ _ _ hx => by cases hx) ?_
    refine fun hi => ⟨hi, fun i => ?_⟩
    simp [Tsc.pageIn, hm, hr]
  | some x =>
    obtain ⟨i, q⟩ := x
    have hr : t.restored = t.ring.map fun e => if e.1 = i then (i, q) else e := by simp [Tsc.restored, hm]
    have hf : ∀ e : Nat × Page, (if e.1 = i then (i, q) else e).1 = e.1 := fun e => by
      split
      · exact (‹e.1 = i›).symm
      · rfl
    refine h.mapRing _ hf _ rfl rfl rfl (fun _ _ hw => by cases hw) hr (fun j p hp => ?_) (fun _ _ _ hx => by cases hx) ?_
    · simp only
      split
      · rename_i hj
        subst hj
        obtain ⟨h1, h2, h3⟩ := h.buffer _ q p hm hp
        simp [Page.header, h1, h2, h3]
      · rfl
    · refine fun hi => ⟨hi, fun j => ?_⟩
      simp only [Tsc.pageIn, hm, hr]
      rw [ringAt_map _ hf]
      by_cases hj : j = i
      · subst hj; cases ringAt t.ring j <;> simp
      · cases ringAt t.ring j <;> simp [hj, Ne.symm hj]

/-- A store that holds no page, each channel at its open bin (R32, R33, R35). -/
theorem emptied (g : Settings) (o : Nat) (u : Tsc) (hring : u.ring = []) (hptr : u.writePtr < slotCount g.storeCode)
    (hchans : u.chans = g.channels.map fun d => .fresh d.index (d.openBin o)) (hflush : u.flush = []) (htransfer : u.transfer = none)
    (hg : (g.channels.map (·.index)).Pairwise (· < ·)) : u.Form g (openBins g o) where
  stores := by rw [hchans, List.map_map]; rfl
  ring := by rw [hring]; rfl
  slots := ⟨hptr, fun e he => by rw [hring] at he; cases he⟩
  named := fun e he => by rw [hring] at he; cases he
  names := fun c hc x hx => by
    rw [hchans] at hc
    obtain ⟨d, _, rfl⟩ := List.mem_map.1 hc
    cases hx
  order := fun c hc => by
    rw [hchans] at hc
    obtain ⟨d, _, rfl⟩ := List.mem_map.1 hc
    exact .nil
  held := fun c hc => by
    rw [hchans] at hc
    obtain ⟨d, hd, rfl⟩ := List.mem_map.1 hc
    have hfind : g.channel d.index = some d := by
      obtain ⟨e, he, hi⟩ := channel_isSome (List.mem_map_of_mem hd : d.index ∈ g.channels.map (·.index))
      rw [he, List.inj_on_of_nodup_map (hg.imp Nat.ne_of_lt) (List.mem_of_find?_eq_some he) hd hi]
    have hps : u.completePages (.fresh d.index (d.openBin o)) = [] := by simp [Tsc.completePages, TscChan.fresh, hflush]
    rw [hps]
    have ho : openBins g o d.index = d.openBin o := openBins_eq hfind
    exact ho ▸ TscChan.Holds.fresh d.index (d.openBin o) u.intact
  queued := fun p hp => by rw [hflush] at hp; cases hp
  write := fun p c hw => by rw [htransfer] at hw; cases hw
  buffer := fun i q p _ hp => by rw [hring] at hp; cases hp

end Tsc.Form

end Sys2Proof.Machine

/-! PROOFS. Closed bins, flush writes and evictions keep the form of the trend store. -/

namespace Sys2Proof.Machine

/-! ### One channel updated -/

theorem mem_updateChan {i : Nat} {f : TscChan → TscChan} {t : Tsc} {c : TscChan} :
    c ∈ (t.updateChan i f).chans ↔ ∃ x ∈ t.chans, (if x.index = i then f x else x) = c := by simp [Tsc.updateChan]

theorem updateChan_index {i : Nat} {f : TscChan → TscChan} (hf : ∀ c, c.index = i → (f c).index = i) (t : Tsc) :
    (t.updateChan i f).chans.map (·.index) = t.chans.map (·.index) := by
  simp only [Tsc.updateChan, List.map_map]
  refine List.map_congr_left fun c _ => ?_
  simp only [Function.comp]
  split
  · rename_i h; rw [hf c h, h]
  · rfl

theorem chan_some {t : Tsc} {i : Nat} {c : TscChan} (h : t.chan i = some c) : c ∈ t.chans ∧ c.index = i :=
  ⟨List.mem_of_find?_eq_some h, by simpa using List.find?_some h⟩

/-- A channel with number `i` stands in an update of channel `i`. -/
theorem exists_updateChan {i j : Nat} {f : TscChan → TscChan} (hf : ∀ c, c.index = i → (f c).index = i) {t : Tsc}
    (h : ∃ c ∈ t.chans, c.index = j) : ∃ c ∈ (t.updateChan i f).chans, c.index = j := by
  obtain ⟨c, hc, hj⟩ := h
  refine ⟨_, mem_updateChan.2 ⟨c, hc, rfl⟩, ?_⟩
  split
  · rename_i h; rw [hf c h, ← h, hj]
  · exact hj

/-! ### Closed bins (R22 to R24) -/

namespace Tsc.Form

variable {g : Settings} {ob : Nat → Nat} {t : Tsc}

/-- The current page of channel `i` and the flush queue change: the channel's held bins go on to the open bin `k`. -/
theorem currentPage (h : t.Form g ob) (hg : (g.channels.map (·.index)).Pairwise (· < ·)) {i k : Nat} {c : TscChan} (hc : c ∈ t.chans)
    (hi : c.index = i) (f : TscChan → TscChan) (more : List Page) (hf : ∀ x, (f x).index = x.index ∧ (f x).dir = x.dir)
    (hmore : ∀ p ∈ more, p.chan = i) (hheld : (f c).Holds (t.completePages c ++ more) t.intact k) :
    Tsc.Form g (Function.update ob i k) { t.updateChan i f with flush := t.flush ++ more } := by
  have hindex : ∀ x : TscChan, (if x.index = i then f x else x).index = x.index ∧ (if x.index = i then f x else x).dir = x.dir :=
    fun x => by split
                · exact hf x
                · exact ⟨rfl, rfl⟩
  have hpages : ∀ x : TscChan, Tsc.completePages { t.updateChan i f with flush := t.flush ++ more } (if x.index = i then f x else x) =
      t.completePages x ++ more.filter fun p => p.chan == x.index := fun x => by
    simp only [Tsc.completePages, Tsc.pageIn, (hindex x).1, (hindex x).2, List.filter_append, List.append_assoc]
    rfl
  refine { stores := ?_, ring := h.ring, slots := h.slots, named := ?_, names := ?_, order := ?_, held := ?_, queued := ?_, write := ?_,
           buffer := h.buffer }
  · exact (updateChan_index (fun x hx => ((hf x).1).trans hx) t).trans h.stores
  · intro e he
    obtain ⟨x, hx, h1, h2⟩ := h.named e he
    exact ⟨_, mem_updateChan.2 ⟨x, hx, rfl⟩, (hindex x).1.trans h1, (hindex x).2 ▸ h2⟩
  · intro y hy e he
    obtain ⟨x, hx, rfl⟩ := mem_updateChan.1 hy
    obtain ⟨p, hp, h1, h2⟩ := h.names x hx e ((hindex x).2 ▸ he)
    exact ⟨p, hp, h1.trans (hindex x).1.symm, h2⟩
  · intro y hy
    obtain ⟨x, hx, rfl⟩ := mem_updateChan.1 hy
    rw [(hindex x).2]
    exact h.order x hx
  · intro y hy
    obtain ⟨x, hx, rfl⟩ := mem_updateChan.1 hy
    rw [hpages, (hindex x).1]
    by_cases hxi : x.index = i
    · obtain rfl : x = c := h.unique hg hx hc (hxi.trans hi.symm)
      have hfilter : (more.filter fun p => p.chan == x.index) = more := by
        rw [List.filter_eq_self]
        intro p hp
        simp [hmore p hp, hi]
      rw [if_pos hxi, hfilter, hxi, Function.update_self]
      exact hheld
    · have hfilter : (more.filter fun p => p.chan == x.index) = [] := by
        rw [List.filter_eq_nil_iff]
        intro p hp
        simp [hmore p hp, Ne.symm hxi]
      rw [if_neg hxi, hfilter, List.append_nil, Function.update_of_ne hxi]
      exact h.held x hx
  · intro p hp
    rcases List.mem_append.1 hp with hp | hp
    · exact exists_updateChan (fun x hx => ((hf x).1).trans hx) (h.queued p hp)
    · exact exists_updateChan (fun x hx => ((hf x).1).trans hx) ⟨c, hc, hi.trans (hmore p hp).symm⟩
  · intro p cancelled hw
    obtain ⟨h1, h2⟩ := h.write p cancelled hw
    exact ⟨h1, fun hn => by simp [List.head?_append, h2 hn]⟩

/-- FLUSH-DROP leaves a channel without held bins (R24). -/
theorem dropped (h : t.Form g ob) (i openBin : Nat) (cancel : Transfer → Transfer)
    (hcancel : ∀ r p c, cancel r = .write p c → ∃ c', r = .write p c' ∧ c = (c' || p.chan == i)) :
    Tsc.Form g (Function.update ob i openBin) (Tsc.updateChan i (fun _ => .fresh i openBin)
      { t with ring := ringFree (fun e => e.2.chan == i) t.ring, flush := t.flush.filter (fun p => p.chan != i),
               transfer := t.transfer.map cancel }) := by
  have hring : ∀ j p, ringAt (ringFree (fun e => e.2.chan == i) t.ring) j = some p ↔ ringAt t.ring j = some p ∧ p.chan ≠ i := fun j p => by
    rw [ringAt_ringFree _ _ h.ring, Option.filter_eq_some_iff]
    simp
  refine { stores := ?_, ring := ringFree_wf _ h.ring, slots := ⟨h.slots.1, fun e he => h.slots.2 e (List.mem_of_mem_filter he)⟩,
           named := ?_, names := ?_, order := ?_, held := ?_, queued := ?_, write := ?_, buffer := ?_ }
  · exact (updateChan_index (i := i) (f := fun _ => .fresh i openBin) (fun _ _ => rfl) t).trans h.stores
  · intro e he
    obtain ⟨he, hn⟩ := List.mem_filter.1 he
    have hn : e.2.chan ≠ i := by simpa using hn
    obtain ⟨x, hx, h1, h2⟩ := h.named e he
    exact ⟨x, mem_updateChan.2 ⟨x, hx, if_neg (h1 ▸ hn)⟩, h1, h2⟩
  · intro y hy e he
    obtain ⟨x, hx, rfl⟩ := mem_updateChan.1 hy
    by_cases hxi : x.index = i
    · rw [if_pos hxi] at he; cases he
    · rw [if_neg hxi] at he ⊢
      obtain ⟨p, hp, h1, h2⟩ := h.names x hx e he
      exact ⟨p, (hring _ _).2 ⟨hp, h1 ▸ hxi⟩, h1, h2⟩
  · intro y hy
    obtain ⟨x, hx, rfl⟩ := mem_updateChan.1 hy
    by_cases hxi : x.index = i
    · rw [if_pos hxi]; exact .nil
    · rw [if_neg hxi]; exact h.order x hx
  · intro y hy
    obtain ⟨x, hx, rfl⟩ := mem_updateChan.1 hy
    by_cases hxi : x.index = i
    · have hnone : ∀ l : List Page, ((l.filter fun p => p.chan != i).filter fun p => p.chan == i) = [] := fun l => by
        simp [List.filter_eq_nil_iff]
      rw [if_pos hxi]
      have hi : (TscChan.fresh i openBin).index = i := rfl
      rw [hi, Function.update_self]
      have hps := hnone t.flush
      simp only [Tsc.completePages, TscChan.fresh, Tsc.updateChan, List.filterMap_nil, List.nil_append, hps]
      exact .fresh i openBin t.intact
    · rw [if_neg hxi, Function.update_of_ne hxi]
      refine (h.held x hx).contents (congrArg _ ?_) fun hi => ⟨hi, ?_⟩
      all_goals
        simp only [Tsc.completePages, Tsc.updateChan, List.filter_filter]
        congr 1
        · refine List.filterMap_congr fun e he => ?_
          obtain ⟨p, hp, h1, _⟩ := h.names x hx e he
          simp only [Tsc.pageIn]
          rw [hp, (hring _ _).2 ⟨hp, h1 ▸ hxi⟩]
        · refine List.filter_congr fun p _ => ?_
          by_cases hp : p.chan = x.index
          · simp [hp, hxi]
          · simp [hp]
  · intro p hp
    obtain ⟨hp, hn⟩ := List.mem_filter.1 hp
    exact exists_updateChan (i := i) (f := fun _ => .fresh i openBin) (fun _ _ => rfl) (h.queued p hp)
  · intro p c hw
    obtain ⟨r, hr, hrw⟩ := Option.map_eq_some_iff.1 hw
    obtain ⟨c', rfl, rfl⟩ := hcancel r p c hrw
    obtain ⟨h1, h2⟩ := h.write p c' hr
    refine ⟨?_, fun hn => ?_⟩
    · change ringAt (ringFree _ t.ring) t.writePtr = none
      rw [ringAt_ringFree _ _ h.ring, h1]
      rfl
    · obtain ⟨hc', hpi⟩ : c' = false ∧ p.chan ≠ i := by simpa using hn
      change (t.flush.filter fun p => p.chan != i).head? = some p
      have hh := h2 hc'
      cases hf : t.flush with
      | nil => rw [hf] at hh; cases hh
      | cons q qs =>
        rw [hf] at hh
        cases hh
        simp [hpi]
  · intro j q p hm hp
    exact h.buffer j q p hm ((hring j p).1 hp).1

end Tsc.Form

/-- The marks that closed bins leave alone. -/
theorem takeBin_marks (i openBin k : Nat) (b : Bin) (s : State) :
    (takeBin i openBin k b s).tsc.intact = s.tsc.intact ∧ (takeBin i openBin k b s).tsc.testMark = s.tsc.testMark := by
  unfold takeBin
  split
  · exact ⟨rfl, rfl⟩
  · split
    · exact ⟨rfl, rfl⟩
    · split
      · exact ⟨rfl, rfl⟩
      · simp only
        split
        · split <;> exact ⟨rfl, rfl⟩
        · exact ⟨rfl, rfl⟩

/-- The store of a part in RUN while it takes the closed bins of an advance. -/
structure State.Taking (g : Settings) (ob : Nat → Nat) (s : State) : Prop where
  run    : s.sup.part = .run
  intact : s.tsc.intact = true
  mark   : s.tsc.testMark = none
  form   : s.tsc.Form g ob

theorem State.Taking.takeBin_of {g : Settings} {ob ob' : Nat → Nat} {s : State} (h : s.Taking g ob) (i openBin k : Nat) (b : Bin)
    (hf : (takeBin i openBin k b s).tsc.Form g ob') : (takeBin i openBin k b s).Taking g ob' where
  run := by obtain ⟨_, _, _, hs⟩ := takeBin_storeMoves i openBin k b s; rw [hs]; exact h.run
  intact := (takeBin_marks i openBin k b s).1.trans h.intact
  mark := (takeBin_marks i openBin k b s).2.trans h.mark
  form := hf

/-- The next closed bin of a channel: held, or lost with all the channel's bins to a FLUSH-DROP (R22 to R24). -/
theorem State.Taking.takeBin {g : Settings} {ob : Nat → Nat} {s : State} (h : s.Taking g ob)
    (hg : (g.channels.map (·.index)).Pairwise (· < ·)) (i openBin : Nat) (b : Bin) (hi : ∃ c ∈ s.tsc.chans, c.index = i) :
    (Machine.takeBin i openBin (ob i) b s).Taking g (Function.update ob i (ob i + 1)) ∨
      ((Machine.takeBin i openBin (ob i) b s).Taking g (Function.update ob i openBin) ∧
        (Machine.takeBin i openBin (ob i) b s).tsc.chan i = some (.fresh i openBin)) := by
  obtain ⟨c, hc⟩ : ∃ c, s.tsc.chan i = some c := by
    obtain ⟨c, hc, hi⟩ := hi
    unfold Tsc.chan
    cases hf : s.tsc.chans.find? fun c => c.index == i with
    | none => exact absurd (List.find?_eq_none.1 hf c hc) (by simp [hi])
    | some d => exact ⟨d, rfl⟩
  obtain ⟨hmem, hci⟩ := chan_some hc
  have hheld := h.form.held c hmem
  rw [h.intact, hci] at hheld
  have hle := hheld.horizon_le
  by_cases hk : ob i % 64 = 63
  · by_cases hroom : s.tsc.flush.length < Config.flushCap
    · refine .inl (h.takeBin_of i openBin _ b ?_)
      have hq : Machine.takeBin i openBin (ob i) b s = { s with tsc :=
          { s.tsc.updateChan i (fun c => { c with cur := pageAfter i (ob i / 64) }) with
            flush := s.tsc.flush ++ [{ c.cur with bins := c.cur.bins ++ [b] }] } } := by
        simp [Machine.takeBin, h.run, hc, Nat.not_lt.2 hle, hk, hroom]
      rw [hq]
      refine h.form.currentPage hg hmem hci _ _ (fun _ => ⟨rfl, rfl⟩) ?_ ?_
      · intro p hp
        obtain rfl : p = { c.cur with bins := c.cur.bins ++ [b] } := by simpa using hp
        exact ((hheld.own c.cur (by simp)).1).trans hci
      · rw [h.intact]
        exact hci ▸ hheld.complete b hk
    · have hq : Machine.takeBin i openBin (ob i) b s = flushDrop i openBin s := by
        simp [Machine.takeBin, h.run, hc, Nat.not_lt.2 hle, hk, hroom]
      refine .inr ⟨h.takeBin_of i openBin _ b ?_, ?_⟩
      · rw [hq]
        refine h.form.dropped i openBin _ ?_
        intro r p c hr
        cases r with
        | write q c' => cases hr; exact ⟨c', rfl, rfl⟩
        | read who bins => cases hr
      · rw [hq]
        change ((s.tsc.chans.map _).find? _) = _
        clear hq hk hroom hle hheld
        unfold Tsc.chan at hc
        rw [List.find?_map]
        have hcongr : ((fun c : TscChan => c.index == i) ∘ fun c => if c.index = i then TscChan.fresh i openBin else c) =
            fun c => c.index == i := by
          funext c
          simp only [Function.comp]
          split
          · simp [*, TscChan.fresh]
          · rfl
        rw [hcongr, hc]
        simp [hci]
  · refine .inl (h.takeBin_of i openBin _ b ?_)
    have hq : Machine.takeBin i openBin (ob i) b s =
        { s with tsc := s.tsc.updateChan i fun c' => { c' with cur := { c.cur with bins := c.cur.bins ++ [b] } } } := by
      simp [Machine.takeBin, h.run, hc, Nat.not_lt.2 hle, hk]
    rw [hq]
    have := h.form.currentPage hg hmem hci (k := ob i + 1) (fun c' => { c' with cur := { c.cur with bins := c.cur.bins ++ [b] } }) []
      (fun _ => ⟨rfl, rfl⟩) (fun p hp => by cases hp) (by rw [List.append_nil, h.intact]; exact hheld.take b hk)
    rw [List.append_nil] at this
    exact this

end Sys2Proof.Machine

/-! PROOFS. A whole-mm advance and the flush writes keep the form of the trend store. -/

namespace Sys2Proof.Machine

/-! ### The bins of an advance (R14, R18) -/

/-- The closed bins of a channel stand in ascending index from the open bin before to the open bin after. -/
theorem closeChannel_indices (d : ChannelDef) (oa ob : Nat) (c : SmpChan) :
    (closeChannel d oa ob c).2.map Prod.fst = List.range' (d.openBin oa) (d.openBin ob - d.openBin oa) := by
  unfold closeChannel
  simp only
  split
  · rename_i h
    obtain ⟨n, hn⟩ := Nat.exists_eq_add_of_lt h
    have hlen : d.openBin ob - d.openBin oa = n + 1 := by omega
    rw [hlen, List.range'_succ]
    simp [List.range'_eq_map_range, Function.comp_def]
  · rename_i h
    rw [Nat.sub_eq_zero_of_le (Nat.not_lt.1 h)]
    rfl

/-- Bins below the horizon are discarded (R22). -/
theorem takeBins_below {i openBin : Nat} {c : TscChan} {s : State} (hc : s.tsc.chan i = some c) :
    ∀ l : List (Nat × Bin), (∀ x ∈ l, x.1 < c.horizon) → l.foldl (fun s kb => takeBin i openBin kb.1 kb.2 s) s = s := by
  intro l
  induction l with
  | nil => exact fun _ => rfl
  | cons x l ih =>
    intro hl
    have hx : takeBin i openBin x.1 x.2 s = s := by simp [takeBin, hc, hl x List.mem_cons_self]
    rw [List.foldl_cons, hx]
    exact ih fun y hy => hl y (List.mem_cons_of_mem _ hy)

namespace State.Taking

variable {g : Settings} {ob : Nat → Nat} {s : State}

/-- The closed bins of one channel up to its new open bin. -/
theorem takeBins (hg : (g.channels.map (·.index)).Pairwise (· < ·)) (i openBin : Nat) : ∀ (l : List (Nat × Bin)) {ob : Nat → Nat} {s : State},
    s.Taking g ob → (∃ c ∈ s.tsc.chans, c.index = i) → l.map Prod.fst = List.range' (ob i) l.length → ob i + l.length = openBin →
      (l.foldl (fun s kb => Machine.takeBin i openBin kb.1 kb.2 s) s).Taking g (Function.update ob i openBin) := by
  intro l
  induction l with
  | nil =>
    intro ob s h _ _ ho
    rw [← ho]
    simpa using h
  | cons x l ih =>
    intro ob s h hi hl ho
    simp only [List.map_cons, List.length_cons, List.range'_succ, List.cons.injEq] at hl
    obtain ⟨hx, hl⟩ := hl
    rw [List.length_cons] at ho
    rw [List.foldl_cons, hx]
    rcases h.takeBin hg i openBin x.2 hi with hk | ⟨hk, hc⟩
    · have hex : ∃ c ∈ (Machine.takeBin i openBin (ob i) x.2 s).tsc.chans, c.index = i := by
        have hstores := hk.form.stores.trans h.form.stores.symm
        obtain ⟨c, hc, rfl⟩ := hi
        exact List.mem_map.1 (hstores ▸ List.mem_map_of_mem hc)
      have := ih hk hex (by rw [Function.update_self]; exact hl) (by rw [Function.update_self]; omega)
      rwa [Function.update_idem] at this
    · rw [takeBins_below hc]
      · exact hk
      · intro y hy
        have hm : y.1 ∈ List.range' (ob i + 1) l.length := hl ▸ List.mem_map_of_mem hy
        rw [List.mem_range'_1] at hm
        change y.1 < openBin
        omega

/-- The closed bins of one channel of the sampler. -/
theorem handBins (hg : (g.channels.map (·.index)).Pairwise (· < ·)) (h : s.Taking g ob) {oa o : Nat} (hle : oa ≤ o) (c : SmpChan)
    (hc : c.index ∈ g.channels.map (·.index)) (ho : ob c.index = openBins g oa c.index) :
    (Machine.handBins g o s (advanceChannel g oa o c)).Taking g (Function.update ob c.index (openBins g o c.index)) := by
  obtain ⟨d, hd, _⟩ := channel_isSome hc
  have ha : advanceChannel g oa o c = closeChannel d oa o c := by simp [advanceChannel, hd]
  have hi : (closeChannel d oa o c).1.index = c.index := ha ▸ (advanceChannel_acc g oa o c).1
  have hlist := closeChannel_indices d oa o c
  have hlen : (closeChannel d oa o c).2.length = d.openBin o - d.openBin oa := by
    have := congrArg List.length hlist
    simpa using this
  have hmono : d.openBin oa ≤ d.openBin o := Nat.div_le_div_right hle
  rw [openBins_eq hd] at ho ⊢
  unfold Machine.handBins
  rw [ha, hi, hd]
  refine takeBins hg c.index (d.openBin o) _ h ?_ ?_ ?_
  · have := h.form.stores ▸ hc
    exact List.mem_map.1 this
  · rw [ho, hlist, hlen]; rfl
  · rw [ho, hlen]
    change d.openBin oa + _ = _
    omega

/-- The closed bins of an advance, channel by channel. -/
theorem handAll (hg : (g.channels.map (·.index)).Pairwise (· < ·)) {oa o : Nat} (hle : oa ≤ o) : ∀ (l : List SmpChan) {ob : Nat → Nat}
    {s : State}, s.Taking g ob → (l.map (·.index)).Nodup → (∀ c ∈ l, c.index ∈ g.channels.map (·.index)) →
    (∀ c ∈ l, ob c.index = openBins g oa c.index) →
      ((l.map (advanceChannel g oa o)).foldl (Machine.handBins g o) s).Taking g
        fun i => if i ∈ l.map (·.index) then openBins g o i else ob i := by
  intro l
  induction l with
  | nil => intro ob s h _ _ _; simpa using h
  | cons c l ih =>
    intro ob s h hn hmem ho
    simp only [List.map_cons, List.nodup_cons] at hn
    simp only [List.map_cons, List.foldl_cons]
    have hc := h.handBins hg hle c (hmem c List.mem_cons_self) (ho c List.mem_cons_self)
    have hne : ∀ x ∈ l, x.index ≠ c.index := fun x hx he => hn.1 (he ▸ List.mem_map_of_mem hx)
    have hall := ih hc hn.2 (fun x hx => hmem x (List.mem_cons_of_mem _ hx))
      (fun x hx => by rw [Function.update_of_ne (hne x hx)]; exact ho x (List.mem_cons_of_mem _ hx))
    refine { hall with form := hall.form.congr fun x _ => ?_ }
    by_cases hx : x.index = c.index
    · simp [hx]
    · simp [hx]

end State.Taking

/-! ### Flush writes (R26) -/

namespace Tsc.Form

variable {g : Settings} {ob : Nat → Nat} {t : Tsc}

theorem slotCount_pos (h : t.Form g ob) : 0 < slotCount g.storeCode := Nat.lt_of_le_of_lt (Nat.zero_le _) h.slots.1

theorem slot_lt (h : t.Form g ob) {c : TscChan} (hc : c ∈ t.chans) {x : Nat × Nat} (hx : x ∈ c.dir) : x.2 < slotCount g.storeCode := by
  obtain ⟨p, hp, _, _⟩ := h.names c hc x hx
  exact h.slots.2 (x.2, p) (mem_of_ringAt hp)

/-- The slot at the write pointer is the oldest of its directory (R26). -/
theorem dir_of_writePtr (h : t.Form g ob) {c : TscChan} (hc : c ∈ t.chans) {n : Nat} (hn : (n, t.writePtr) ∈ c.dir) :
    ∃ rest, c.dir = (n, t.writePtr) :: rest ∧ ∀ x ∈ rest, x.2 ≠ t.writePtr := by
  have hord := h.order c hc
  obtain ⟨pre, post, hdir⟩ := List.append_of_mem hn
  have hzero : (t.writePtr + slotCount g.storeCode - t.writePtr) % slotCount g.storeCode = 0 := by simp
  rw [hdir, List.map_append, List.map_cons, List.pairwise_append, List.pairwise_cons] at hord
  obtain ⟨_, ⟨hpost, _⟩, hpre⟩ := hord
  have hnil : pre = [] := by
    rw [List.eq_nil_iff_forall_not_mem]
    intro x hx
    have := hpre _ (List.mem_map_of_mem hx) _ List.mem_cons_self
    rw [hzero] at this
    exact absurd this (Nat.not_lt_zero _)
  refine ⟨post, by rw [hdir, hnil]; rfl, fun x hx he => ?_⟩
  have := hpost _ (List.mem_map_of_mem hx)
  rw [hzero, he, hzero] at this
  exact absurd this (Nat.lt_irrefl _)

/-- A channel that gives up page `no` in slot `slot` (R26). -/
def gaveUp (slot no : Nat) (c : TscChan) : TscChan := { c with dir := c.dir.filter (fun e => e.2 != slot), horizon := 64 * (no + 1) }

/-- The slot at the write pointer gives up its page (R26). -/
theorem evictAt (h : t.Form g ob) (hg : (g.channels.map (·.index)).Pairwise (· < ·)) (ht : t.transfer = none) :
    (Machine.evictAt t.writePtr t).Form g ob ∧ ringAt (Machine.evictAt t.writePtr t).ring t.writePtr = none := by
  unfold Machine.evictAt
  cases hold : ringAt t.ring t.writePtr with
  | none => exact ⟨h, hold⟩
  | some old =>
    have hring : ∀ j p, ringAt (ringFree (fun e => e.1 == t.writePtr) t.ring) j = some p ↔ ringAt t.ring j = some p ∧ j ≠ t.writePtr :=
      fun j p => by rw [ringAt_ringFree _ _ h.ring, Option.filter_eq_some_iff]; simp
    obtain ⟨c, hc, hci, hdir⟩ := h.named _ (mem_of_ringAt hold)
    obtain ⟨rest, hrest, hne⟩ := h.dir_of_writePtr hc hdir
    have hfilter : c.dir.filter (fun e => e.2 != t.writePtr) = rest := by
      rw [hrest, List.filter_cons_of_neg (by simp), List.filter_eq_self]
      intro x hx
      simpa using hne x hx
    have hslot : ∀ y ∈ t.chans, y.index ≠ old.chan → ∀ x ∈ y.dir, x.2 ≠ t.writePtr := fun y hy hyi x hx he => by
      obtain ⟨p, hp, h1, _⟩ := h.names y hy x hx
      rw [he, hold] at hp
      cases hp
      exact hyi h1.symm
    refine ⟨?_, ?_⟩
    · refine { stores := ?_, ring := ringFree_wf _ h.ring, slots := ⟨h.slots.1, fun e he => h.slots.2 e (List.mem_of_mem_filter he)⟩,
               named := ?_, names := ?_, order := ?_, held := ?_, queued := ?_, write := ?_, buffer := ?_ }
      · exact (updateChan_index (i := old.chan) (f := gaveUp t.writePtr old.no) (fun _ h => h) t).trans h.stores
      · intro e he
        obtain ⟨he, hn⟩ := List.mem_filter.1 he
        obtain ⟨x, hx, h1, h2⟩ := h.named e he
        refine ⟨_, mem_updateChan.2 ⟨x, hx, rfl⟩, ?_, ?_⟩
        · split <;> exact h1
        · split
          · refine List.mem_filter.2 ⟨h2, ?_⟩
            simpa using hn
          · exact h2
      · intro y hy e he
        obtain ⟨x, hx, rfl⟩ := mem_updateChan.1 hy
        have hin : e ∈ x.dir ∧ e.2 ≠ t.writePtr := by
          by_cases hxi : x.index = old.chan
          · rw [if_pos hxi] at he
            obtain ⟨h1, h2⟩ := List.mem_filter.1 he
            exact ⟨h1, by simpa using h2⟩
          · rw [if_neg hxi] at he
            exact ⟨he, hslot x hx hxi e he⟩
        obtain ⟨p, hp, h1, h2⟩ := h.names x hx e hin.1
        refine ⟨p, (hring _ _).2 ⟨hp, hin.2⟩, h1.trans ?_, h2⟩
        split <;> rfl
      · intro y hy
        obtain ⟨x, hx, rfl⟩ := mem_updateChan.1 hy
        by_cases hxi : x.index = old.chan
        · rw [if_pos hxi]
          exact (h.order x hx).sublist (List.filter_sublist.map _)
        · rw [if_neg hxi]
          exact h.order x hx
      · intro y hy
        obtain ⟨x, hx, rfl⟩ := mem_updateChan.1 hy
        have hpage : ∀ (l : List (Nat × Nat)), (∀ e ∈ l, e.2 ≠ t.writePtr) → l.filterMap (fun e =>
            Tsc.pageIn { t with ring := ringFree (fun e => e.1 == t.writePtr) t.ring } e.2) = l.filterMap fun e => t.pageIn e.2 :=
          fun l hl => List.filterMap_congr fun e he => by
            simp only [Tsc.pageIn, ringAt_ringFree _ _ h.ring]
            cases ringAt t.ring e.2 <;> simp [Option.filter, hl e he]
        by_cases hxi : x.index = old.chan
        · obtain rfl : x = c := h.unique hg hx hc (hxi.trans hci.symm)
          rw [if_pos hxi]
          obtain ⟨q, hq, hh⟩ := h.pageIn_header hold
          have hno : q.no = old.no := by
            obtain ⟨_, h2, _⟩ : q.chan = old.chan ∧ q.no = old.no ∧ q.first = old.first := by simpa [Page.header] using hh
            exact h2
          have hps : t.completePages x = q :: (rest.filterMap (fun e => t.pageIn e.2) ++ t.flush.filter fun p => p.chan == x.index) := by
            simp only [Tsc.completePages, hrest, List.filterMap_cons, hq, List.cons_append]
          have hheld := h.held x hx
          rw [hps] at hheld
          have := hheld.evict (x.dir.filter fun e => e.2 != t.writePtr)
          rw [hno] at this
          refine this.contents (congrArg _ ?_) fun hi => ⟨hi, ?_⟩
          all_goals
            simp only [Tsc.completePages, hfilter]
            exact congrArg (· ++ _) (hpage rest hne)
        · rw [if_neg hxi]
          refine (h.held x hx).contents (congrArg _ ?_) fun hi => ⟨hi, ?_⟩
          all_goals
            simp only [Tsc.completePages]
            exact congrArg (· ++ _) (hpage x.dir (hslot x hx hxi))
      · intro p hp
        exact exists_updateChan (i := old.chan) (f := gaveUp t.writePtr old.no) (fun _ h => h) (h.queued p hp)
      · intro p cancelled hw
        change t.transfer = _ at hw
        rw [ht] at hw; cases hw
      · intro j q p hm hp
        exact h.buffer j q p hm ((hring j p).1 hp).1
    · change ringAt (ringFree _ t.ring) t.writePtr = none
      rw [ringAt_ringFree _ _ h.ring, hold]
      simp [Option.filter]

theorem grantWrite (h : t.Form g ob) (hg : (g.channels.map (·.index)).Pairwise (· < ·)) (ht : t.transfer = none) {p : Page}
    (hp : t.flush.head? = some p) : (Machine.grantWrite p t).Form g ob := by
  obtain ⟨hform, hfree⟩ := h.evictAt hg ht
  refine { hform with write := fun q c hw => ?_ }
  obtain ⟨rfl, rfl⟩ : p = q ∧ false = c := by simpa [Machine.grantWrite] using hw
  have hptr : (Machine.evictAt t.writePtr t).writePtr = t.writePtr := by unfold Machine.evictAt; split <;> rfl
  exact ⟨(congrArg (ringAt (Machine.evictAt t.writePtr t).ring) hptr).trans hfree,
    fun _ => (congrArg List.head? (evictAt_flush t.writePtr t)).trans hp⟩

end Tsc.Form

end Sys2Proof.Machine

/-! PROOFS. The trend store under every command. -/

namespace Sys2Proof.Machine

/-! ### The end of a flush write (R19, R26) -/

theorem slotCount_pos (code : Nat) : 0 < slotCount code := by
  unfold slotCount
  match code with
  | 0 => decide
  | 1 => decide
  | n + 2 => exact Nat.succ_pos _

/-- The way from the write pointer to a slot shortens by one as the pointer moves on. -/
theorem slot_ahead {n w x : Nat} (hw : w < n) (hx : x < n) (hne : x ≠ w) :
    (x + n - (w + 1) % n) % n + 1 = (x + n - w) % n := by
  have hmod : (w + 1) % n = if w + 1 = n then 0 else w + 1 := by
    split
    · rename_i h; rw [h, Nat.mod_self]
    · exact Nat.mod_eq_of_lt (by omega)
  rw [hmod]
  rcases Nat.lt_or_gt_of_ne hne with h | h
  · have h1 : (x + n - w) % n = x + n - w := Nat.mod_eq_of_lt (by omega)
    split
    · rw [Nat.sub_zero, Nat.add_mod_right, Nat.mod_eq_of_lt hx, h1]; omega
    · rw [Nat.mod_eq_of_lt (by omega : x + n - (w + 1) < n), h1]; omega
  · have h1 : (x + n - w) % n = x - w := by
      rw [show x + n - w = x - w + n by omega, Nat.add_mod_right, Nat.mod_eq_of_lt (by omega)]
    rw [if_neg (by omega), show x + n - (w + 1) = x - (w + 1) + n by omega, Nat.add_mod_right, Nat.mod_eq_of_lt (by omega), h1]
    omega

/-- The slot just written is the last that the write pointer comes to. -/
theorem slot_behind {n w : Nat} (hw : w < n) : (w + n - (w + 1) % n) % n = n - 1 := by
  by_cases h : w + 1 = n
  · rw [h, Nat.mod_self, Nat.sub_zero, Nat.add_mod_right, Nat.mod_eq_of_lt hw]; omega
  · rw [Nat.mod_eq_of_lt (by omega : w + 1 < n), Nat.mod_eq_of_lt (by omega)]; omega

/-- Slots in the order in which the write pointer comes to them, none of them at the pointer, stay so as it moves on. -/
theorem pairwise_ahead {n w : Nat} (hw : w < n) : ∀ {l : List (Nat × Nat)}, (∀ x ∈ l, x.2 < n ∧ x.2 ≠ w) →
    (l.map fun x => (x.2 + n - w) % n).Pairwise (· < ·) → (l.map fun x => (x.2 + n - (w + 1) % n) % n).Pairwise (· < ·) := by
  intro l hl hp
  rw [List.pairwise_map] at hp ⊢
  refine hp.imp_of_mem fun {a b} ha hb hab => ?_
  have h1 := slot_ahead hw (hl a ha).1 (hl a ha).2
  have h2 := slot_ahead hw (hl b hb).1 (hl b hb).2
  omega

/-- The channel of a page after its write into a slot (R20, R26). -/
def wrote (slot no : Nat) (c : TscChan) : TscChan := { c with dir := c.dir ++ [(no, slot)] }

namespace Tsc.Form

variable {g : Settings} {ob : Nat → Nat} {t : Tsc}

/-- The slots of the directories are live, so that none stands at a free write pointer. -/
theorem dir_ne_writePtr (h : t.Form g ob) (hfree : ringAt t.ring t.writePtr = none) {c : TscChan} (hc : c ∈ t.chans) :
    ∀ x ∈ c.dir, x.2 < slotCount g.storeCode ∧ x.2 ≠ t.writePtr := fun x hx => by
  refine ⟨h.slot_lt hc hx, fun he => ?_⟩
  obtain ⟨p, hp, _⟩ := h.names c hc x hx
  rw [he, hfree] at hp
  cases hp

theorem completeWrite (h : t.Form g ob) (hm : t.testMark = none) {p : Page}
    {cancelled : Bool} (hw : t.transfer = some (.write p cancelled)) : (Machine.completeWrite g.storeCode p cancelled t).Form g ob := by
  obtain ⟨hfree, hhead⟩ := h.write p cancelled hw
  have hptr : nextSlot g.storeCode t.writePtr < slotCount g.storeCode := Nat.mod_lt _ h.slotCount_pos
  unfold Machine.completeWrite
  cases cancelled with
  | true =>
    refine { h with slots := ⟨hptr, h.slots.2⟩, order := fun c hc => ?_, write := fun _ _ hx => (by cases hx) }
    exact pairwise_ahead h.slots.1 (h.dir_ne_writePtr hfree hc) (h.order c hc)
  | false =>
    have hring : ∀ i, ringAt (ringWrite t.writePtr p t.ring) i = if i = t.writePtr then some p else ringAt t.ring i :=
      fun i => ringAt_ringWrite _ i p h.ring
    obtain ⟨rest, hflush⟩ : ∃ rest, t.flush = p :: rest := by
      have hh := hhead rfl
      cases hf : t.flush with
      | nil => rw [hf] at hh; cases hh
      | cons q qs => rw [hf] at hh; cases hh; exact ⟨qs, rfl⟩
    obtain ⟨c, hc, hci⟩ := h.queued p (hflush ▸ List.mem_cons_self)
    have hindex : ∀ x : TscChan, x.index = p.chan → (wrote t.writePtr p.no x).index = p.chan := fun _ h => h
    refine { stores := ?_, ring := ringWrite_wf _ _ h.ring, slots := ⟨hptr, ?_⟩, named := ?_, names := ?_, order := ?_, held := ?_,
             queued := ?_, write := fun _ _ hx => (by cases hx), buffer := fun _ _ _ hx => ?_ }
    · exact (updateChan_index (f := wrote t.writePtr p.no) hindex t).trans h.stores
    · intro e he
      rcases mem_ringWrite he with rfl | he
      · exact h.slots.1
      · exact h.slots.2 e he
    · intro e he
      rcases mem_ringWrite he with rfl | he
      · refine ⟨_, mem_updateChan.2 ⟨c, hc, rfl⟩, ?_⟩
        simp [hci]
      · obtain ⟨x, hx, h1, h2⟩ := h.named e he
        refine ⟨_, mem_updateChan.2 ⟨x, hx, rfl⟩, ?_, ?_⟩
        · split <;> exact h1
        · split
          · exact List.mem_append_left _ h2
          · exact h2
    · intro y hy e he
      obtain ⟨x, hx, rfl⟩ := mem_updateChan.1 hy
      have hold : ∀ e ∈ x.dir, ∃ q, ringAt (ringWrite t.writePtr p t.ring) e.2 = some q ∧ q.chan = x.index ∧ q.no = e.1 := fun e he => by
        obtain ⟨q, hq, hn⟩ := h.names x hx e he
        exact ⟨q, by rw [hring, if_neg (h.dir_ne_writePtr hfree hx e he).2, hq], hn⟩
      by_cases hxi : x.index = p.chan
      · rw [if_pos hxi] at he ⊢
        rcases List.mem_append.1 he with he | he
        · exact hold e he
        · obtain rfl : e = (p.no, t.writePtr) := by simpa using he
          exact ⟨p, by change ringAt (ringWrite t.writePtr p t.ring) t.writePtr = some p; rw [hring, if_pos rfl], hxi.symm, rfl⟩
      · rw [if_neg hxi] at he ⊢
        exact hold e he
    · intro y hy
      obtain ⟨x, hx, rfl⟩ := mem_updateChan.1 hy
      have hlive := h.dir_ne_writePtr hfree hx
      have hahead := pairwise_ahead h.slots.1 hlive (h.order x hx)
      by_cases hxi : x.index = p.chan
      · rw [if_pos hxi]
        simp only [List.map_append, List.map_cons, List.map_nil]
        refine List.pairwise_append.2 ⟨hahead, List.pairwise_singleton _ _, ?_⟩
        intro a ha b hb
        obtain ⟨e, he, rfl⟩ := List.mem_map.1 ha
        rw [List.mem_singleton.1 hb]
        have h1 := slot_ahead h.slots.1 (hlive e he).1 (hlive e he).2
        have h2 := slot_behind h.slots.1
        have h3 : (e.2 + slotCount g.storeCode - t.writePtr) % slotCount g.storeCode < slotCount g.storeCode :=
          Nat.mod_lt _ h.slotCount_pos
        change (e.2 + slotCount g.storeCode - (t.writePtr + 1) % slotCount g.storeCode) % slotCount g.storeCode <
          (t.writePtr + slotCount g.storeCode - (t.writePtr + 1) % slotCount g.storeCode) % slotCount g.storeCode
        omega
      · rw [if_neg hxi]
        exact hahead
    · intro y hy
      obtain ⟨x, hx, rfl⟩ := mem_updateChan.1 hy
      have hpage : ∀ e ∈ x.dir, (ringAt (ringWrite t.writePtr p t.ring) e.2) = ringAt t.ring e.2 := fun e he => by
        rw [hring, if_neg (h.dir_ne_writePtr hfree hx e he).2]
      have hdir : x.dir.filterMap (fun e => (ringAt (ringWrite t.writePtr p t.ring) e.2).map fun q => q) =
          x.dir.filterMap fun e => (ringAt t.ring e.2).map fun q => q :=
        List.filterMap_congr fun e he => by rw [hpage e he]
      have hps : Tsc.completePages (Tsc.updateChan p.chan (wrote t.writePtr p.no)
            { t with transfer := none, writePtr := nextSlot g.storeCode t.writePtr, ring := ringWrite t.writePtr p t.ring, flush := t.flush.tail })
          (if x.index = p.chan then wrote t.writePtr p.no x else x) = t.completePages x := by
        simp only [Tsc.completePages, Tsc.pageIn, Tsc.updateChan, hm, hflush, List.tail_cons]
        by_cases hxi : x.index = p.chan
        · rw [if_pos hxi]
          simp only [wrote, List.filterMap_append, List.filterMap_cons, List.filterMap_nil, hring, if_true, Option.map_some]
          rw [← hdir]
          simp [hring, hxi]
        · rw [if_neg hxi, hdir]
          simp [Ne.symm hxi]
      have hx' : (if x.index = p.chan then wrote t.writePtr p.no x else x).index = x.index := by split <;> rfl
      have hheld : TscChan.Holds (if x.index = p.chan then wrote t.writePtr p.no x else x) (t.completePages x) t.intact (ob x.index) := by
        split
        · exact (h.held x hx).withDir _
        · exact h.held x hx
      exact Eq.mpr (congrArg₂ (fun ps i => TscChan.Holds _ ps t.intact (ob i)) hps hx') hheld
    · intro q hq
      exact exists_updateChan (f := wrote t.writePtr p.no) hindex (h.queued q (List.mem_of_mem_tail hq))
    · change t.testMark = _ at hx
      rw [hm] at hx; cases hx

end Tsc.Form

end Sys2Proof.Machine

/-! PROOFS. `StepKeepsTables`: the trend store under every command. -/

namespace Sys2Proof.Machine

/-! ### The store under what does not move it -/

theorem openBins_congr {g g' : Settings} (h : g'.channels = g.channels) (o : Nat) : openBins g' o = openBins g o := by
  funext i
  unfold openBins Settings.channel
  rw [h]

theorem Tsc.Form.settings {g g' : Settings} {ob : Nat → Nat} {t : Tsc} (h : t.Form g ob) (hc : g'.channels = g.channels)
    (hs : g'.storeCode = g.storeCode) : t.Form g' ob :=
  { h with stores := hc ▸ h.stores, slots := hs ▸ h.slots, order := hs ▸ h.order }

namespace State.StoreSound

variable {s t : State}

theorem form (h : s.StoreSound) : s.tsc.Form s.settings (openBins s.settings s.smp.odometer) := (s.storeSound_iff.1 h).2.1

/-- The channel table, the odometer and the channels stand; TSC keeps its form. -/
theorem of_form (h : s.StoreSound) (hc : t.settings.channels = s.settings.channels)
    (ho : t.smp.odometer = s.smp.odometer) (hi : t.smp.chans.map (·.index) = s.smp.chans.map (·.index))
    (hf : t.tsc.Form t.settings (openBins s.settings s.smp.odometer))
    (htested : t.sup.part = .checking ∨ t.sup.part = .run → t.tsc.testMark = none)
    (hintact : t.sup.part = .checking ∨ t.running = true → t.tsc.intact = true)
    (hdegraded : t.sup.part = .runDegraded → t.tsc.ring = [] ∧ t.tsc.flush = [] ∧ t.tsc.transfer = none) : t.StoreSound := by
  refine t.storeSound_iff.2 ⟨⟨hc ▸ h.table, hc ▸ hi.trans h.samplers⟩, ?_, htested, hintact, hdegraded⟩
  rw [openBins_congr hc, ho]
  exact hf

/-- TSC and the part state stand. -/
theorem same (h : s.StoreSound) (hg : t.settings = s.settings) (ho : t.smp.odometer = s.smp.odometer)
    (hi : t.smp.chans.map (·.index) = s.smp.chans.map (·.index)) (ht : t.tsc = s.tsc) (hp : t.sup.part = s.sup.part) : t.StoreSound := by
  have hr : t.running = s.running := by unfold State.running; rw [hp]
  exact h.of_form (by rw [hg]) ho hi (by rw [hg, ht]; exact h.form) (by rw [hp, ht]; exact h.tested)
    (by rw [hp, hr, ht]; exact h.intact) (by rw [hp, ht]; exact h.degraded)

/-- The part is in no state in which the store works. -/
theorem idle (h : s.StoreSound) (hc : t.settings.channels = s.settings.channels) (ho : t.smp.odometer = s.smp.odometer)
    (hi : t.smp.chans.map (·.index) = s.smp.chans.map (·.index))
    (hf : t.tsc.Form t.settings (openBins s.settings s.smp.odometer)) (hp : t.sup.part ≠ .checking)
    (hr : t.running = false) : t.StoreSound := by
  refine h.of_form hc ho hi hf (fun hx => ?_) (fun hx => ?_) (fun hx => ?_)
  · rcases hx with hx | hx
    · exact absurd hx hp
    · simp [State.running, hx, PartState.running] at hr
  · rcases hx with hx | hx
    · exact absurd hx hp
    · rw [hx] at hr; cases hr
  · simp [State.running, hx, PartState.running] at hr

end State.StoreSound

theorem storeSound_aside : Aside State.StoreSound := by
  refine aside_of_store (fun s t hs h => h.same hs.settings (by rw [hs.smp]) (by rw [hs.smp]) hs.tsc hs.part) ?_ ?_
  · intro s m r _ hr hd h
    refine h.of_form rfl rfl rfl (h.form.withTransfer m r s.tsc.storeFault hr) h.tested h.intact (fun hp => ?_)
    obtain ⟨h1, h2, h3⟩ := h.degraded hp
    exact ⟨h1, h2, (hd hp).elim id fun hx => hx.trans h3⟩
  · intro s p hr hp ht h
    have hmarks : (grantWrite p s.tsc).intact = s.tsc.intact ∧ (grantWrite p s.tsc).testMark = s.tsc.testMark := by
      unfold grantWrite evictAt
      split <;> exact ⟨rfl, rfl⟩
    refine h.of_form rfl rfl rfl (h.form.grantWrite h.table ht hp) (fun hx => hmarks.2.trans (h.tested hx))
      (fun hx => hmarks.1.trans (h.intact hx)) (fun hx => ?_)
    change s.sup.part = _ at hx
    rw [hr] at hx; cases hx

/-! ### A forward pulse (R14, R18, R32) -/

theorem channel_eq {g : Settings} (hg : (g.channels.map (·.index)).Pairwise (· < ·)) {d : ChannelDef} (hd : d ∈ g.channels) :
    g.channel d.index = some d := by
  obtain ⟨e, he, hi⟩ := channel_isSome (List.mem_map_of_mem hd : d.index ∈ g.channels.map (·.index))
  rw [he, List.inj_on_of_nodup_map (hg.imp Nat.ne_of_lt) (List.mem_of_find?_eq_some he) hd hi]

/-- The channels of a store whose horizons follow the open bins (R32). -/
theorem atOpenBins_eq {g : Settings} (hg : (g.channels.map (·.index)).Pairwise (· < ·)) (o : Nat) {l : List TscChan}
    (hl : l.map (·.index) = g.channels.map (·.index)) :
    l.map (TscChan.atOpenBin g o) = g.channels.map fun d => TscChan.fresh d.index (d.openBin o) := by
  have hleft : l.map (TscChan.atOpenBin g o) = (l.map (·.index)).map fun i => TscChan.fresh i (openBins g o i) := by
    rw [List.map_map]
    refine List.map_congr_left fun c hc => ?_
    obtain ⟨d, hd, _⟩ := channel_isSome (hl ▸ List.mem_map_of_mem hc : c.index ∈ _)
    simp only [TscChan.atOpenBin, hd, Function.comp, openBins_eq hd]
    rfl
  rw [hleft, hl, List.map_map]
  refine List.map_congr_left fun d hd => ?_
  simp only [Function.comp, openBins_eq (channel_eq hg hd)]
  rfl

theorem handBins_degraded (g : Settings) (o : Nat) {s : State} (h : s.sup.part = .runDegraded) (x : SmpChan × List (Nat × Bin)) :
    handBins g o s x = s := by
  unfold handBins
  split
  · rfl
  · induction x.2 with
    | nil => rfl
    | cons kb l ih =>
      have hk : ∀ i ob, takeBin i ob kb.1 kb.2 s = s := fun i ob => by simp [takeBin, h]
      rw [List.foldl_cons, hk]
      exact ih

theorem wholeAdvance_storeSound {s : State} {oa ob : Nat} (hr : s.sup.part = .run ∨ s.sup.part = .runDegraded) (hle : oa ≤ ob)
    (ho : s.smp.odometer = ob) (h : State.StoreSound { s with smp := { s.smp with odometer := oa } }) : (wholeAdvance oa ob s).StoreSound := by
  subst ho
  have hindex : (s.smp.advanced s.settings oa s.smp.odometer).chans.map (·.index) = s.smp.chans.map (·.index) := by
    simp only [Smp.advanced, List.map_map]
    exact List.map_congr_left fun c _ => (advanceChannel_acc s.settings oa s.smp.odometer c).1
  have hsamplers : s.smp.chans.map (·.index) = s.settings.channels.map (·.index) := h.samplers
  obtain ⟨tsc, f, n, hmoves⟩ := wholeAdvance_storeMoves oa s.smp.odometer s
  have htsc : (wholeAdvance oa s.smp.odometer s).tsc = tsc := by rw [hmoves]
  have hsmp : (s.smp.chans.map (advanceChannel s.settings oa s.smp.odometer)).map (·.1) =
      (s.smp.advanced s.settings oa s.smp.odometer).chans := by rw [List.map_map]; rfl
  rcases hr with hr | hr
  · have htaking : State.Taking s.settings (openBins s.settings oa)
        { s with smp := { s.smp with sampler := .moving, timer := 0,
                                     chans := (s.smp.chans.map (advanceChannel s.settings oa s.smp.odometer)).map (·.1) } } :=
      ⟨hr, h.intact (.inr (by simp [State.running, hr, PartState.running])), h.tested (.inr hr), h.form⟩
    have hall := htaking.handAll h.table hle s.smp.chans (hsamplers ▸ h.table.imp Nat.ne_of_lt)
      (fun c hc => hsamplers ▸ List.mem_map_of_mem hc) (fun _ _ => rfl)
    have hdone : State.Taking s.settings (openBins s.settings s.smp.odometer) (wholeAdvance oa s.smp.odometer s) := by
      have hfollow : ∀ u : State, u.sup.part = .run → followOpenBins u = u := fun u hu => by simp [followOpenBins, hu]
      have hadv := hfollow _ hall.run
      unfold wholeAdvance
      simp only
      rw [hadv]
      refine { hall with form := hall.form.congr fun c hc => ?_ }
      have hin : c.index ∈ s.smp.chans.map (·.index) := hsamplers ▸ hall.form.stores ▸ List.mem_map_of_mem hc
      rw [if_pos hin]
    rw [hmoves] at hdone ⊢
    refine State.storeSound_iff _ |>.2 ⟨⟨h.table, hindex.trans hsamplers⟩, ?_, fun _ => hdone.mark, fun _ => hdone.intact, fun hx => ?_⟩
    · exact hdone.form
    · change s.sup.part = _ at hx
      rw [hr] at hx; cases hx
  · obtain ⟨h1, h2, h3⟩ := h.degraded hr
    have hadv : wholeAdvance oa s.smp.odometer s = { s with
        smp := s.smp.advanced s.settings oa s.smp.odometer
        tsc := { s.tsc with chans := s.tsc.chans.map (TscChan.atOpenBin s.settings s.smp.odometer) } } := by
      have hfold : ∀ (l : List (SmpChan × List (Nat × Bin))) (u : State), u.sup.part = .runDegraded →
          l.foldl (handBins s.settings s.smp.odometer) u = u := fun l u hu => by
        induction l with
        | nil => rfl
        | cons x l ih => rw [List.foldl_cons, handBins_degraded _ _ hu, ih]
      unfold wholeAdvance
      simp only
      rw [hfold, hsmp]
      · simp only [followOpenBins, hr, if_true]
        rfl
      · exact hr
    rw [hadv]
    refine State.storeSound_iff _ |>.2 ⟨⟨h.table, hindex.trans hsamplers⟩, ?_, fun hx => ?_, fun _ => ?_, fun _ => ⟨h1, h2, h3⟩⟩
    · exact Tsc.Form.emptied s.settings s.smp.odometer _ h1 h.slots.1 (atOpenBins_eq h.table s.smp.odometer h.stores) h2 h3 h.table
    · rcases hx with hx | hx <;> (change s.sup.part = _ at hx; rw [hr] at hx; cases hx)
    · exact h.intact (.inr (by simp [State.running, hr, PartState.running]))

theorem forwardPulse_storeSound {s : State} (hr : s.running = true) (hb : s.smp.odometer ≤ Config.max48) (h : s.StoreSound) :
    (forwardPulse s).StoreSound := by
  have hpart : s.sup.part = .run ∨ s.sup.part = .runDegraded := by
    unfold State.running PartState.running at hr
    cases hp : s.sup.part <;> simp [hp] at hr ⊢
  unfold forwardPulse
  simp only
  split
  · exact h.same rfl rfl rfl rfl rfl
  · have hge : s.smp.odometer ≤ min (s.smp.odometer + (s.smp.fraction + (s.settings.pulseWeight - s.smp.debt)) / 256) Config.max48 :=
      le_min (Nat.le_add_right _ _) hb
    split
    · refine wholeAdvance_storeSound hpart hge rfl ?_
      exact h.same rfl rfl rfl rfl rfl
    · rename_i hlt
      exact h.same rfl (le_antisymm (Nat.not_lt.1 hlt) hge) rfl rfl rfl

end Sys2Proof.Machine

/-! PROOFS. `StepKeepsTables`: starts, the supply, and the statement. -/

namespace Sys2Proof.Machine

/-! ### Starts -/

/-- The channels of an image stand in ascending index (R180). -/
theorem imageSettings_ascending (image : List (BitVec 16)) :
    ((imageSettings image).channels.map (·.index)).Pairwise (· < ·) := by
  have hall : ∀ n : Nat, (((List.range n).foldl (takeChannel image) ([], 0)).1.map (·.index)).Pairwise (· < ·) ∧
      ∀ d ∈ ((List.range n).foldl (takeChannel image) ([], 0)).1, d.index < n := by
    intro n
    induction n with
    | zero => exact ⟨.nil, fun d hd => by cases hd⟩
    | succ n ih =>
      rw [List.range_succ, List.foldl_append]
      generalize (List.range n).foldl (takeChannel image) ([], 0) = t at ih
      obtain ⟨hp, hlt⟩ := ih
      have hmore : ∀ d ∈ t.1, d.index < n + 1 := fun d hd => Nat.lt_succ_of_lt (hlt d hd)
      simp only [List.foldl_cons, List.foldl_nil, takeChannel]
      split
      · exact ⟨hp, hmore⟩
      · split
        · exact ⟨hp, hmore⟩
        · constructor
          · rw [List.map_append]
            refine List.pairwise_append.2 ⟨hp, List.pairwise_singleton _ _, fun a ha b hb => ?_⟩
            obtain ⟨d, hd, rfl⟩ := List.mem_map.1 ha
            obtain rfl : b = n := by simpa using hb
            exact hlt d hd
          · intro d hd
            rcases List.mem_append.1 hd with hd | hd
            · exact hmore d hd
            · obtain rfl := List.mem_singleton.1 hd
              exact Nat.lt_succ_self n
  exact (hall 32).1

/-- A warm start is one with the kept checksum. -/
theorem kept_of_warm {image : List (BitVec 16)} {u : Sup} (h : startIsCold image u.trusted = false) :
    u.retention = true ∧ u.checksum = imageChecksum image := by
  unfold Sup.trusted at h
  cases hr : u.retention with
  | true =>
    rw [hr] at h
    simp only [startIsCold, if_true, hr] at h
    exact ⟨rfl, by simpa using h⟩
  | false =>
    rw [hr] at h
    simp [startIsCold, Sup.clearFaults, hr] at h

theorem startBlocks_storeSound {image : List (BitVec 16)} {s : State} (h : s.StoreSound)
    (hkept : s.sup.retention = true → s.sup.checksum = imageChecksum image →
      (imageSettings image).channels = s.settings.channels ∧ (imageSettings image).storeCode = s.settings.storeCode) :
    (startBlocks (startIsCold image s.sup.trusted) image { s with sup := s.sup.trusted }).StoreSound := by
  have hasc := imageSettings_ascending image
  have hfresh : ((imageSettings image).channels.map fun d => SmpChan.fresh d.index).map (·.index) =
      (imageSettings image).channels.map (·.index) := by rw [List.map_map]; rfl
  have hempty : ∀ (o : Nat) (t : Tsc), Tsc.Form (imageSettings image) (openBins (imageSettings image) o)
      { t.emptied (imageSettings image) o with mark := .localEval, storeFault := false, intact := true, testMark := none } := fun o t =>
    Tsc.Form.emptied _ o _ rfl (slotCount_pos _) rfl rfl rfl hasc
  refine State.storeSound_iff _ |>.2 ⟨⟨hasc, hfresh⟩, ?_, fun _ => ?_, fun _ => rfl, fun hx => by cases hx⟩
  · change (Tsc.start _ _ _ s.tsc).Form _ (openBins (imageSettings image) (s.smp.start _ (imageSettings image)).odometer)
    rcases Tsc.start_cases (startIsCold image s.sup.trusted) (imageSettings image)
      (s.smp.start (startIsCold image s.sup.trusted) (imageSettings image)).odometer s.tsc with ⟨hwarm, hint, hk⟩ | hk <;> rw [hk]
    · obtain ⟨hr, hc⟩ := kept_of_warm hwarm
      obtain ⟨hchannels, hcode⟩ := hkept hr hc
      rw [hwarm, openBins_congr hchannels]
      have := h.form.restored.settings hchannels hcode
      rw [hint] at this
      exact this
    · exact hempty _ _
  · change (Tsc.start _ _ _ s.tsc).testMark = none
    rcases Tsc.start_cases (startIsCold image s.sup.trusted) (imageSettings image)
      (s.smp.start (startIsCold image s.sup.trusted) (imageSettings image)).odometer s.tsc with ⟨_, _, hk⟩ | hk <;> rw [hk]

theorem loadImage_storeSound {image : List (BitVec 16)} {s : State} (h : s.StoreSound)
    (hkept : s.sup.retention = true → s.sup.checksum = imageChecksum image →
      (imageSettings image).channels = s.settings.channels ∧ (imageSettings image).storeCode = s.settings.storeCode) :
    (loadImage image s).StoreSound := by
  unfold loadImage
  simp only
  split
  · exact h.idle rfl rfl rfl h.form (by simp) rfl
  · obtain ⟨f, n, hf⟩ := configFaults_eq (imageFaults image)
      (startBlocks (startIsCold image s.sup.trusted) image { s with sup := s.sup.trusted })
    rw [hf]
    exact (startBlocks_storeSound h hkept).same rfl rfl rfl rfl rfl

/-- The self-test ends with a sound store, which is empty where it failed (R30, R32). -/
theorem endSelfTest_storeSound {s : State} (reads : List TestRead) (hp : s.sup.part = .checking) (h : s.StoreSound) :
    (endSelfTest reads s).StoreSound := by
  have hint := h.intact (.inl hp)
  have henter : ∀ (p : PartState) (u : State), State.StoreSound { u with sup := { u.sup with part := p } } → (enterRun p u).StoreSound :=
    fun p u hu => by
      obtain ⟨h1, h2, h3, h4⟩ := State.SameStore.join { u with sup := { u.sup with part := p } }
        (ownPresence u false u.sup.coldStart) .rosStart { u.bus with rx := .hunt }
      exact hu.same h1 (congrArg Smp.odometer h2) (congrArg (fun m => (Smp.chans m).map (·.index)) h2) h3 h4
  unfold endSelfTest
  split
  · exact henter _ _ (h.of_form rfl rfl rfl { h.form with } (fun _ => h.tested (.inl hp)) (fun _ => hint) (fun hx => by cases hx))
  · refine henter _ _ (h.of_form rfl rfl rfl ?_ (fun hx => ?_) (fun _ => hint) (fun _ => ⟨rfl, rfl, rfl⟩))
    · exact Tsc.Form.emptied _ _ _ rfl h.form.slots.1 rfl rfl rfl h.table
    · rcases hx with hx | hx <;> cases hx

/-! ### The reset input and the supply -/

theorem leaveRunning_form {s : State} (h : s.StoreSound) :
    (leaveRunning s).tsc.Form s.settings (openBins s.settings s.smp.odometer) :=
  h.form.withTransfer s.tsc.mark none s.tsc.storeFault (fun _ _ hx => by cases hx)

theorem holdReset_storeSound {s : State} (testing : Option (BitVec 20)) (h : s.StoreSound) : (holdReset testing s).StoreSound := by
  unfold holdReset
  simp only
  split
  · exact h.same rfl rfl rfl rfl rfl
  · rcases interruptTest_cases testing { s with sup := { s.sup with resetPin := true } } with ht | ⟨x, hx, ht⟩ <;> rw [ht]
    · have hleft := leaveRunning_form h
      exact h.idle rfl rfl rfl hleft (by simp) rfl
    · have hslot : s.sup.part = .checking ∧ ringAt s.tsc.ring x.1 = some x.2 := by
        unfold slotUnderTest at hx
        split at hx
        · cases hx
        · split at hx
          · rename_i hc
            obtain ⟨p, hp, rfl⟩ := Option.map_eq_some_iff.1 hx
            exact ⟨hc.1, hp⟩
          · cases hx
      exact h.idle rfl rfl rfl (h.form.interrupted hslot.2 (h.tested (.inl hslot.1))) (by simp) rfl

theorem tickAll_storeSound {s : State} (h : s.StoreSound) : (tickAll s).StoreSound := by
  have ho : (s.smp.tick s.settings.standstillTime).odometer = s.smp.odometer := by
    unfold Smp.tick
    split
    · simp only
      split <;> rfl
    · rfl
  have hi : (s.smp.tick s.settings.standstillTime).chans.map (·.index) = s.smp.chans.map (·.index) := by
    rcases s.smp.tick_chans s.settings.standstillTime with hm | hm <;> rw [hm]
    rw [List.map_map]
    rfl
  exact h.same rfl ho hi rfl rfl

theorem takeSample_index (l : List SmpChan) (e : SampleEntry) : (takeSample l e).map (·.index) = l.map (·.index) := by
  unfold takeSample
  split
  · rfl
  · rw [List.map_map]
    refine List.map_congr_left fun c _ => ?_
    simp only [Function.comp]
    split <;> rfl

theorem takeSamples_index (es : List SampleEntry) (m : Smp) :
    (m.takeSamples es).odometer = m.odometer ∧ (m.takeSamples es).chans.map (·.index) = m.chans.map (·.index) := by
  unfold Smp.takeSamples
  split
  · exact ⟨rfl, rfl⟩
  · refine ⟨rfl, ?_⟩
    have hfold : ∀ (es : List SampleEntry) (l : List SmpChan), (es.foldl takeSample l).map (·.index) = l.map (·.index) := fun es => by
      induction es with
      | nil => exact fun _ => rfl
      | cons e es ih => exact fun l => (ih _).trans (takeSample_index l e)
    exact hfold es m.chans

/-! ### The third part of `StepKeepsTables` -/

theorem inner_storeSound {c : Instr} {s u : State} (hu : Aside.Inner c s u) (hb : s.Bounded)
    (hkept : ∀ image, c = .configLoad image → s.sup.retention = true → s.sup.checksum = imageChecksum image →
      (imageSettings image).channels = s.settings.channels ∧ (imageSettings image).storeCode = s.settings.storeCode)
    (h : s.StoreSound) : u.StoreSound := by
  have ht := storeSound_aside.tracks (fun _ _ h => h.same rfl rfl rfl rfl rfl) (fun _ h => h.same rfl rfl rfl rfl rfl)
  cases hu with
  | forward hr => exact forwardPulse_storeSound (State.running_of_receives hr) hb.odometer h
  | reverse => exact h.same rfl rfl rfl rfl rfl
  | standstill => exact h.same rfl rfl (by simp [Smp.reachStandstill, Smp.enterStandstill, SmpChan.stopped, Function.comp_def]) rfl rfl
  | lfTaken r _ =>
    exact ht.takeLf (fun _ _ h => h.same rfl rfl rfl rfl rfl) r
      (fun es _ => h.same rfl (takeSamples_index es s.smp).1 (takeSamples_index es s.smp).2 rfl rfl) h
  | expiry coil => exact ht.ctr _ _ (ht.finalizeCoil true coil h)
  | flushed page cancelled hr htr =>
    have hrun : s.sup.part = .run := by
      have hd := h.degraded
      unfold State.running PartState.running at hr
      cases hp : s.sup.part <;> simp [hp, htr] at hr hd ⊢
    have hmarks : (completeWrite s.settings.storeCode page cancelled s.tsc).intact = s.tsc.intact ∧
        (completeWrite s.settings.storeCode page cancelled s.tsc).testMark = s.tsc.testMark := by
      unfold completeWrite
      cases cancelled <;> exact ⟨rfl, rfl⟩
    refine h.of_form rfl rfl rfl (h.form.completeWrite (h.tested (.inr hrun)) htr) (fun hx => hmarks.2.trans (h.tested hx))
      (fun hx => hmarks.1.trans (h.intact hx)) (fun hx => ?_)
    change s.sup.part = _ at hx
    rw [hrun] at hx; cases hx
  | settled _ => exact h.idle rfl rfl rfl (h.form.settings rfl rfl) (by simp [enterLoading]) rfl
  | loaded image hc _ => exact loadImage_storeSound h (hkept image hc)
  | tested reads hp => exact endSelfTest_storeSound reads hp h
  | resetHeld testing => exact holdReset_storeSound testing h
  | resetReleased =>
    unfold releaseReset
    simp only
    split
    · exact h.same rfl rfl rfl rfl rfl
    · have hleft := leaveRunning_form h
      exact h.idle rfl rfl rfl hleft (by simp) rfl
  | supplyLost =>
    have hleft := (leaveRunning_form h).unrefreshed rfl
    exact h.idle rfl rfl rfl hleft (by simp [enterSupplyLow]) rfl
  | retentionLost _ =>
    refine State.storeSound_iff _ |>.2 ⟨⟨.nil, rfl⟩, Tsc.Form.emptied _ _ _ rfl (slotCount_pos _) rfl rfl rfl .nil,
      fun _ => rfl, fun hx => ?_, fun hx => by cases hx⟩
    rcases hx with hx | hx <;> cases hx
  | recovered _ => exact h.idle rfl rfl rfl h.form (by simp [recoverSupply]) rfl
  | tick _ => exact tickAll_storeSound h

theorem step_storeSound {s t : State} (hb : s.Bounded) (h : s.StoreSound)
    (hkept : ∀ image rest, s.pending = .configLoad image :: rest → s.sup.retention = true → s.sup.checksum = imageChecksum image →
      (imageSettings image).channels = s.settings.channels ∧ (imageSettings image).storeCode = s.settings.storeCode)
    (ht : step s = .next t) : t.StoreSound := by
  unfold step at ht
  split at ht
  · cases ht; exact h
  · rename_i c rest hq
    have hrest : State.StoreSound { s with pending := rest } := h.same rfl rfl rfl rfl rfl
    rcases exec_endsIn ht with rfl | ⟨u, hu, rfl⟩
    · exact hrest
    · refine GoesOn.induct (fun {s t} ht hs => storeSound_aside.micro ht hs) (settle_goesOn u) ?_
      refine (storeSound_aside.effect hu hrest).elim id fun hi => inner_storeSound hi { hb with } (fun image hc => ?_) hrest
      exact hkept image rest (hc ▸ hq)

/-- Settles O58: each own effect and each micro step keeps each of the forms; the store's form needs the image of a warm start to be
that of the start before. -/
theorem stepKeepsTables : Obligations.StepKeepsTables :=
  ⟨fun _ _ hc hl hr hb ht => ⟨step_ctrSound hc ht, step_cacheSound hl ht, step_ring hr ht, step_binsSound hb ht⟩,
    fun _ _ hb hp ho ht => step_inOrder hb ⟨hp, ho⟩ ht,
    fun _ _ hb hs hkept ht => step_storeSound hb hs hkept ht⟩

end Sys2Proof.Machine

/-! PROOFS. Strip length and sampling (chapter 1): pulses, standstill, samples and closing bins. -/

namespace Sys2Proof.Machine

/-! ### From a row's own effect to its outcome -/

/-- A row of the plant, the line feed link or the line, whose own effect is `u`. -/
theorem receiving_of_eq {s u v : State} (h : s.receives = true) (hv : v = u) : ∃ t, whenReceiving s v = .next t ∧ Carried u t :=
  hv ▸ whenReceiving_carried h v

/-- A row whose event stands and whose own effect is `u`. -/
theorem commit_of_eq {s u : State} {o : Option State} (ho : o = some u) : ∃ t, commit s o = .next t ∧ Carried u t :=
  ho ▸ commit_carried s u

/-! ### Encoder pulses (R1 to R3) -/

theorem forwardPulse_of_debt {s : State} (h : s.settings.pulseWeight ≤ s.smp.debt) :
    forwardPulse s = { s with smp := { s.smp with debt := s.smp.debt - s.settings.pulseWeight } } := if_pos h

/-- A pulse that the debt does not hold back, with the carry and the fraction it leaves. -/
theorem forwardPulse_of_carry {s : State} {carry frac : Nat} (h : s.smp.debt < s.settings.pulseWeight) (hfrac : frac < 256)
    (hsum : s.smp.fraction + (s.settings.pulseWeight - s.smp.debt) = carry * 256 + frac) :
    forwardPulse s =
      let ob := min (s.smp.odometer + carry) Config.max48
      let moved := { s with smp := { s.smp with
        odometer := ob, fraction := if Config.max48 < s.smp.odometer + carry then 255 else frac, debt := 0 } }
      if s.smp.odometer < ob then wholeAdvance s.smp.odometer ob moved else moved := by
  have hdiv : (carry * 256 + frac) / 256 = carry := by omega
  have hmod : (carry * 256 + frac) % 256 = frac := by omega
  simp only [forwardPulse, if_neg (Nat.not_le.2 h), hsum, hdiv, hmod]

/-- Settles O3: a pulse held back by the debt, one without a carry, and one whose carry is lost at the top. -/
theorem forwardPulseWithoutAdvance : Obligations.ForwardPulseWithoutAdvance := by
  refine fun s hr => ⟨fun hdebt => ?_, fun hdebt hsmall htop => ?_, fun hdebt hlarge htop => ?_⟩
  · exact receiving_of_eq hr (forwardPulse_of_debt hdebt)
  · refine receiving_of_eq hr ?_
    rw [forwardPulse_of_carry (carry := 0) hdebt hsmall (by omega)]
    have hmin : min (s.smp.odometer + 0) Config.max48 = s.smp.odometer := by unfold Config.max48; omega
    have hle : ¬ Config.max48 < s.smp.odometer + 0 := by unfold Config.max48; omega
    simp only [hmin, if_neg hle, if_neg (Nat.lt_irrefl _)]
  · refine receiving_of_eq hr ?_
    rw [forwardPulse_of_carry (carry := (s.smp.fraction + (s.settings.pulseWeight - s.smp.debt)) / 256)
      (frac := (s.smp.fraction + (s.settings.pulseWeight - s.smp.debt)) % 256) hdebt (Nat.mod_lt _ (by decide)) (by omega)]
    generalize hc : (s.smp.fraction + (s.settings.pulseWeight - s.smp.debt)) / 256 = carry
    have hpos : 0 < carry := by omega
    have hmin : min (s.smp.odometer + carry) Config.max48 = s.smp.odometer := by unfold Config.max48; omega
    have hlt : Config.max48 < s.smp.odometer + carry := by unfold Config.max48; omega
    simp only [hmin, if_pos hlt, if_neg (Nat.lt_irrefl _)]

/-! ### A whole-mm advance (R5, R6, R14, R18) -/

theorem Acc.close_snd (last : Option Int) (a : Acc) :
    (a.close last).2 = if 0 < a.count then some (roundDiv a.sum a.count) else last := by
  unfold Acc.close
  split <;> rfl

/-- What an advance leaves of one channel of the sampler (R14). -/
theorem advanceChannel_fst (g : Settings) (oa ob : Nat) (c : SmpChan) : (advanceChannel g oa ob c).1 =
    match g.channel c.index with
    | none => c
    | some d =>
      if oa / d.step < ob / d.step then
        { c with acc := ⟨0, 0, none, false, false⟩,
                 lastMean := if 0 < c.acc.count then some (roundDiv c.acc.sum c.acc.count) else c.lastMean }
      else c := by
  unfold advanceChannel
  cases g.channel c.index with
  | none => rfl
  | some d =>
    by_cases h : oa / d.step < ob / d.step
    · have hk : d.openBin oa < d.openBin ob := h
      simp only [closeChannel, if_pos hk, if_pos h, Acc.close_snd]
      rfl
    · have hk : ¬ d.openBin oa < d.openBin ob := h
      simp only [closeChannel, if_neg hk, if_neg h]

/-- The closed bins of one channel in the order in which TSC takes them: channel, its open bin after, index and bin (R18). -/
def closedBinsOf (g : Settings) (oa ob : Nat) (c : SmpChan) : List (Nat × Nat × Nat × Bin) :=
  match g.channel c.index with
  | none => []
  | some d => (closeChannel d oa ob c).2.map fun x => (c.index, ob / d.step, x.1, x.2)

/-- The closed bins of all channels (R18). -/
def closedBins (g : Settings) (oa ob : Nat) (l : List SmpChan) : List (Nat × Nat × Nat × Bin) := l.flatMap (closedBinsOf g oa ob)

/-- The store takes the closed bins one by one. -/
theorem handBins_closed (g : Settings) (oa ob : Nat) (l : List SmpChan) (s : State) :
    (l.map (advanceChannel g oa ob)).foldl (handBins g ob) s =
      (closedBins g oa ob l).foldl (fun v x => takeBin x.1 x.2.1 x.2.2.1 x.2.2.2 v) s := by
  unfold closedBins
  rw [List.foldl_map, List.foldl_flatMap]
  refine congrArg (fun f => List.foldl f s l) ?_
  funext v c
  unfold handBins closedBinsOf
  rw [(advanceChannel_acc g oa ob c).1]
  cases hd : g.channel c.index with
  | none => rfl
  | some d =>
    have ha : advanceChannel g oa ob c = closeChannel d oa ob c := by simp [advanceChannel, hd]
    simp only [ha, List.foldl_map]
    rfl

theorem closedBins_ascending (g : Settings) (oa ob : Nat) {l : List SmpChan} (h : (l.map (·.index)).Pairwise (· < ·)) :
    (closedBins g oa ob l).Pairwise fun x y => x.1 < y.1 ∨ x.1 = y.1 ∧ x.2.2.1 < y.2.2.1 := by
  have hchan : ∀ c : SmpChan, ∀ x ∈ closedBinsOf g oa ob c, x.1 = c.index := fun c x hx => by
    unfold closedBinsOf at hx
    split at hx
    · cases hx
    · obtain ⟨y, _, rfl⟩ := List.mem_map.1 hx
      rfl
  unfold closedBins
  rw [List.pairwise_flatMap]
  refine ⟨fun c _ => ?_, ?_⟩
  · unfold closedBinsOf
    split
    · exact .nil
    · rename_i d _
      rw [List.pairwise_map]
      have hind := closeChannel_indices d oa ob c
      have hlt : ((closeChannel d oa ob c).2.map Prod.fst).Pairwise (· < ·) := hind ▸ List.pairwise_lt_range'
      exact (List.pairwise_map.1 hlt).imp fun h => .inr ⟨rfl, h⟩
  · refine (List.pairwise_map.1 h).imp fun {a b} hab x hx y hy => .inl ?_
    rw [hchan a x hx, hchan b y hy]
    exact hab

theorem closedBins_nil {g : Settings} {oa ob : Nat} {l : List SmpChan}
    (h : ∀ c ∈ l, ∀ d, g.channel c.index = some d → oa / d.step = ob / d.step) : closedBins g oa ob l = [] := by
  unfold closedBins
  rw [List.flatMap_eq_nil_iff]
  intro c hc
  unfold closedBinsOf
  split
  · rfl
  · rename_i d hd
    have := h c hc d hd
    simp [closeChannel, ChannelDef.openBin, this]

/-- The fault record after bins that the store takes at odometer `ob`: as before, or with FLUSH-DROP (R24). -/
theorem takeBins_sup {s : State} (l : List (Nat × Nat × Nat × Bin)) :
    let u := l.foldl (fun v x => takeBin x.1 x.2.1 x.2.2.1 x.2.2.2 v) s
    u.sup = s.sup ∨ ∃ n, s.sup.faultCount ≤ n ∧ u.sup = { s.sup with
      fault := some ⟨.flushDrop, .tsc, none, some s.smp.odometer, s.ros.clock⟩, faultCount := n } := by
  have hone : ∀ (v : State) (i openBin k : Nat) (b : Bin), (takeBin i openBin k b v).sup = v.sup ∨
      takeBin i openBin k b v = flushDrop i openBin v := fun v i openBin k b => by
    unfold takeBin
    split
    · exact .inl rfl
    · split
      · exact .inl rfl
      · split
        · exact .inl rfl
        · simp only
          split
          · split
            · exact .inl rfl
            · exact .inr rfl
          · exact .inl rfl
  have hall : ∀ (l : List (Nat × Nat × Nat × Bin)) (v : State), s.StoreMoves v →
      (v.sup = s.sup ∨ ∃ n, s.sup.faultCount ≤ n ∧ v.sup = { s.sup with
        fault := some ⟨.flushDrop, .tsc, none, some s.smp.odometer, s.ros.clock⟩, faultCount := n }) →
      let u := l.foldl (fun v x => takeBin x.1 x.2.1 x.2.2.1 x.2.2.2 v) v
      u.sup = s.sup ∨ ∃ n, s.sup.faultCount ≤ n ∧ u.sup = { s.sup with
        fault := some ⟨.flushDrop, .tsc, none, some s.smp.odometer, s.ros.clock⟩, faultCount := n } := by
    intro l
    induction l with
    | nil => exact fun v _ h => h
    | cons x l ih =>
      intro v hv h
      refine ih _ (hv.trans (takeBin_storeMoves _ _ _ _ v)) ?_
      rcases hone v x.1 x.2.1 x.2.2.1 x.2.2.2 with hx | hx
      · rw [hx]; exact h
      · refine .inr ⟨satSucc Config.max16 v.sup.faultCount, ?_, ?_⟩
        · have hle : s.sup.faultCount ≤ v.sup.faultCount := by
            rcases h with h | ⟨n, hn, h⟩ <;> rw [h]
            exact hn
          unfold satSucc
          split <;> omega
        · obtain ⟨t, f, n, rfl⟩ := hv
          change (takeBin x.1 x.2.1 x.2.2.1 x.2.2.2 _).sup = _
          rw [hx]
          rcases h with h | ⟨m, _, h⟩
          · exact congrArg (fun p : Sup => { p with
              fault := some ⟨.flushDrop, .tsc, none, some s.smp.odometer, s.ros.clock⟩, faultCount := satSucc Config.max16 n }) h
          · rfl
  exact hall l s (.refl s) (.inl rfl)

end Sys2Proof.Machine

/-! PROOFS. Strip length and sampling: the statements on advances, standstill, samples, closing bins and ticks. -/

namespace Sys2Proof.Machine

/-- What a whole-mm advance makes of the state, before the horizons of RUN-DEGRADED follow (R5, R6, R14, R18). -/
theorem wholeAdvance_eq (oa ob : Nat) (s : State) : wholeAdvance oa ob s = followOpenBins
    ((closedBins s.settings oa ob s.smp.chans).foldl (fun v x => takeBin x.1 x.2.1 x.2.2.1 x.2.2.2 v)
      { s with smp := s.smp.advanced s.settings oa ob }) := by
  have hmap : (s.smp.chans.map (advanceChannel s.settings oa ob)).map (·.1) =
      s.smp.chans.map fun c => (advanceChannel s.settings oa ob c).1 := by rw [List.map_map]; rfl
  unfold wholeAdvance
  simp only [hmap, handBins_closed]
  rfl

theorem takeBins_degraded {s : State} (h : s.sup.part = .runDegraded) (l : List (Nat × Nat × Nat × Bin)) :
    l.foldl (fun v x => takeBin x.1 x.2.1 x.2.2.1 x.2.2.2 v) s = s := by
  induction l with
  | nil => rfl
  | cons x l ih =>
    have hx : takeBin x.1 x.2.1 x.2.2.1 x.2.2.2 s = s := by simp [takeBin, h]
    rw [List.foldl_cons, hx, ih]

theorem takeBins_storeMoves (l : List (Nat × Nat × Nat × Bin)) (s : State) :
    s.StoreMoves (l.foldl (fun v x => takeBin x.1 x.2.1 x.2.2.1 x.2.2.2 v) s) :=
  foldl_keeps (P := s.StoreMoves) (fun (v : State) (x : Nat × Nat × Nat × Bin) => takeBin x.1 x.2.1 x.2.2.1 x.2.2.2 v)
    (fun v _ h => h.trans (takeBin_storeMoves _ _ _ _ v)) l s (.refl s)

theorem followOpenBins_run {s : State} (h : s.sup.part = .run) : followOpenBins s = s := by simp [followOpenBins, h]

theorem State.running_cases {s : State} (h : s.running = true) : s.sup.part = .run ∨ s.sup.part = .runDegraded := by
  unfold State.running PartState.running at h
  cases hp : s.sup.part <;> simp [hp] at h ⊢

/-- In RUN-DEGRADED each horizon stands at its open bin after an advance (R32). -/
theorem atOpenBin_horizon {g : Settings} {o : Nat} {l : List TscChan} {c : TscChan} (hc : c ∈ l.map (.atOpenBin g o)) {d : ChannelDef}
    (hd : g.channel c.index = some d) : c.horizon = o / d.step := by
  obtain ⟨x, _, rfl⟩ := List.mem_map.1 hc
  unfold TscChan.atOpenBin at hd ⊢
  cases hx : g.channel x.index with
  | none =>
    simp only [hx] at hd
    cases hd
  | some e =>
    simp only [hx] at hd ⊢
    have hi : (TscChan.fresh x.index (e.openBin o)).index = x.index := rfl
    rw [hi, hx] at hd
    cases hd
    rfl

/-- Settles O4: the advance moves SMP channel by channel, and TSC takes the closed bins one by one. -/
theorem forwardPulseAdvances : Obligations.ForwardPulseAdvances := by
  intro s carry frac hr hdebt hcarry hfrac hsum htop
  have hob : s.smp.odometer < min (s.smp.odometer + carry) Config.max48 := by unfold Config.max48; omega
  have hpulse := forwardPulse_of_carry hdebt hfrac hsum
  simp only [if_pos hob] at hpulse
  intro ob
  change s.smp.odometer < ob at hob
  let m : Smp := { s.smp with odometer := ob, fraction := if 2 ^ 48 - 1 < s.smp.odometer + carry then 255 else frac, debt := 0 }
  let closed := closedBins s.settings s.smp.odometer ob s.smp.chans
  let v : State := { s with smp := m.advanced s.settings s.smp.odometer ob }
  let w : State := closed.foldl (fun v x => takeBin x.1 x.2.1 x.2.2.1 x.2.2.2 v) v
  have hu : forwardPulse s = followOpenBins w := hpulse.trans (wholeAdvance_eq _ _ _)
  obtain ⟨t, ht, hcarried⟩ := receiving_of_eq hr hu
  obtain ⟨tsc, f, n, hw⟩ : v.StoreMoves w := takeBins_storeMoves closed v
  have hsup := takeBins_sup (s := v) closed
  have hmoves : v.StoreMoves (followOpenBins w) := (takeBins_storeMoves closed v).trans (followOpenBins_storeMoves w)
  have hfollow : (followOpenBins w).sup = w.sup := by unfold followOpenBins; split <;> rfl
  refine ⟨followOpenBins w, t, ht, hcarried, ?_, ?_, ?_, fun hrun hnone => ?_, fun hrun => ⟨?_, ?_⟩, fun hdeg => ⟨?_, fun c hc d hd => ?_⟩⟩
  · obtain ⟨_, _, _, hx⟩ := hmoves
    rw [hx]
    change m.advanced s.settings s.smp.odometer ob = _
    unfold Smp.advanced
    congr 1
    exact List.map_congr_left fun c _ => advanceChannel_fst s.settings s.smp.odometer ob c
  · obtain ⟨_, _, _, hx⟩ := hmoves
    rw [hx]
  · rw [hfollow]
    exact hsup
  · have hnil : closed = [] := closedBins_nil hnone
    have hwv : w = v := by
      change closed.foldl _ v = v
      rw [hnil]
      rfl
    rw [followOpenBins_run (hwv ▸ hrun), hwv]
    exact ⟨rfl, rfl⟩
  · have hwrun : w.sup.part = .run := by rw [hw]; exact hrun
    rw [followOpenBins_run hwrun]
    have hsmp : w.smp = m.advanced s.settings s.smp.odometer ob := by rw [hw]
    rw [hsmp]
    rfl
  · exact closedBins_ascending s.settings s.smp.odometer ob
  · have hvd : v.sup.part = .runDegraded := hdeg
    have hwv : w = v := takeBins_degraded hvd closed
    rw [hfollow, hwv]
  · have hvd : v.sup.part = .runDegraded := hdeg
    have hwv : w = v := takeBins_degraded hvd closed
    rw [hwv] at hc
    simp only [followOpenBins, if_pos hvd] at hc
    exact atOpenBin_horizon hc hd

/-! ### Standstill, samples and closing bins -/

theorem standstillDue_of {s : State} (hr : s.running = true) (hm : s.smp.sampler = .moving)
    (ht : s.settings.standstillTime ≤ s.smp.timer + 1) : standstillDue s = true := by
  simp [standstillDue, hr, hm, ht]

/-- Settles O5: a reverse pulse, and the run-out of the standstill timer. -/
theorem reversePulseAndStandstill : Obligations.ReversePulseAndStandstill :=
  ⟨fun _ hr => receiving_of_eq hr rfl, fun _ hr hm ht => commit_of_eq (if_pos (standstillDue_of hr hm ht))⟩

/-- A sample set reaches each open bin with the values addressed to it, in the order of the record (R12). -/
theorem foldl_takeSample (es : List SampleEntry) (l : List SmpChan) : es.foldl takeSample l = l.map fun c =>
    { c with acc := ((es.filter fun e => decide (e.channel.toNat = c.index ∧ e.value.toInt ≠ -32768)).map
      fun e => e.value.toInt).foldl (fun a v => a.accept v) c.acc } := by
  induction es generalizing l with
  | nil => simp
  | cons e es ih =>
    rw [List.foldl_cons, ih]
    unfold takeSample sampleReading
    by_cases hv : e.value.toInt = -32768
    · simp [hv]
    · simp only [if_neg hv, List.map_map]
      refine List.map_congr_left fun c _ => ?_
      by_cases hc : e.channel.toNat = c.index
      · simp [hc, hv]
      · simp [hc, Ne.symm hc]

theorem sampleSet_inRange {es : List SampleEntry} (h : (Instr.sampleSet es).wf = true) : (LfRecord.sampleSet es).inRange = true := h

/-- Settles O6: the sampler's state decides whether the set reaches the open bins. -/
theorem sampleSetReachesOpenBins : Obligations.SampleSetReachesOpenBins := by
  intro s es hr hwf
  have harrives : lfArrives (.sampleSet es) s = { s with smp := s.smp.takeSamples es } := if_pos (sampleSet_inRange hwf)
  refine ⟨fun hstill => receiving_of_eq hr (harrives.trans ?_), fun hmove => receiving_of_eq hr (harrives.trans ?_)⟩
  · simp only [Smp.takeSamples, hstill]
  · simp only [Smp.takeSamples, hmove, foldl_takeSample]

/-- A rounded average differs from the exact one by at most a half, and a half is rounded away from zero (R15). -/
theorem roundDiv_spec (sum : Int) {n : Nat} (hn : 0 < n) : 2 * |sum - roundDiv sum n * n| ≤ n ∧
    (2 * |sum - roundDiv sum n * n| = n → |sum| < |roundDiv sum n * n|) := by
  have hround : ∀ k : Nat, 2 * (n * ((2 * k + n) / (2 * n))) ≤ 2 * k + n ∧ 2 * k + n < 2 * (n * ((2 * k + n) / (2 * n))) + 2 * n := fun k => by
    have h1 := Nat.div_mul_le_self (2 * k + n) (2 * n)
    have h2 := Nat.lt_div_mul_add (a := 2 * k + n) (b := 2 * n) (by omega)
    have h3 : (2 * k + n) / (2 * n) * (2 * n) = 2 * (n * ((2 * k + n) / (2 * n))) := by ring
    omega
  unfold roundDiv
  split
  · obtain ⟨k, rfl⟩ := Int.eq_ofNat_of_zero_le ‹0 ≤ sum›
    simp only [Int.toNat_natCast]
    obtain ⟨h1, h2⟩ := hround k
    have hcast : (((2 * k + n) / (2 * n) : Nat) : Int) * n = ((n * ((2 * k + n) / (2 * n)) : Nat) : Int) := by rw [mul_comm, Nat.cast_mul]
    rw [hcast]
    generalize n * ((2 * k + n) / (2 * n)) = p at h1 h2
    constructor
    · rcases abs_cases ((k : Int) - p) with ⟨h, _⟩ | ⟨h, _⟩ <;> rw [h] <;> omega
    · intro h
      rw [abs_of_nonneg (by omega), abs_of_nonneg (by omega)]
      rcases abs_cases ((k : Int) - p) with ⟨h', _⟩ | ⟨h', _⟩ <;> rw [h'] at h <;> omega
  · obtain ⟨h1, h2⟩ := hround sum.natAbs
    have hcast : -(((2 * sum.natAbs + n) / (2 * n) : Nat) : Int) * n = -((n * ((2 * sum.natAbs + n) / (2 * n)) : Nat) : Int) := by
      rw [neg_mul, mul_comm, Nat.cast_mul]
    rw [hcast]
    generalize n * ((2 * sum.natAbs + n) / (2 * n)) = p at h1 h2
    constructor
    · rcases abs_cases (sum - -(p : Int)) with ⟨h, _⟩ | ⟨h, _⟩ <;> rw [h] <;> omega
    · intro h
      rw [abs_of_neg (by omega), abs_of_nonpos (by omega)]
      rcases abs_cases (sum - -(p : Int)) with ⟨h', _⟩ | ⟨h', _⟩ <;> rw [h'] at h <;> omega

/-- The rounded average lies between the bounds of the summed values (R15). -/
theorem roundDiv_between {sum lo hi : Int} {n : Nat} (hn : 0 < n) (hlo : (n : Int) * lo ≤ sum) (hhi : sum ≤ (n : Int) * hi) :
    lo ≤ roundDiv sum n ∧ roundDiv sum n ≤ hi := by
  obtain ⟨hclose, _⟩ := roundDiv_spec sum hn
  generalize roundDiv sum n = m at hclose
  have hpos : (0 : Int) < n := by exact_mod_cast hn
  have habs := abs_le.1 (le_refl |sum - m * n|)
  constructor
  · by_contra hlt
    have hstep : (n : Int) * (m + 1) ≤ n * lo := mul_le_mul_of_nonneg_left (by omega) hpos.le
    have hexp : (n : Int) * (m + 1) = m * n + n := by ring
    omega
  · by_contra hlt
    have hstep : (n : Int) * (hi + 1) ≤ n * m := mul_le_mul_of_nonneg_left (by omega) hpos.le
    have hexp : (n : Int) * (hi + 1) = n * hi + n := by ring
    have hcomm : (n : Int) * m = m * n := mul_comm _ _
    omega

/-- Settles O8: the rounded mean of a bin with samples, and the bins that an advance closes after it. -/
theorem advanceClosesBins : Obligations.AdvanceClosesBins := by
  refine ⟨fun a last lo hi hs hext => ?_, fun d oa ob c hlt => ?_⟩
  · unfold Acc.Sound at hs
    rw [hext] at hs
    obtain ⟨hpos, hlo, hhi, _⟩ := hs
    obtain ⟨hround, hhalf⟩ := roundDiv_spec a.sum hpos
    obtain ⟨h1, h2⟩ := roundDiv_between hpos hlo hhi
    exact ⟨roundDiv a.sum a.count, by simp [Acc.close, hpos, hext], h1, h2, hround, hhalf⟩
  · intro first x
    have hk : d.openBin oa < d.openBin ob := hlt
    have hx : x = ({ c with acc := .empty, lastMean := first.2 },
      (d.openBin oa, first.1) :: (List.range (d.openBin ob - d.openBin oa - 1)).map fun n =>
        (d.openBin oa + 1 + n, unsampledBin first.2 false)) := if_pos hk
    refine ⟨by rw [hx]; rfl, closeChannel_indices d oa ob c, by rw [hx]; rfl, fun hzero => ?_, fun b hb => ?_⟩
    · have hfirst : first = (unsampledBin c.lastMean c.acc.stop, c.lastMean) := by
        change c.acc.close c.lastMean = _
        simp [Acc.close, hzero]
      rw [hfirst]
      exact ⟨rfl, by cases c.lastMean <;> rfl⟩
    · rw [hx] at hb
      simp only [List.map_cons, List.tail_cons, List.map_map, List.mem_map] at hb
      obtain ⟨n, _, rfl⟩ := hb
      change unsampledBin first.2 false = _
      cases first.2 <;> rfl

end Sys2Proof.Machine

/-! PROOFS. The tick of the time base, and the trend store: closed bins, flush writes, evictions and page reads. -/

namespace Sys2Proof.Machine

/-! ### The tick (chapter 1 and the timers of the blocks) -/

theorem tickPart_running {s : State} (h : s.running = true) : tickPart s = some (tickAll s) := by
  rcases State.running_cases h with hp | hp <;> simp [tickPart, hp]

theorem tickPart_clock {s : State} (h : s.sup.part = .loading ∨ s.sup.part = .checking ∨ s.sup.part = .configFault) :
    tickPart s = some (tickClock s) := by
  rcases h with hp | hp | hp <;> simp [tickPart, hp]

theorem clockTick_eq (n : Nat) : clockTick n = if n = 0 ∨ 2 ^ 48 - 1 ≤ n then 0 else n + 1 := by
  unfold clockTick Config.max48
  by_cases h : n = 0 <;> simp [h]

/-- The time-frame timer counts at a time source whose clock is set and does not wrap (R126). -/
theorem timeTimer_tick (r : Ros) (counts : Bool) {source : Bool} (hc : counts = source) : (r.tick counts).timeTimer =
    if r.clock = 0 then r.timeTimer else if 2 ^ 48 - 1 ≤ r.clock then 0
    else if source = true ∧ r.timeTimer < 10000 then r.timeTimer + 1 else r.timeTimer := by
  subst hc
  simp only [Ros.tick, clockTick_eq]
  by_cases h0 : r.clock = 0
  · simp [h0]
  · by_cases h1 : 281474976710655 ≤ r.clock
    · simp [h0, h1]
    · cases counts with
      | false => simp [h0, h1]
      | true => by_cases h2 : r.timeTimer < 10000 <;> simp [h0, h1, h2, satSucc, Config.timeFramePeriod]

/-- Settles O9: `tickAll` in a running part, one clause for each block, and `tickClock` before it runs. -/
theorem tickMovesTimers : Obligations.TickMovesTimers := by
  intro s
  refine ⟨fun hr => ?_, fun hp h0 htop => ?_⟩
  · obtain ⟨t, ht, hc⟩ := commit_of_eq (s := s) (tickPart_running hr)
    refine ⟨tickAll s, t, ht, hc, fun hm hlt => ?_, fun hm hge => ?_, fun hst => ?_, ?_, ?_, ?_, ?_, ?_, rfl, rfl⟩
    all_goals unfold tickAll
    · simp only [Smp.tick, hm, satSucc]
      have h1 : s.smp.timer < s.settings.standstillTime := by omega
      simp only [if_pos h1, if_neg (Nat.not_le.2 hlt)]
    · simp only [Smp.tick, hm, satSucc]
      by_cases h1 : s.smp.timer < s.settings.standstillTime
      · have h2 : max s.smp.timer s.settings.standstillTime = s.smp.timer + 1 := by omega
        simp only [if_pos h1, if_pos hge, h2]
        rfl
      · have h2 : max s.smp.timer s.settings.standstillTime = s.smp.timer := by omega
        simp only [if_neg h1, if_pos (Nat.not_lt.1 h1), h2]
        rfl
    · simp only [Smp.tick, hst]
      rfl
    · rfl
    · exact clockTick_eq s.ros.clock
    · exact timeTimer_tick s.ros s.countsFrames (by simp [State.countsFrames, hr])
    · simp only [Ctr.tick]
      congr 1
    · simp only [Req.tick, Collector.tick]
      congr 1
      cases hs : s.req.collector.state <;> simp
  · refine commit_of_eq ((tickPart_clock hp).trans (congrArg some ?_))
    have h1 : ¬ 281474976710655 ≤ s.ros.clock := Nat.not_le.2 htop
    simp [tickClock, Ros.tick, clockTick_eq, h0, h1]

end Sys2Proof.Machine

/-! PROOFS. The trend store: closed bins, flush writes and evictions. -/

namespace Sys2Proof.Machine

/-! ### Closed bins (R22 to R24) -/

section
variable {s : State} {i openBin k : Nat} {b : Bin} {c : TscChan} (hr : s.sup.part = .run) (hc : s.tsc.chan i = some c)
include hr hc

theorem takeBin_discarded (hk : k < c.horizon) : takeBin i openBin k b s = s := by simp [takeBin, hr, hc, hk]

theorem takeBin_current (hk : c.horizon ≤ k) (hm : k % 64 ≠ 63) : takeBin i openBin k b s =
    { s with tsc := s.tsc.updateChan i fun y => { y with cur := { c.cur with bins := c.cur.bins ++ [b] } } } := by
  simp [takeBin, hr, hc, Nat.not_lt.2 hk, hm]

theorem takeBin_complete (hk : c.horizon ≤ k) (hm : k % 64 = 63) (hroom : s.tsc.flush.length < Config.flushCap) :
    takeBin i openBin k b s = { s with tsc := { s.tsc.updateChan i (fun y => { y with cur := pageAfter i (k / 64) }) with
      flush := s.tsc.flush ++ [{ c.cur with bins := c.cur.bins ++ [b] }] } } := by
  simp [takeBin, hr, hc, Nat.not_lt.2 hk, hm, hroom]

theorem takeBin_dropped (hk : c.horizon ≤ k) (hm : k % 64 = 63) (hfull : ¬ s.tsc.flush.length < Config.flushCap) :
    takeBin i openBin k b s = flushDrop i openBin s := by
  simp [takeBin, hr, hc, Nat.not_lt.2 hk, hm, hfull]

end

/-- Settles O10: the clauses of `takeBin`, one for each fate of a closed bin. -/
theorem closedBinIsStored : Obligations.ClosedBinIsStored := by
  intro s i openBin k b c hr hc keep page
  refine ⟨takeBin_discarded hr hc, takeBin_current hr hc, takeBin_complete hr hc, fun hk hm hfull => ?_⟩
  have hdrop := takeBin_dropped (openBin := openBin) (b := b) hr hc hk hm (Nat.not_lt.2 hfull)
  intro u
  have hu : u = flushDrop i openBin s := hdrop
  rw [hu]
  refine ⟨rfl, rfl, rfl, rfl, fun p x hw => ?_, rfl, rfl⟩
  change s.tsc.transfer.map _ = _
  rw [hw]
  rfl

/-! ### Flush writes and evictions (R19, R24, R26) -/

/-- A written slot reads as written and every other as before, whatever the order of the slots. -/
theorem ringAt_ringWrite_any (slot i : Nat) (p : Page) (r : List (Nat × Page)) :
    ringAt (ringWrite slot p r) i = if i = slot then some p else ringAt r i := by
  unfold ringAt
  induction r with
  | nil =>
    by_cases hi : i = slot
    · simp [ringWrite, hi]
    · simp [ringWrite, hi, Ne.symm hi]
  | cons e r ih =>
    simp only [ringWrite]
    split
    · by_cases hi : i = slot
      · simp [hi]
      · simp [hi, Ne.symm hi]
    · split
      · rename_i heq
        by_cases hi : i = slot
        · simp [hi]
        · have hne : ¬ e.1 = i := fun h => hi (h ▸ heq.symm)
          simp [hi, Ne.symm hi, hne]
      · rename_i hlt hne
        by_cases he : e.1 = i
        · have hi : ¬ i = slot := fun h => hne (he ▸ h.symm)
          simp [he, hi]
        · simpa [he] using ih

/-- A freed slot reads as free and every other as before, whatever the order of the slots. -/
theorem ringAt_ringFree_slot (slot i : Nat) (r : List (Nat × Page)) :
    ringAt (ringFree (fun e => e.1 == slot) r) i = if i = slot then none else ringAt r i := by
  unfold ringAt ringFree
  by_cases hi : i = slot
  · rw [if_pos hi, List.find?_filter, Option.map_eq_none_iff, List.find?_eq_none]
    simp [hi]
  · rw [if_neg hi, List.find?_filter]
    refine congrArg (Option.map _) (congrArg (fun f => r.find? f) (funext fun e => ?_))
    by_cases he : e.1 = i
    · simp [he, hi]
    · simp [he]

theorem flushWriteComplete_of {s : State} {p : Page} {x : Bool} (hr : s.running = true) (ht : s.tsc.transfer = some (.write p x)) :
    ∃ t, exec .flushWriteComplete s = .next t ∧
      Carried { s with tsc := completeWrite s.settings.storeCode p x s.tsc } t := by
  refine commit_of_eq ((if_pos hr).trans ?_)
  simp only [writeCompletes, ht]

theorem grantStep_write {s : State} {p : Page} (hr : s.sup.part = .run) (ht : s.tsc.transfer = none) (hp : s.tsc.flush.head? = some p) :
    grantStep s = some { s with tsc := grantWrite p s.tsc } := by
  simp [grantStep, hr, ht, hp]

/-- Settles O11: the end of a flush write by whether a FLUSH-DROP cancelled it, and the eviction at a grant by the slot in the way. -/
theorem flushWritesAndEvictions : Obligations.FlushWritesAndEvictions := by
  refine ⟨fun s p hr => ⟨fun ht => flushWriteComplete_of hr ht, fun ht => ?_⟩, fun s p hr ht hp => ?_⟩
  · obtain ⟨t, h1, h2⟩ := flushWriteComplete_of hr ht
    exact ⟨_, t, h1, h2, fun n => ringAt_ringWrite_any s.tsc.writePtr n p s.tsc.ring, rfl⟩
  · refine ⟨_, grantStep_write hr ht hp, rfl, rfl, evictAt_flush _ _, ?_, fun n => ?_, fun hfree => ?_, fun old hold => ?_⟩
    all_goals unfold grantWrite evictAt
    · split <;> rfl
    · cases hold : ringAt s.tsc.ring s.tsc.writePtr with
      | none =>
        by_cases hn : n = s.tsc.writePtr
        · rw [if_pos hn, hn]; exact hold
        · rw [if_neg hn]
      | some old => exact ringAt_ringFree_slot s.tsc.writePtr n s.tsc.ring
    · simp only [hfree]
    · simp only [hold]
      rfl

end Sys2Proof.Machine

/-! PROOFS. The results of a depth, and page reads: how one completes, what it reports, and which evaluator is granted. -/

namespace Sys2Proof.Machine

/-! ### Results that become present (R149, R151) -/

/-- A filled table entry by entry. -/
theorem DepthTable.fill_results (t : DepthTable) (first count n : Nat) (make : Nat → Attr → Result) :
    (t.fill first make count).results[n]? =
      if first ≤ n ∧ n < first + count then
        (t.results[n]?).map fun r => (t.attrs[n]?).elim r fun a => presentOnce (make (n - first) a) r
      else t.results[n]? := by
  simp only [DepthTable.fill, List.getElem?_map, List.getElem?_zipIdx, Nat.zero_add]
  cases t.results[n]? with
  | none => simp
  | some r =>
    by_cases h : first ≤ n ∧ n < first + count
    · simp only [if_pos h, Option.map_some]
      cases t.attrs[n]? <;> rfl
    · simp only [if_neg h, Option.map_some]

/-- The points of a group, each with its result where it was absent (R149, R151). -/
theorem groupFilled_fill (ds : List DepthTable) (g : Group) (point : Nat → Option Point) (clamped : Bool) (flag : Option Outcome) :
    GroupFilled ds (ds.modify g.depth fun t => t.fill g.first (fun n a => a.result (point n) clamped flag) g.count) g point clamped flag := by
  refine ⟨List.length_modify _ _ _, fun d t ht => ?_⟩
  rw [List.getElem?_modify, ht]
  by_cases hd : g.depth = d
  · refine ⟨t.fill g.first (fun n a => a.result (point n) clamped flag) g.count, by simp [hd], rfl, fun n => ?_⟩
    rw [DepthTable.fill_results]
    by_cases hn : g.first ≤ n ∧ n < g.first + g.count
    · rw [if_pos hn, if_pos ⟨hd.symm, hn⟩]
      cases t.results[n]? with
      | none => rfl
      | some r =>
        cases t.attrs[n]? with
        | none => cases r <;> rfl
        | some a => cases r <;> cases a <;> rfl
    · rw [if_neg hn, if_neg fun h => hn h.2]
  · refine ⟨t, by simp [hd], rfl, fun n => ?_⟩
    rw [if_neg fun h => hd h.1.symm]

/-- What an ended slot's result makes of its group's points: values of DATA with the group's count, or an outcome (R149). -/
theorem groupFilled_resultOf (ds : List DepthTable) (g : Group) (x : FetchResult) :
    let after := ds.modify g.depth fun t => t.fill g.first (resultOf g.count x) g.count
    if x.status = .data ∧ x.points.length = g.count then GroupFilled ds after g (fun n => x.points[n]?) x.clamped none
    else GroupFilled ds after g (fun _ => none) x.clamped (some x.status.outcome) := by
  intro after
  by_cases h : x.status = .data ∧ x.points.length = g.count
  · rw [if_pos h]
    have hr : resultOf g.count x = fun n a => a.result x.points[n]? x.clamped none := if_pos h
    have := groupFilled_fill ds g (fun n => x.points[n]?) x.clamped none
    rwa [← hr] at this
  · rw [if_neg h]
    have hr : resultOf g.count x = fun n a => a.result none x.clamped (some x.status.outcome) := if_neg h
    have := groupFilled_fill ds g (fun _ => none) x.clamped (some x.status.outcome)
    rwa [← hr] at this

/-! ### Replies of the peer evaluator (R98, R103, R104) -/

theorem pseOffer_clear {s : State} (rest : List Frame) (f : Frame) (h : s.bus.muted = false) :
    pseOffer rest f s = State.offer f .pseReply (s.setPse fun p => { p with engine := .holding rest }) := if_neg (by simp [h])

theorem pseOffer_muted {s : State} (rest : List Frame) (f : Frame) (h : s.bus.muted = true) :
    pseOffer rest f s = s.setPse fun p => { p with engine := .idle } := if_pos h

/-! ### The end of a page read (R27, R112, R115, R116) -/

theorem pageReadComplete_of {s u : State} {who : Evaluator} {bins : List BinClass} (hr : s.running = true)
    (ht : s.tsc.transfer = some (.read who bins)) (hu : deliver who bins { s with tsc := { s.tsc with transfer := none } } = u) :
    ∃ t, exec .pageReadComplete s = .next t ∧ Carried u t := by
  refine commit_of_eq ((if_pos hr).trans ?_)
  simp only [readCompletes, ht, hu]

/-- An evaluation that has gone through its last page ends with DATA (R112, R115). -/
theorem Eval.feed_finished {ev : Eval} {bins : List BinClass} {x : FetchResult} (h : ev.feed bins = .finished x) : x.status = .data := by
  unfold Eval.feed at h
  simp only at h
  split at h
  · cases h
  · cases h; rfl

/-- A LOCAL slot ends with the result of the local evaluation (R146). -/
theorem deliverLocal_finished {s : State} {i : Nat} {ev : Eval} {x : FetchResult} {bins : List BinClass} {gen : BitVec 2} {b : FetchBusy}
    (he : s.req.localEval = .running i ev) (hx : ev.feed bins = .finished x) (hb : s.req.fetches[i]? = some ⟨gen, some b⟩) :
    deliverLocal bins s = { s with
      bus := (s.withdraw fun o => o == .reqFetch i).bus
      req := { s.req with
        localEval := .idle, fetches := s.req.fetches.set i ⟨gen, none⟩
        depths := s.req.depths.modify b.group.depth fun t => t.fill b.group.first (resultOf b.group.count x) b.group.count } } := by
  simp only [deliverLocal, he, hx, endLocal, State.setReq, hb, endFetch]
  rfl

/-! ### What a page read reports (R27) -/

theorem readPage_get {s : State} {i j n : Nat} {c : TscChan} {d : ChannelDef} (hp : s.sup.part ≠ .runDegraded) (hc : s.tsc.chan i = some c)
    (hd : s.settings.channel i = some d) (hn : n < 64) : (readPage s i j).1[n]? =
      some (classifyBin c.horizon (d.openBin s.smp.odometer) ((pageOf s.tsc c j).map (·.1)) (64 * j + n)) := by
  simp [readPage, hp, hc, hd, hn]

theorem readPage_degraded {s : State} {i j n : Nat} (hp : s.sup.part = .runDegraded) (hn : n < 64) : (readPage s i j).1[n]? = some .expired := by
  simp only [readPage, if_pos hp, expiredPage, List.getElem?_replicate, if_pos hn]

theorem pageOf_current {t : Tsc} {c : TscChan} {j : Nat} (h : c.cur.no = j) : pageOf t c j = some (c.cur, false) := if_pos h

theorem pageOf_flush {t : Tsc} {c : TscChan} {j : Nat} {p : Page} (h : c.cur.no ≠ j)
    (hp : t.flush.find? (fun q => q.chan == c.index && q.no == j) = some p) : pageOf t c j = some (p, false) := by
  simp only [pageOf, if_neg h, hp]

theorem pageOf_slot {t : Tsc} {c : TscChan} {j : Nat} {p : Page} {e : Nat × Nat} (h : c.cur.no ≠ j)
    (hf : t.flush.find? (fun q => q.chan == c.index && q.no == j) = none) (he : c.dir.find? (fun e => e.1 == j) = some e)
    (hp : ringAt t.ring e.2 = some p) : pageOf t c j = some (p, true) := by
  simp only [pageOf, if_neg h, hf, he, hp, Option.map_some]

/-! ### The grant of a page read (R25) -/

theorem grantStep_read {s : State} (ht : s.tsc.transfer = none) (hf : s.sup.part = .run → s.tsc.flush = []) :
    grantStep s = (pickAsk s.tsc.mark s.peerAsk s.localAsk).map fun a => grantRead a s := by
  by_cases hp : s.sup.part = .run
  · simp [grantStep, ht, hp, hf hp]
  · simp [grantStep, ht, hp]

theorem grantRead_transfer {s : State} {who : Evaluator} {i j : Nat} (h : (readPage s i j).2 = true) : grantRead (who, i, j) s =
    { s with tsc := { s.tsc with mark := who, transfer := some (.read who (readPage s i j).1) } } := by
  simp [grantRead, h]

theorem grantRead_atOnce {s : State} {who : Evaluator} {i j : Nat} (h : (readPage s i j).2 = false) : grantRead (who, i, j) s =
    deliver who (readPage s i j).1 { s with tsc := { s.tsc with mark := who } } := by
  simp [grantRead, h]

theorem State.peerAsk_eq (s : State) : s.peerAsk = (match s.pse.engine with
    | .evaluating _ ev => some (ev.chan, ev.page)
    | _ => none).map fun x => (.peer, x) := by
  unfold State.peerAsk
  cases s.pse.engine <;> rfl

theorem State.localAsk_eq (s : State) : s.localAsk = (match s.req.localEval with
    | .running _ ev => some (ev.chan, ev.page)
    | _ => none).map fun x => (.localEval, x) := by
  unfold State.localAsk
  cases s.req.localEval <;> rfl

/-- Settles O12: the end of a read by the evaluator that asked and the state it is in, the report by where the bin stands, and the
grant by who waits. -/
theorem pageReadCompletesAndClassifies : Obligations.PageReadCompletesAndClassifies := by
  refine ⟨fun s bins hr => ⟨fun r ev next ht he hx => ?_, fun r ev x ht he hx hm => ?_, fun ht he => ?_, fun i ev next ht he hx => ?_,
    fun i ev x gen b ht he hx hb => ?_, fun ht he => ?_⟩, fun s i j n c d hc hd hn => ?_, fun s ht hf => ?_⟩
  · refine pageReadComplete_of hr ht ?_
    simp only [deliver, deliverPeer, he, hx, State.setPse]
  · refine pageReadComplete_of hr ht ?_
    simp only [deliver, deliverPeer, he, hx]
    exact pseOffer_clear (s := { s with tsc := { s.tsc with transfer := none } }) [] _ hm
  · refine pageReadComplete_of hr ht ?_
    change deliverPeer bins _ = _
    unfold deliverPeer
    split
    · exact absurd ‹_› (he _ _)
    · rfl
  · refine pageReadComplete_of hr ht ?_
    simp only [deliver, deliverLocal, he, hx, State.setReq]
  · obtain ⟨t, h1, h2⟩ := pageReadComplete_of hr ht
      (deliverLocal_finished (s := { s with tsc := { s.tsc with transfer := none } }) he hx hb)
    refine ⟨_, t, h1, h2, rfl, ?_⟩
    have hfill := groupFilled_resultOf s.req.depths b.group x
    simp only [Eval.feed_finished hx, true_and] at hfill
    exact hfill
  · refine pageReadComplete_of hr ht ?_
    simp only [deliver, deliverLocal, he, State.setReq]
  · intro k got
    by_cases hp : s.sup.part = .runDegraded
    · have hgot : got = some .expired := readPage_degraded hp hn
      exact ⟨fun _ => hgot, fun _ => hgot, fun h => absurd hp h, fun _ _ h => absurd hp h⟩
    · have hgot : got = some (classifyBin c.horizon (d.openBin s.smp.odometer) ((pageOf s.tsc c j).map (·.1)) k) :=
        readPage_get hp hc hd hn
      rw [hgot]
      refine ⟨fun h => absurd h hp, fun h => congrArg some (if_pos h), fun _ hle hopen => ?_, fun p b _ hle hlt hfirst hb hwhere => ?_⟩
      · exact congrArg some ((if_neg (Nat.not_lt.2 hle)).trans (if_pos hopen))
      · have hpage : (pageOf s.tsc c j).map (·.1) = some p := by
          rcases hwhere with ⟨h, rfl⟩ | ⟨h, hp⟩ | ⟨h, hn, e, he, hp⟩
          · rw [pageOf_current h]; rfl
          · rw [pageOf_flush h hp]; rfl
          · rw [pageOf_slot h hn he hp]; rfl
        have hopen : ¬ d.openBin s.smp.odometer ≤ k := Nat.not_le.2 hlt
        have hbin : p.binAt k = some b := (if_neg (Nat.not_lt.2 hfirst)).trans hb
        simp [classifyBin, hpage, Nat.not_lt.2 hle, hopen, hbin]
  · intro peer own granted
    have hpeer : s.peerAsk = peer.map fun x => (.peer, x) := s.peerAsk_eq
    have hown : s.localAsk = own.map fun x => (.localEval, x) := s.localAsk_eq
    have hg : ∀ who i j, granted who i j (grantRead (who, i, j) s) := fun who i j => ⟨grantRead_transfer, grantRead_atOnce⟩
    rw [grantStep_read ht hf, hpeer, hown]
    refine ⟨fun hn ho => by rw [hn, ho]; rfl, fun i j hi ho => ⟨_, ?_, hg .peer i j⟩, fun i j hi ho => ⟨_, ?_, hg .localEval i j⟩⟩
    · rw [hi]
      rcases ho with ho | ho
      · rw [ho]; rfl
      · rw [ho]
        cases own <;> rfl
    · rw [hi]
      rcases ho with ho | ho
      · rw [ho]; rfl
      · rw [ho]
        cases peer <;> rfl

end Sys2Proof.Machine

/-! PROOFS. Line feed records that fail, event positions and declarations (3.1, 3.2). -/

namespace Sys2Proof.Machine

/-! ### Fields of a record's bytes -/

theorem field_lt (bs : List Byte) (off n : Nat) : field bs off n < 256 ^ n := by
  unfold field
  refine lt_of_lt_of_le (beNat_lt _) (Nat.pow_le_pow_right (by decide) ?_)
  simp

theorem field_byte_lt (bs : List Byte) (off : Nat) : field bs off 1 < 256 := field_lt bs off 1

/-- A byte of the payload of a record of length `n`, which stands after two bytes. -/
theorem field_payload {bs : List Byte} {n i : Nat} (h : i < n) : field ((bs.drop 2).take n) i 1 = field bs (2 + i) 1 := by
  unfold field
  rw [List.drop_take, List.drop_drop, List.take_take, Nat.min_eq_left (by omega)]

theorem ofNat_toNat_byte {v : Nat} (h : v < 256) : (BitVec.ofNat 8 v).toNat = v := by
  rw [BitVec.toNat_ofNat]
  exact Nat.mod_eq_of_lt h

/-! ### The checks of a line feed record (R36, 12.5) -/

theorem mem_sampleEntries {p : List Byte} {k off i : Nat} (hi : i < k) :
    ⟨BitVec.ofNat 8 (field p (off + 3 * i) 1), BitVec.ofNat 16 (field p (off + 3 * i + 1) 2)⟩ ∈ sampleEntries p k off := by
  induction k generalizing off i with
  | zero => exact absurd hi (Nat.not_lt_zero i)
  | succ k ih =>
    cases i with
    | zero => exact List.mem_cons_self
    | succ i =>
      have := ih (off := off + 3) (Nat.lt_of_succ_lt_succ hi)
      have hoff : off + 3 * (i + 1) = off + 3 + 3 * i := by omega
      rw [hoff]
      exact List.mem_cons_of_mem _ this

theorem sampleEntries_length (p : List Byte) (k off : Nat) : (sampleEntries p k off).length = k := by
  induction k generalizing off with
  | zero => rfl
  | succ k ih => simp [sampleEntries, ih]

section
variable {p : List Byte} {r : LfRecord} (hin : r.inRange = true)
include hin

theorem parseLfPayload_sampleSet (h : parseLfPayload 1 p = some r) : p.length % 3 = 0 ∧ 1 ≤ p.length / 3 ∧ p.length / 3 ≤ 32 ∧
    ∀ i < p.length / 3, field p (3 * i) 1 ≤ 31 := by
  simp only [parseLfPayload] at h
  split at h
  · obtain rfl := Option.some.inj h
    obtain ⟨hmod, hlo, hhi⟩ := ‹p.length % 3 = 0 ∧ 3 ≤ p.length ∧ p.length ≤ 96›
    refine ⟨hmod, by omega, by omega, fun i hi => ?_⟩
    simp only [LfRecord.inRange, Bool.and_eq_true, List.all_eq_true, decide_eq_true_eq] at hin
    have hm := hin.2 _ (mem_sampleEntries (p := p) (off := 0) hi)
    rwa [Nat.zero_add, ofNat_toNat_byte (field_byte_lt _ _)] at hm
  · cases h

theorem parseLfPayload_declare (h : parseLfPayload 2 p = some r) :
    field p 0 1 < 64 ∧ (p.length = 10 ∧ field p 5 1 < 2 ∨ p.length = 14 ∧ 2 ≤ field p 5 1 ∧ field p 5 1 < 4) := by
  simp only [parseLfPayload] at h
  split at h
  · obtain rfl := Option.some.inj h
    rename_i hc
    obtain ⟨hlen, hhigh, hflags⟩ := hc
    have hfirst : field p 0 1 < 64 := by
      unfold highBits at hhigh
      omega
    refine ⟨hfirst, ?_⟩
    simp only [LfRecord.inRange, bitSet] at hin
    rcases hlen with hlen | hlen
    · simp only [hlen] at hin
      have : ¬ field p 5 1 / 2 ^ 1 % 2 = 1 := by simpa using hin
      exact .inl ⟨hlen, by omega⟩
    · simp only [hlen] at hin
      have : field p 5 1 / 2 ^ 1 % 2 = 1 := by simpa using hin
      exact .inr ⟨hlen, by omega, hflags⟩
  · cases h

omit hin in
theorem parseLfPayload_join (h : parseLfPayload 3 p = some r) : (p.length = 1 ∨ p.length = 7) ∧ field p 0 1 < 2 := by
  simp only [parseLfPayload] at h
  split at h
  · assumption
  · cases h

omit hin in
theorem parseLfPayload_tail (h : parseLfPayload 4 p = some r ∨ parseLfPayload 5 p = some r) : p.length = 0 ∨ p.length = 6 := by
  simp only [parseLfPayload] at h
  split at h
  · assumption
  · rcases h with h | h <;> cases h

theorem parseLfPayload_cut (h : parseLfPayload 6 p = some r) :
    (p.length = 6 ∨ p.length = 12) ∧ field p 0 1 < 2 ∧ 1 ≤ field p 5 1 ∧ field p 5 1 ≤ 8 := by
  simp only [parseLfPayload] at h
  split at h
  · obtain rfl := Option.some.inj h
    rename_i hc
    simp only [LfRecord.inRange, decide_eq_true_eq, ofNat_toNat_byte (field_byte_lt _ _)] at hin
    exact ⟨hc.1, hc.2, hin⟩
  · cases h

end

theorem parseLfPayload_kind {p : List Byte} {r : LfRecord} {kind : Nat} (h : parseLfPayload kind p = some r) : 1 ≤ kind ∧ kind ≤ 6 := by
  unfold parseLfPayload at h
  split at h
  iterate 6 exact ⟨by decide, by decide⟩
  cases h

/-- A record that is read has the form of its kind (R36, 12.5). -/
theorem parseLf_form {bs : List Byte} {r : LfRecord} (h : parseLf bs = some r) :
    let n := field bs 0 1
    let byte (i : Nat) : Nat := field bs (2 + i) 1
    bs.length = n + 4 ∧ field bs (n + 2) 2 = (crcBytes (bs.take (n + 2))).toNat ∧
      match field bs 1 1 with
      | 1 => n % 3 = 0 ∧ 1 ≤ n / 3 ∧ n / 3 ≤ 32 ∧ ∀ i < n / 3, byte (3 * i) ≤ 31
      | 2 => byte 0 < 64 ∧ (n = 10 ∧ byte 5 < 2 ∨ n = 14 ∧ 2 ≤ byte 5 ∧ byte 5 < 4)
      | 3 => (n = 1 ∨ n = 7) ∧ byte 0 < 2
      | 4 | 5 => n = 0 ∨ n = 6
      | 6 => (n = 6 ∨ n = 12) ∧ byte 0 < 2 ∧ 1 ≤ byte 5 ∧ byte 5 ≤ 8
      | _ => False := by
  intro n byte
  unfold parseLf at h
  simp only at h
  split at h
  · cases h
  · rename_i hc
    obtain ⟨hlen, hcrc⟩ : bs.length = n + 4 ∧ field bs (n + 2) 2 = (crcBytes (bs.take (n + 2))).toNat := by
      simpa only [not_or, ne_eq, not_not] using hc
    refine ⟨hlen, hcrc, ?_⟩
    obtain ⟨hparse, hin⟩ := Option.filter_eq_some_iff.1 h
    have hpay : ((bs.drop 2).take n).length = n := by simp [hlen]
    have hbyte : ∀ i, i < n → field ((bs.drop 2).take n) i 1 = byte i := fun i hi => field_payload hi
    have hkind := parseLfPayload_kind hparse
    change parseLfPayload (field bs 1 1) ((bs.drop 2).take n) = some r at hparse
    obtain hk | hk | hk | hk | hk | hk : field bs 1 1 = 1 ∨ field bs 1 1 = 2 ∨ field bs 1 1 = 3 ∨ field bs 1 1 = 4 ∨ field bs 1 1 = 5 ∨
      field bs 1 1 = 6 := by omega
    all_goals rw [hk] at hparse ⊢
    · obtain ⟨h1, h2, h3, h4⟩ := parseLfPayload_sampleSet hin hparse
      rw [hpay] at h1 h2 h3 h4
      refine ⟨h1, h2, h3, fun i hi => ?_⟩
      rw [← hbyte (3 * i) (by omega)]
      exact h4 i hi
    · obtain ⟨h1, h2⟩ := parseLfPayload_declare hin hparse
      rw [hpay] at h2
      have hn : 6 ≤ n := by omega
      rw [hbyte 0 (by omega)] at h1
      rw [hbyte 5 (by omega)] at h2
      exact ⟨h1, h2⟩
    · obtain ⟨h1, h2⟩ := parseLfPayload_join hparse
      rw [hpay] at h1
      rw [hbyte 0 (by omega)] at h2
      exact ⟨h1, h2⟩
    · have h1 := parseLfPayload_tail (.inl hparse)
      rwa [hpay] at h1
    · have h1 := parseLfPayload_tail (.inr hparse)
      rwa [hpay] at h1
    · obtain ⟨h1, h2, h3, h4⟩ := parseLfPayload_cut hin hparse
      rw [hpay] at h1
      have hn : 6 ≤ n := by omega
      rw [hbyte 0 (by omega)] at h2
      rw [hbyte 5 (by omega)] at h3 h4
      exact ⟨h1, h2, h3, h4⟩

/-- What a failing record leaves (R36). -/
theorem lfFail_eq (s : State) : lfFail s = { s with
    lfr := { s.lfr with assembler := [], errors := if s.lfr.errors < 65535 then s.lfr.errors + 1 else s.lfr.errors }
    sup := if s.sup.markLf then s.sup else { s.sup with
      fault := some ⟨.lfCheck, .lfr, none, none, s.ros.clock⟩, markLf := true
      faultCount := if s.sup.faultCount < 65535 then s.sup.faultCount + 1 else s.sup.faultCount } } := by
  unfold lfFail State.markLfCheck
  simp only
  split <;> rfl

/-- Settles O13: a record that is read has the form of its kind, so that one without it fails; the typed rows fail by their range. -/
theorem lineFeedFailureCounted : Obligations.LineFeedFailureCounted := by
  intro s c hr fails hc
  rcases hc with rfl | ⟨bs, rfl, hf⟩ | ⟨hwf, ⟨es, rfl⟩ | ⟨k, h, r, d, o, rfl⟩ | ⟨a, q, l, p, rfl⟩⟩
  · exact receiving_of_eq hr (lfFail_eq s)
  · refine receiving_of_eq hr (Eq.trans ?_ (lfFail_eq s))
    unfold lfBytes
    cases hp : parseLf bs with
    | none => rfl
    | some r =>
      obtain ⟨h1, h2, h3⟩ := parseLf_form hp
      rcases hf with hf | hf | hf
      · exact absurd h1 hf
      · exact absurd h2 hf
      · exact absurd h3 hf
  all_goals
    refine receiving_of_eq hr (Eq.trans ?_ (lfFail_eq s))
    exact if_neg (by simpa [Instr.wf, LfRecord.inRange] using hwf)

/-! ### Event positions (R37) -/

/-- Settles O14: the position by how it stands to the odometer and the last position. -/
theorem eventPositionSettled : Obligations.EventPositionSettled := by
  intro s position hle x u
  obtain ⟨h1, h2⟩ := settlePosition_bounds position hle
  refine ⟨h1, h2, fun hn => ?_, fun p hp => ⟨fun hlo hhi => ?_, fun hout => ?_⟩⟩
  · subst hn
    exact ⟨rfl, rfl⟩
  · subst hp
    have hx : settlePosition s.smp.odometer s.lfr.lastPos (some p) = (p.toNat, false) := by
      simp [settlePosition, Nat.not_lt.2 hlo, Nat.not_lt.2 hhi]
    refine ⟨congrArg Prod.fst hx, ?_⟩
    change (takePosition (some p) s).2 = { s with lfr := { s.lfr with lastPos := (takePosition (some p) s).1 } }
    simp [takePosition, hx]
  · subst hp
    have hx : settlePosition s.smp.odometer s.lfr.lastPos (some p) =
        (if s.smp.odometer < p.toNat then s.smp.odometer else s.lfr.lastPos, true) := by
      by_cases hodo : s.smp.odometer < p.toNat
      · simp [settlePosition, hodo]
      · have hlast : p.toNat < s.lfr.lastPos := hout.resolve_left hodo
        simp [settlePosition, hodo, hlast]
    have hx1 : x = if s.smp.odometer < p.toNat then s.smp.odometer else s.lfr.lastPos := congrArg Prod.fst hx
    refine ⟨hx1, ?_⟩
    rw [hx1]
    change (takePosition (some p) s).2 = _
    simp only [takePosition, hx, if_true]
    rfl

/-! ### Declarations (R38, R39) -/

theorem lfArrives_declare {coil : Coil} {headFirst resumed : Bool} {declared : BitVec 32} {offset : Option (BitVec 32)}
    (h : (Instr.declare coil headFirst resumed declared offset).wf = true) (s : State) :
    lfArrives (.declare coil headFirst resumed declared offset) s = declareCoil coil headFirst declared.toNat (offset.map BitVec.toNat) s :=
  if_pos h

theorem lookupLength_offBus {c : Coil} (h : c.station = 0 ∨ c.station = 63) (s : State) : lookupLength c s = (none, .none, s) := by
  rcases h with h | h <;> simp [lookupLength, busStation, h]

theorem busStation_of {st : BitVec 6} (h0 : st ≠ 0) (h63 : st ≠ 63) : busStation st = true := by
  simpa [busStation] using ⟨h0, h63⟩

theorem lookupLength_own {c : Coil} {s : State} (h0 : c.station ≠ 0) (h63 : c.station ≠ 63) (hown : c.station = s.settings.station) :
    lookupLength c s = ((s.findExit c).map ExitRec.length, .none, s) := by
  have hb := busStation_of h0 h63
  unfold lookupLength
  rw [hb, if_neg (by decide), if_pos hown]

theorem lookupCache_hit {c : Coil} {s : State} {r : LineageRec} (h : s.lch.cache.find? (fun x => x.coil == c) = some r) :
    s.lookupCache c = (some r, { s with lch := { s.lch with cache := r :: s.lch.cache.filter fun x => x.coil != c } }) := by
  simp only [State.lookupCache, cacheTouch, h, Option.map_some]

theorem lookupCache_miss {c : Coil} {s : State} (h : s.lch.cache.find? (fun x => x.coil == c) = none) : s.lookupCache c = (none, s) := by
  simp only [State.lookupCache, cacheTouch, h, Option.map_none]

section
variable {c : Coil} {s : State} (h0 : c.station ≠ 0) (h63 : c.station ≠ 63) (hother : c.station ≠ s.settings.station)
include h0 h63 hother

theorem lookupLength_cached {r : LineageRec} (h : s.lch.cache.find? (fun x => x.coil == c) = some r) : lookupLength c s =
    (some r.length, .none, { s with lch := { s.lch with cache := r :: s.lch.cache.filter fun x => x.coil != c } }) := by
  have hb := busStation_of h0 h63
  unfold lookupLength
  rw [hb, if_neg (by decide), if_neg hother, lookupCache_hit h]

theorem lookupLength_wanted (h : s.lch.cache.find? (fun x => x.coil == c) = none) : lookupLength c s = (none, .wanted, s) := by
  have hb := busStation_of h0 h63
  unfold lookupLength
  rw [hb, if_neg (by decide), if_neg hother, lookupCache_miss h]

end

/-- What a declaration that has room adds, once its length is known or looked up (R38). -/
def declared (coil : Coil) (headFirst : Bool) (offset : Option Nat) (found : Option Nat × LengthState) (s : State) : State :=
  { s with ctr := { s.ctr with
      nextId := s.ctr.nextId + 1
      decls := s.ctr.decls ++ [⟨s.ctr.nextId, coil, headFirst, found.1, offset, found.2⟩] } }

theorem declareCoil_full {s : State} (coil : Coil) (headFirst : Bool) (n : Nat) (offset : Option Nat) (h : 8 ≤ s.ctr.decls.length) :
    declareCoil coil headFirst n offset s = s.writeFault .declareOverflow .ctr (some coil) none := if_pos h

theorem declareCoil_length {s : State} (coil : Coil) (headFirst : Bool) {n : Nat} (offset : Option Nat) (h : s.ctr.decls.length < 8)
    (hn : n ≠ 0) : declareCoil coil headFirst n offset s = declared coil headFirst offset (some n, .none) s := by
  have hl : lengthOf n = some n := if_neg hn
  have hroom : ¬ Config.declCap ≤ s.ctr.decls.length := Nat.not_le.2 h
  unfold declareCoil
  rw [if_neg hroom, hl]
  rfl

theorem declareCoil_lookup {s t : State} (coil : Coil) (headFirst : Bool) (offset : Option Nat) (h : s.ctr.decls.length < 8)
    {length : Option Nat} {lq : LengthState} (hl : lookupLength coil s = (length, lq, t)) :
    declareCoil coil headFirst 0 offset s = declared coil headFirst offset (length, lq) t := by
  have hz : lengthOf 0 = none := rfl
  have hroom : ¬ Config.declCap ≤ s.ctr.decls.length := Nat.not_le.2 h
  unfold declareCoil
  rw [if_neg hroom, hz]
  simp only [hl]
  rfl

/-- Settles O15: a full queue, and the length of a declaration by what it declares and where its coil comes from. -/
theorem declareQueued : Obligations.DeclareQueued := by
  intro s coil headFirst resumed n offset hr hwf c
  have harr := lfArrives_declare hwf s
  refine ⟨fun hfull => ?_, fun hroom => ?_⟩
  · exact receiving_of_eq hr (harr.trans (declareCoil_full _ _ _ _ hfull))
  · by_cases hn : n = 0
    · subst hn
      have hdone : ∀ {length : Option Nat} {lq : LengthState} {cache : List LineageRec},
          lookupLength coil s = (length, lq, { s with lch := { s.lch with cache } }) → ∃ t, exec c s = .next t ∧
            Carried (declared coil headFirst (offset.map BitVec.toNat) (length, lq) { s with lch := { s.lch with cache } }) t :=
        fun hl => receiving_of_eq hr (harr.trans (declareCoil_lookup _ _ _ hroom hl))
      by_cases hoff : coil.station = 0 ∨ coil.station = 63
      · obtain ⟨t, h1, h2⟩ := hdone (cache := s.lch.cache) (lookupLength_offBus hoff s)
        exact ⟨t, _, _, _, h1, h2, fun h => absurd rfl h, fun _ _ => ⟨rfl, rfl, rfl⟩, fun _ h0 h63 => (hoff.elim h0 h63).elim,
          fun _ h0 h63 => (hoff.elim h0 h63).elim⟩
      · obtain ⟨h0, h63⟩ : coil.station ≠ 0 ∧ coil.station ≠ 63 := by simpa only [not_or] using hoff
        by_cases hown : coil.station = s.settings.station
        · obtain ⟨t, h1, h2⟩ := hdone (cache := s.lch.cache) (lookupLength_own h0 h63 hown)
          exact ⟨t, _, _, _, h1, h2, fun h => absurd rfl h, fun _ h => absurd h hoff, fun _ _ _ _ => ⟨rfl, rfl, rfl⟩,
            fun _ _ _ h => absurd hown h⟩
        · cases hfind : s.lch.cache.find? fun x => x.coil == coil with
          | none =>
            obtain ⟨t, h1, h2⟩ := hdone (cache := s.lch.cache) (lookupLength_wanted h0 h63 hown hfind)
            exact ⟨t, _, _, _, h1, h2, fun h => absurd rfl h, fun _ h => absurd h hoff, fun _ _ _ h => absurd h hown,
              fun _ _ _ _ => ⟨fun r hr => (by cases hr), fun _ => ⟨rfl, rfl, rfl⟩⟩⟩
          | some r =>
            obtain ⟨t, h1, h2⟩ := hdone (lookupLength_cached h0 h63 hown hfind)
            exact ⟨t, _, _, _, h1, h2, fun h => absurd rfl h, fun _ h => absurd h hoff, fun _ _ _ h => absurd h hown,
              fun _ _ _ _ => ⟨fun q hq => (by cases hq; exact ⟨rfl, rfl, rfl⟩), fun h => (by cases h)⟩⟩
    · have hne : n.toNat ≠ 0 := fun h => hn (BitVec.eq_of_toNat_eq h)
      obtain ⟨t, h1, h2⟩ := receiving_of_eq hr (harr.trans (declareCoil_length coil headFirst (offset.map BitVec.toNat) hroom hne))
      exact ⟨t, _, _, s.lch.cache, h1, h2, fun _ => ⟨rfl, rfl, rfl⟩, fun h => absurd h hn, fun h => absurd h hn, fun h => absurd h hn⟩

end Sys2Proof.Machine

/-! PROOFS. Frames that join the transmit queue, and the head frame that an idle line starts (R85, R90, R91). -/

namespace Sys2Proof.Machine

/-! ### The head of a queue (R90) -/

/-- The frame at place `j` is the head: of lowest class, and of those the first. -/
def IsHead (q : List TxEntry) (j : Nat) (e : TxEntry) : Prop :=
  q[j]? = some e ∧ ∀ (i : Nat) (x : TxEntry), q[i]? = some x →
    e.frame.kind.cls ≤ x.frame.kind.cls ∧ (x.frame.kind.cls = e.frame.kind.cls → j ≤ i)

theorem IsHead.unique {q : List TxEntry} {i j : Nat} {e x : TxEntry} (h : IsHead q j e) (k : IsHead q i x) : j = i ∧ e = x := by
  obtain ⟨hj, hle⟩ := h
  obtain ⟨hi, kle⟩ := k
  obtain ⟨h1, h2⟩ := hle i x hi
  obtain ⟨k1, k2⟩ := kle j e hj
  have hji : j = i := le_antisymm (h2 (le_antisymm k1 h1)) (k2 (le_antisymm h1 k1))
  subst hji
  exact ⟨rfl, Option.some.inj (hj.symm.trans hi)⟩

theorem lowestClass_none {q : List TxEntry} : lowestClass q = none ↔ q = [] := by
  cases q with
  | nil => simp [lowestClass]
  | cons e es =>
    simp only [lowestClass]
    constructor
    · intro h
      split at h
      · cases h
      · split at h <;> cases h
    · intro h
      cases h

theorem lowestClass_some {q : List TxEntry} {j k : Nat} (h : lowestClass q = some (j, k)) :
    ∃ e, IsHead q j e ∧ e.frame.kind.cls = k := by
  induction q generalizing j k with
  | nil => cases h
  | cons y es ih =>
    simp only [lowestClass] at h
    cases hl : lowestClass es with
    | none =>
      rw [hl] at h
      obtain ⟨rfl, rfl⟩ : 0 = j ∧ y.frame.cls = k := by simpa using h
      obtain rfl := lowestClass_none.1 hl
      refine ⟨y, ⟨rfl, fun i x hx => ?_⟩, rfl⟩
      obtain rfl : y = x := by
        cases i with
        | zero => simpa using hx
        | succ i => simp at hx
      exact ⟨le_rfl, fun _ => Nat.zero_le i⟩
    | some x =>
      obtain ⟨i, m⟩ := x
      rw [hl] at h
      obtain ⟨e, ⟨he, hle⟩, hm⟩ := ih hl
      simp only at h
      split at h
      · rename_i hlt
        obtain ⟨rfl, rfl⟩ : i + 1 = j ∧ m = k := by simpa using h
        refine ⟨e, ⟨by simpa using he, fun n x hx => ?_⟩, hm⟩
        have hcls : y.frame.cls = y.frame.kind.cls := rfl
        cases n with
        | zero =>
          obtain rfl : y = x := by simpa using hx
          exact ⟨by omega, fun h => by omega⟩
        | succ n =>
          obtain ⟨h1, h2⟩ := hle n x (by simpa using hx)
          exact ⟨h1, fun h => Nat.succ_le_succ (h2 h)⟩
      · rename_i hlt
        obtain ⟨rfl, rfl⟩ : 0 = j ∧ y.frame.cls = k := by simpa using h
        have hcls : y.frame.cls = y.frame.kind.cls := rfl
        refine ⟨y, ⟨rfl, fun n x hx => ⟨?_, fun _ => Nat.zero_le n⟩⟩, rfl⟩
        cases n with
        | zero =>
          obtain rfl : y = x := by simpa using hx
          exact le_rfl
        | succ n =>
          obtain ⟨h1, _⟩ := hle n x (by simpa using hx)
          omega

theorem exists_head {q : List TxEntry} (h : q ≠ []) : ∃ j e, IsHead q j e := by
  cases hl : lowestClass q with
  | none => exact absurd (lowestClass_none.1 hl) h
  | some x =>
    obtain ⟨e, he, _⟩ := lowestClass_some hl
    exact ⟨_, e, he⟩

theorem lowestClass_of_head {q : List TxEntry} {j : Nat} {e : TxEntry} (h : IsHead q j e) : lowestClass q = some (j, e.frame.kind.cls) := by
  cases hl : lowestClass q with
  | none => rw [lowestClass_none.1 hl] at h; cases h.1
  | some x =>
    obtain ⟨i, k⟩ := x
    obtain ⟨y, hy, rfl⟩ := lowestClass_some hl
    obtain ⟨rfl, rfl⟩ := h.unique hy
    rfl

/-- The head of a queue stays the head when frames of no lower class join it. -/
theorem IsHead.append {q xs : List TxEntry} {j : Nat} {e : TxEntry} (h : IsHead q j e)
    (hx : ∀ x ∈ xs, e.frame.kind.cls ≤ x.frame.kind.cls) : IsHead (q ++ xs) j e := by
  obtain ⟨hj, hle⟩ := h
  have hlt : j < q.length := List.getElem?_eq_some_iff.1 hj |>.1
  refine ⟨by rw [List.getElem?_append_left hlt]; exact hj, fun i x hi => ?_⟩
  by_cases hiq : i < q.length
  · rw [List.getElem?_append_left hiq] at hi
    exact hle i x hi
  · rw [List.getElem?_append_right (Nat.not_lt.1 hiq)] at hi
    exact ⟨hx x (List.mem_of_getElem? hi), fun _ => by omega⟩

/-! ### The start of the head (R85) -/

theorem startHead_of_head {s : State} {j : Nat} {e : TxEntry} (hrx : s.bus.rx = .idle) (hh : IsHead s.bus.queue j e)
    (hm : s.mayStart e = true) : s.startHead = { s with bus := { s.bus with
      queue := s.bus.queue.set j { e with onLine := true }, rx := .receiving, driven := false, observed := false } } := by
  unfold State.startHead
  rw [if_pos hrx, lowestClass_of_head hh]
  simp only [hh.1, if_pos hm]

theorem startHead_busy {s : State} (hrx : s.bus.rx ≠ .idle) : s.startHead = s := if_neg hrx

theorem startHead_refused {s : State} (h : ∀ j e, IsHead s.bus.queue j e → s.mayStart e = false) : s.startHead = s := by
  unfold State.startHead
  split
  · split
    · rfl
    · rename_i hl
      obtain ⟨e, he, _⟩ := lowestClass_some hl
      simp only [he.1, h _ e he]
      rfl
  · rfl

theorem mayStart_iff {s : State} (hr : s.running = true) (e : TxEntry) : s.mayStart e = true ↔
    s.sup.resetPin = false ∧ s.bus.stuck = false ∧ (s.bus.muted = false ∨ e.owner = .busFinal) := by
  have hrec : s.receives = !s.sup.resetPin := by
    cases hp : s.sup.resetPin with
    | false => exact (s.receives_iff).2 ⟨hr, hp⟩
    | true => simp [State.receives, hp]
  simp only [State.mayStart, hrec, Bool.and_eq_true, Bool.or_eq_true, Bool.not_eq_true', beq_iff_eq, and_assoc]

/-! ### Joining frames (R85, R90) -/

/-- One frame joins. -/
theorem join_joins {s : State} (hr : s.running = true) (f : Frame) (o : Owner) :
    ∃ b, s.join f o = { s with bus := b } ∧ s.Joins [.fresh f o] b := by
  have hq : s.bus.queue ++ [TxEntry.fresh f o] ≠ [] := by simp
  obtain ⟨j, e, he⟩ := exists_head hq
  have hmay := mayStart_iff (s := { s with bus := { s.bus with queue := s.bus.queue ++ [.fresh f o] } }) hr e
  unfold State.join
  by_cases hstart : s.bus.rx = .idle ∧ State.mayStart { s with bus := { s.bus with queue := s.bus.queue ++ [.fresh f o] } } e = true
  · obtain ⟨hrx, hm⟩ := hstart
    obtain ⟨hreset, hstuck, hmuted⟩ := hmay.1 hm
    refine ⟨_, startHead_of_head hrx he hm, fun hno => ?_, fun i x hi => ?_⟩
    · exact absurd ⟨by simp, hreset, hrx, hstuck, he.1, he.2, hmuted⟩ (hno j e)
    · obtain ⟨_, _, _, _, h1, h2, _⟩ := hi
      obtain ⟨rfl, rfl⟩ := he.unique ⟨h1, h2⟩
      rfl
  · refine ⟨{ s.bus with queue := s.bus.queue ++ [.fresh f o] }, ?_, fun _ => rfl, fun i x hi => ?_⟩
    · by_cases hrx : s.bus.rx = .idle
      · refine startHead_refused fun i x hx => ?_
        obtain ⟨rfl, rfl⟩ := he.unique hx
        simpa using fun h => hstart ⟨hrx, h⟩
      · exact startHead_busy hrx
    · obtain ⟨_, h1, h2, h3, h4, h5, h6⟩ := hi
      obtain ⟨rfl, rfl⟩ := he.unique ⟨h4, h5⟩
      exact absurd ⟨h2, hmay.2 ⟨h1, h3, h6⟩⟩ hstart

/-- No frame joins. -/
theorem joins_nil (s : State) : s.Joins [] s.bus := by
  refine ⟨fun _ => by rw [List.append_nil], fun j e h => absurd rfl h.1⟩

/-- What a frame's joining leaves for those that join after it: an unmuted part, whether the line is free, and whether the head may
start. -/
theorem joins_cons {s u : State} {x : TxEntry} {xs : List TxEntry} {b : Bus} (hm : s.bus.muted = false)
    (hclass : ∀ y ∈ xs, x.frame.kind.cls ≤ y.frame.kind.cls) (hx : s.Joins [x] u.bus) (hreset : u.sup.resetPin = s.sup.resetPin)
    (hxs : u.Joins xs b) : s.Joins (x :: xs) b := by
  obtain ⟨j, e, he⟩ := exists_head (q := s.bus.queue ++ [x]) (by simp)
  obtain ⟨hrest, hstart⟩ := hx
  obtain ⟨urest, ustart⟩ := hxs
  have hle : e.frame.kind.cls ≤ x.frame.kind.cls := (he.2 s.bus.queue.length x (by simp)).1
  have hall : IsHead (s.bus.queue ++ x :: xs) j e := by
    have := he.append (xs := xs) fun y hy => hle.trans (hclass y hy)
    simpa using this
  by_cases hcan : s.sup.resetPin = false ∧ s.bus.rx = .idle ∧ s.bus.stuck = false
  · obtain ⟨h1, h2, h3⟩ := hcan
    have hbus := hstart j e ⟨by simp, h1, h2, h3, he.1, he.2, .inl hm⟩
    have hb : b = { u.bus with queue := u.bus.queue ++ xs } := urest fun i y hy => by
      obtain ⟨_, _, hidle, _⟩ := hy
      rw [hbus] at hidle
      cases hidle
    have hlt : j < (s.bus.queue ++ [x]).length := (List.getElem?_eq_some_iff.1 he.1).1
    refine ⟨fun hno => absurd ⟨by simp, h1, h2, h3, hall.1, hall.2, .inl hm⟩ (hno j e), fun i y hy => ?_⟩
    obtain ⟨_, _, _, _, k1, k2, _⟩ := hy
    obtain ⟨rfl, rfl⟩ := hall.unique ⟨k1, k2⟩
    rw [hb, hbus]
    have hset : (s.bus.queue ++ [x]).set j { e with onLine := true } ++ xs = (s.bus.queue ++ x :: xs).set j { e with onLine := true } := by
      rw [← List.set_append_left _ _ hlt, List.append_assoc]
      rfl
    simp only [hset]
  · have hbus : u.bus = { s.bus with queue := s.bus.queue ++ [x] } := hrest fun i y hy => by
      obtain ⟨_, h1, h2, h3, _⟩ := hy
      exact hcan ⟨h1, h2, h3⟩
    have hb : b = { u.bus with queue := u.bus.queue ++ xs } := urest fun i y hy => by
      obtain ⟨_, h1, h2, h3, _⟩ := hy
      rw [hbus] at h2 h3
      exact hcan ⟨hreset ▸ h1, h2, h3⟩
    refine ⟨fun _ => ?_, fun i y hy => ?_⟩
    · rw [hb, hbus]
      simp
    · obtain ⟨_, h1, h2, h3, _⟩ := hy
      exact absurd ⟨h1, h2, h3⟩ hcan

end Sys2Proof.Machine

/-! PROOFS. Finalization and announcing of exit records, one after the other (R53, R54, R56). -/

namespace Sys2Proof.Machine

/-! ### Announcements that join -/

/-- The COIL-ANNOUNCE frame of a record, as CTR offers it (R56). -/
def announced (l : LineageRec) : TxEntry := ⟨⟨.coilAnnounce, 63, 0, recordBytes 0 l⟩, .ctrAnnounce, 0, 0, false, false⟩

theorem joins_queue {s : State} {xs : List TxEntry} {b : Bus} (h : s.Joins xs b) :
    b.queue.length = s.bus.queue.length + xs.length ∧ b.muted = s.bus.muted := by
  obtain ⟨hrest, hstart⟩ := h
  by_cases hx : ∃ j e, xs ≠ [] ∧ s.sup.resetPin = false ∧ s.bus.rx = .idle ∧ s.bus.stuck = false ∧ (s.bus.queue ++ xs)[j]? = some e ∧
      (∀ (i : Nat) (x : TxEntry), (s.bus.queue ++ xs)[i]? = some x →
        e.frame.kind.cls ≤ x.frame.kind.cls ∧ (x.frame.kind.cls = e.frame.kind.cls → j ≤ i)) ∧
      (s.bus.muted = false ∨ e.owner = .busFinal)
  · obtain ⟨j, e, he⟩ := hx
    rw [hstart j e he]
    simp
  · rw [hrest fun j e he => hx ⟨j, e, he⟩]
    simp

theorem Joins.congr {s u : State} {xs : List TxEntry} {b : Bus} (h : s.Joins xs b) (hb : u.bus = s.bus)
    (hr : u.sup.resetPin = s.sup.resetPin) : u.Joins xs b := by
  unfold State.Joins at h ⊢
  rw [hb, hr]
  exact h

theorem announcedOf_congr {s u : State} (hb : u.bus = s.bus) (ls : List LineageRec) : u.announcedOf ls = s.announcedOf ls := by
  unfold State.announcedOf
  rw [hb]

/-- A record is announced at once where MUTED is clear and the queue has room, and none where not (R56). -/
theorem announcedOf_cons {s : State} (l : LineageRec) (ls : List LineageRec) {u : State} (hm : u.bus.muted = s.bus.muted)
    (hroom : (s.bus.muted = false ∧ s.bus.queue.length < 16) → u.bus.queue.length = s.bus.queue.length + 1) :
    s.announcedOf (l :: ls) = if s.bus.muted = false ∧ s.bus.queue.length < 16 then l :: u.announcedOf ls else [] := by
  unfold State.announcedOf
  rw [hm]
  by_cases hc : s.bus.muted = false ∧ s.bus.queue.length < 16
  · have hlen := hroom hc
    obtain ⟨h1, h2⟩ := hc
    have htake : 16 - s.bus.queue.length = (16 - u.bus.queue.length) + 1 := by omega
    simp [h1, h2, htake]
  · rw [if_neg hc]
    cases hmu : s.bus.muted with
    | true => rfl
    | false =>
      have hfull : 16 - s.bus.queue.length = 0 := by
        have : ¬ s.bus.queue.length < 16 := fun h => hc ⟨hmu, h⟩
        omega
      simp [hfull]

theorem announces_iff {s : State} : (!s.bus.muted && decide (s.bus.queue.length < Config.txCap)) = true ↔
    s.bus.muted = false ∧ s.bus.queue.length < 16 := by
  rw [Bool.and_eq_true, Bool.not_eq_true', decide_eq_true_eq]
  rfl

theorem announce_room {s : State} {r : ExitRec} {l : LineageRec} (hl : r.lineage = some l)
    (h : s.bus.muted = false ∧ s.bus.queue.length < 16) : s.announce r = s.join (announceFrame l) .ctrAnnounce := by
  have hc := announces_iff.2 h
  simp only [State.announce, hl, if_pos hc]

theorem announce_mark {s : State} {r : ExitRec} {l : LineageRec} (hl : r.lineage = some l)
    (h : ¬ (s.bus.muted = false ∧ s.bus.queue.length < 16)) :
    s.announce r = { s with ctr := { s.ctr with exits := s.ctr.exits.map (setAnnounce true r.coil) } } := by
  have hc := mt announces_iff.1 h
  simp only [State.announce, hl, if_neg hc]

/-! ### One record made FINAL -/

/-- The lineage record of a PENDING record as it becomes FINAL (R54, R61). -/
def ExitRec.finalLineage (es : List Entry) (expiry : Bool) (r : ExitRec) : Option LineageRec := (r.finalized es expiry).lineage

/-- An exit record after the records of the coils `cs` became FINAL, of which `now` are announced at once (R54, R56). -/
def ExitRec.after (es : List Entry) (expiry : Bool) (cs : List Coil) (now : List LineageRec) (r : ExitRec) : ExitRec :=
  if r.coil ∈ cs then ExitRec.markedBy now (r.finalized es expiry) else r

theorem ExitRec.markedBy_coil (now : List LineageRec) (r : ExitRec) : (r.markedBy now).coil = r.coil := by
  unfold ExitRec.markedBy
  split <;> rfl

theorem ExitRec.after_coil (es : List Entry) (expiry : Bool) (cs : List Coil) (now : List LineageRec) (r : ExitRec) :
    (r.after es expiry cs now).coil = r.coil := by
  unfold ExitRec.after
  split
  · rw [ExitRec.markedBy_coil, ExitRec.finalized_coil]
  · rfl

section
variable {es : List Entry} {expiry : Bool} {r : ExitRec} {os : List Overlap} {n : Nat} (hb : r.body = .pending os n)
include hb

theorem ExitRec.finalized_of_pending : r.finalized es expiry =
    { r with timedOut := r.timedOut || expiry, body := .final (os.map (buildPiece es r.oStart)) false } := by
  simp only [ExitRec.finalized, hb]

theorem ExitRec.finalLineage_of_pending : r.finalLineage es expiry =
    some { r.lineageWith (os.map (buildPiece es r.oStart)) with timedOut := r.timedOut || expiry } := by
  rw [ExitRec.finalLineage, ExitRec.finalized_of_pending hb]
  rfl

end

theorem findExit_of_mem {s : State} {r : ExitRec} (hr : r ∈ s.ctr.exits) (hn : (s.ctr.exits.map (·.coil)).Nodup) :
    s.findExit r.coil = some r := by
  unfold State.findExit
  cases hf : s.ctr.exits.find? fun x => x.coil == r.coil with
  | none => exact absurd (List.find?_eq_none.1 hf r hr) (by simp)
  | some x =>
    have hx : x.coil = r.coil := by simpa using List.find?_some hf
    rw [List.inj_on_of_nodup_map hn (List.mem_of_find?_eq_some hf) hr hx]

/-- A PENDING record becomes FINAL: it is announced, or marked where the queue has no room or MUTED is set (R54, R56). -/
theorem finalizeCoil_eq {s : State} (hrun : s.running = true) {r : ExitRec} {os : List Overlap} {n : Nat} (hr : r ∈ s.ctr.exits)
    (hn : (s.ctr.exits.map (·.coil)).Nodup) (hb : r.body = .pending os n) (expiry : Bool) {l : LineageRec}
    (hl : r.finalLineage s.ctr.entries expiry = some l) :
    ∃ b, finalizeCoil expiry s r.coil = { s with
      ctr := { s.ctr with exits := s.ctr.exits.map (ExitRec.after s.ctr.entries expiry [r.coil] (s.announcedOf [l])) }, bus := b } ∧
      s.Joins ((s.announcedOf [l]).map announced) b := by
  have hfin := ExitRec.finalized_of_pending (es := s.ctr.entries) (expiry := expiry) hb
  have hcoil : l.coil = r.coil := by
    rw [ExitRec.finalLineage_of_pending hb] at hl
    obtain rfl := Option.some.inj hl
    rfl
  have hcongr : ∀ (mark : Bool) (now : List LineageRec), (now.any fun l => l.coil == r.coil) = !mark →
      s.ctr.exits.map (ExitRec.after s.ctr.entries expiry [r.coil] now) =
      s.ctr.exits.map fun x => if x.coil = r.coil then { r with
        timedOut := r.timedOut || expiry, body := .final (os.map (buildPiece s.ctr.entries r.oStart)) mark } else x := by
    intro mark now hnow
    refine List.map_congr_left fun x hx => ?_
    unfold ExitRec.after
    by_cases hxc : x.coil = r.coil
    · obtain rfl : x = r := List.inj_on_of_nodup_map hn hx hr hxc
      rw [if_pos (by simp), if_pos rfl, hfin]
      simp only [ExitRec.markedBy, hnow, Bool.not_not]
    · rw [if_neg (by simpa using hxc), if_neg hxc]
  have hone := announcedOf_cons (s := s) l [] (u := { s with bus := { s.bus with queue := s.bus.queue ++ [announced l] } }) rfl
    (fun _ => by simp)
  have hempty : State.announcedOf { s with bus := { s.bus with queue := s.bus.queue ++ [announced l] } } [] = [] := by
    unfold State.announcedOf
    split
    · rfl
    · exact List.take_nil
  rw [hempty] at hone
  unfold finalizeCoil
  rw [findExit_of_mem hr hn]
  simp only
  by_cases hc : s.bus.muted = false ∧ s.bus.queue.length < 16
  · rw [if_pos hc] at hone
    rw [announce_room (l := l) hl (by exact hc), hone, hcongr false [l] (by simp [hcoil]), hfin]
    obtain ⟨b, h1, h2⟩ := join_joins (s := { s with ctr := { s.ctr with exits := s.ctr.exits.map fun x => if x.coil = r.coil then { r with
        timedOut := r.timedOut || expiry, body := .final (os.map (buildPiece s.ctr.entries r.oStart)) false } else x } }) hrun
      (announceFrame l) .ctrAnnounce
    exact ⟨b, h1, h2⟩
  · rw [if_neg hc] at hone
    rw [announce_mark (l := l) hl (by exact hc), hone, hcongr true [] rfl, hfin]
    refine ⟨s.bus, ?_, joins_nil s⟩
    simp only [List.map_map]
    congr 2
    refine List.map_congr_left fun x hx => ?_
    simp only [Function.comp]
    by_cases hxc : x.coil = r.coil
    · simp only [if_pos hxc]
      exact if_pos rfl
    · simp only [if_neg hxc]
      exact if_neg hxc

end Sys2Proof.Machine

/-! PROOFS. The finalization check over a list of records, and the end of the RUNNING record (R43, R44, R53). -/

namespace Sys2Proof.Machine

/-! ### Which records are announced at once (R56) -/

theorem announcedOf_nil (s : State) : s.announcedOf [] = [] := by
  unfold State.announcedOf
  split
  · rfl
  · exact List.take_nil

theorem announcedOf_full {s : State} (h : ¬ (s.bus.muted = false ∧ s.bus.queue.length < 16)) (ls : List LineageRec) :
    s.announcedOf ls = [] := by
  unfold State.announcedOf
  cases hm : s.bus.muted with
  | true => rfl
  | false =>
    have hlen : ¬ s.bus.queue.length < 16 := fun hl => h ⟨hm, hl⟩
    have hz : 16 - s.bus.queue.length = 0 := by omega
    simp [hz]

theorem announcedOf_room {s : State} (h : s.bus.muted = false ∧ s.bus.queue.length < 16) (l : LineageRec) : s.announcedOf [l] = [l] := by
  obtain ⟨hm, hlen⟩ := h
  obtain ⟨k, hk⟩ : ∃ k, 16 - s.bus.queue.length = k + 1 := ⟨15 - s.bus.queue.length, by omega⟩
  simp [State.announcedOf, hm, hk]

theorem mem_announcedOf {s : State} {ls : List LineageRec} {l : LineageRec} (h : l ∈ s.announcedOf ls) : l ∈ ls := by
  unfold State.announcedOf at h
  split at h
  · cases h
  · exact List.mem_of_mem_take h

/-- The records announced of a list are the first, where it is announced, and those announced of the rest after it. -/
theorem announcedOf_split {s u : State} (l : LineageRec) (ls : List LineageRec) (hm : u.bus.muted = s.bus.muted)
    (hlen : u.bus.queue.length = s.bus.queue.length + (s.announcedOf [l]).length) :
    s.announcedOf (l :: ls) = s.announcedOf [l] ++ u.announcedOf ls := by
  by_cases hc : s.bus.muted = false ∧ s.bus.queue.length < 16
  · rw [announcedOf_room hc] at hlen ⊢
    rw [announcedOf_cons (s := s) (u := u) l ls hm fun _ => hlen, if_pos hc]
    rfl
  · rw [announcedOf_full hc] at hlen
    have hu : ¬ (u.bus.muted = false ∧ u.bus.queue.length < 16) := fun h => hc ⟨hm ▸ h.1, by have := h.2; simp only [List.length_nil] at hlen; omega⟩
    rw [announcedOf_full hc, announcedOf_full hc, announcedOf_full hu]
    rfl

/-- The first record's announcement joins, then those of the rest. -/
theorem joins_split {s u : State} {l : LineageRec} {ls : List LineageRec} {b : Bus}
    (hfirst : s.Joins ((s.announcedOf [l]).map announced) u.bus) (hreset : u.sup.resetPin = s.sup.resetPin)
    (hrest : u.Joins ((u.announcedOf ls).map announced) b) : s.Joins ((s.announcedOf [l] ++ u.announcedOf ls).map announced) b := by
  obtain ⟨hlen, hm⟩ := joins_queue hfirst
  by_cases hc : s.bus.muted = false ∧ s.bus.queue.length < 16
  · rw [announcedOf_room hc] at hfirst ⊢
    refine joins_cons hc.1 (fun y hy => ?_) hfirst hreset hrest
    obtain ⟨x, _, rfl⟩ := List.mem_map.1 hy
    exact le_rfl
  · rw [announcedOf_full hc] at hfirst hlen ⊢
    have hbus : u.bus = s.bus := by
      have := hfirst.1 fun j e he => he.1 rfl
      simpa using this
    exact Joins.congr hrest hbus.symm hreset.symm

/-! ### Records that become FINAL one after the other -/

/-- Announcements of other coils do not matter to a record's mark. -/
theorem ExitRec.markedBy_of_any {now now' : List LineageRec} {r : ExitRec}
    (h : (now.any fun l => l.coil == r.coil) = now'.any fun l => l.coil == r.coil) : r.markedBy now = r.markedBy now' := by
  unfold ExitRec.markedBy
  split
  · rfl
  · rw [h]

theorem any_coil_false {now : List LineageRec} {c : Coil} (h : ∀ l ∈ now, l.coil ≠ c) : (now.any fun l => l.coil == c) = false := by
  rw [List.any_eq_false]
  intro l hl
  simpa using h l hl

/-- A PENDING record. -/
def ExitRec.isPending (r : ExitRec) : Prop := ∃ os n, r.body = .pending os n

theorem ExitRec.finalLineage_coil {es : List Entry} {expiry : Bool} {r : ExitRec} {l : LineageRec}
    (h : r.finalLineage es expiry = some l) : l.coil = r.coil := by
  unfold ExitRec.finalLineage ExitRec.lineage at h
  split at h
  · cases h
  · obtain rfl := Option.some.inj h
    exact ExitRec.finalized_coil _ _ _

/-- The record of coil `c`, then those of the coils `cs`, become FINAL. -/
theorem ExitRec.after_after (es : List Entry) (expiry : Bool) {c : Coil} {cs : List Coil} (hc : c ∉ cs) {first rest : List LineageRec}
    (hfirst : ∀ l ∈ first, l.coil = c) (hrest : ∀ l ∈ rest, l.coil ≠ c) (r : ExitRec) :
    (r.after es expiry [c] first).after es expiry cs rest = r.after es expiry (c :: cs) (first ++ rest) := by
  by_cases hr : r.coil = c
  · have hnot : (r.after es expiry [c] first).coil ∉ cs := by rw [ExitRec.after_coil, hr]; exact hc
    rw [ExitRec.after, if_neg hnot]
    unfold ExitRec.after
    rw [if_pos (by simp [hr]), if_pos (by simp [hr])]
    refine ExitRec.markedBy_of_any ?_
    rw [List.any_append, ExitRec.finalized_coil, hr, any_coil_false hrest, Bool.or_false]
  · have hsame : r.after es expiry [c] first = r := if_neg (by simpa using hr)
    rw [hsame]
    unfold ExitRec.after
    by_cases hin : r.coil ∈ cs
    · rw [if_pos hin, if_pos (List.mem_cons_of_mem _ hin)]
      have hnone : (first.any fun l => l.coil == r.coil) = false := any_coil_false fun l hl => by
        rw [hfirst l hl]
        exact Ne.symm hr
      refine ExitRec.markedBy_of_any ?_
      rw [List.any_append, ExitRec.finalized_coil, hnone, Bool.false_or]
    · rw [if_neg hin, if_neg (by simpa [hr] using hin)]

/-- The records `rs` become FINAL in their order. -/
theorem finalizeAll (expiry : Bool) : ∀ (rs : List ExitRec) {s : State}, s.running = true → (s.ctr.exits.map (·.coil)).Nodup →
    (∀ r ∈ rs, r ∈ s.ctr.exits ∧ r.isPending) → (rs.map (·.coil)).Nodup →
    let now := s.announcedOf (rs.filterMap (ExitRec.finalLineage s.ctr.entries expiry))
    ∃ b, (rs.map (·.coil)).foldl (finalizeCoil expiry) s = { s with
      ctr := { s.ctr with exits := s.ctr.exits.map (ExitRec.after s.ctr.entries expiry (rs.map (·.coil)) now) }, bus := b } ∧
      s.Joins (now.map announced) b := by
  intro rs
  induction rs with
  | nil =>
    intro s _ _ _ _ now
    have hid : s.ctr.exits.map (ExitRec.after s.ctr.entries expiry [] now) = s.ctr.exits :=
      (List.map_congr_left fun x _ => if_neg (by simp)).trans (List.map_id _)
    have hnow : now = [] := announcedOf_nil s
    refine ⟨s.bus, ?_, hnow ▸ joins_nil s⟩
    rw [List.map_nil, hid]
    rfl
  | cons r rs ih =>
    intro s hrun hn hmem hnodup now
    obtain ⟨hr, os, n, hb⟩ := hmem r List.mem_cons_self
    rw [List.map_cons, List.nodup_cons] at hnodup
    obtain ⟨hnot, hnodup⟩ := hnodup
    obtain ⟨l, hl⟩ : ∃ l, r.finalLineage s.ctr.entries expiry = some l := ⟨_, ExitRec.finalLineage_of_pending hb⟩
    obtain ⟨b, hstep, hjoin⟩ := finalizeCoil_eq hrun hr hn hb expiry hl
    let u : State := { s with
      ctr := { s.ctr with exits := s.ctr.exits.map (ExitRec.after s.ctr.entries expiry [r.coil] (s.announcedOf [l])) }, bus := b }
    have hcoils : u.ctr.exits.map (·.coil) = s.ctr.exits.map (·.coil) := by
      simp only [u, List.map_map]
      exact List.map_congr_left fun x _ => ExitRec.after_coil _ _ _ _ x
    have hother : ∀ x ∈ rs, x.coil ≠ r.coil := fun x hx he => hnot (he ▸ List.mem_map_of_mem hx)
    obtain ⟨b', hrest, hjoins⟩ := ih (s := u) hrun (hcoils ▸ hn) (fun x hx => by
      obtain ⟨hx1, hx2⟩ := hmem x (List.mem_cons_of_mem _ hx)
      exact ⟨List.mem_map.2 ⟨x, hx1, if_neg (by simpa using hother x hx)⟩, hx2⟩) hnodup
    obtain ⟨hlen, hmuted⟩ := joins_queue hjoin
    have hnow : now = s.announcedOf [l] ++ u.announcedOf (rs.filterMap (ExitRec.finalLineage s.ctr.entries expiry)) := by
      change s.announcedOf ((r :: rs).filterMap _) = _
      rw [List.filterMap_cons, hl]
      exact announcedOf_split l _ hmuted (by rw [List.length_map] at hlen; exact hlen)
    have hafter : ∀ x, (ExitRec.after s.ctr.entries expiry [r.coil] (s.announcedOf [l]) x).after s.ctr.entries expiry (rs.map (·.coil))
        (u.announcedOf (rs.filterMap (ExitRec.finalLineage s.ctr.entries expiry))) =
          x.after s.ctr.entries expiry (r.coil :: rs.map (·.coil)) now := fun x => by
      rw [hnow]
      refine ExitRec.after_after _ _ hnot (fun y hy => ?_) (fun y hy => ?_) x
      · rw [List.mem_singleton.1 (mem_announcedOf hy)]
        exact ExitRec.finalLineage_coil hl
      · obtain ⟨z, hz, hzl⟩ := List.mem_filterMap.1 (mem_announcedOf hy)
        rw [ExitRec.finalLineage_coil hzl]
        exact hother z hz
    refine ⟨b', ?_, ?_⟩
    · rw [List.map_cons, List.foldl_cons, hstep, hrest]
      have hexits : (s.ctr.exits.map (ExitRec.after s.ctr.entries expiry [r.coil] (s.announcedOf [l]))).map
          (ExitRec.after s.ctr.entries expiry (rs.map (·.coil)) (u.announcedOf (rs.filterMap (ExitRec.finalLineage s.ctr.entries expiry)))) =
          s.ctr.exits.map (ExitRec.after s.ctr.entries expiry (r.coil :: rs.map (·.coil)) now) := by
        rw [List.map_map]
        exact List.map_congr_left fun x _ => hafter x
      rw [← hexits]
    · rw [hnow]
      exact joins_split (u := u) hjoin rfl hjoins

/-! ### The finalization check (R53) -/

theorem ExitRec.ready_of_pending {es : List Entry} {r : ExitRec} {os : List Overlap} {n : Nat} (h : r.body = .pending os n) :
    r.ready es = overlapsReady es os := by
  simp only [ExitRec.ready, h]
  rfl

theorem ExitRec.isPending_of_ready {es : List Entry} {r : ExitRec} (h : r.ready es = true) : r.isPending := by
  unfold ExitRec.ready at h
  split at h
  · exact ⟨_, _, ‹_›⟩
  · cases h

/-- An exit record after a check that reaches the records of the coils `reached` (R53). -/
theorem ExitRec.after_ready {exits : List ExitRec} (hn : (exits.map (·.coil)).Nodup) (es : List Entry) (reached : Coil → Bool)
    (now : List LineageRec) {r : ExitRec} (hr : r ∈ exits) :
    r.after es false ((exits.filter fun r => reached r.coil && r.ready es).map (·.coil)) now =
      if reached r.coil = true then r.checked es now else r := by
  have hmem : r.coil ∈ (exits.filter fun r => reached r.coil && r.ready es).map (·.coil) ↔ reached r.coil = true ∧ r.ready es = true := by
    constructor
    · intro h
      obtain ⟨x, hx, hxc⟩ := List.mem_map.1 h
      obtain ⟨hx, hxr⟩ := List.mem_filter.1 hx
      obtain rfl := List.inj_on_of_nodup_map hn hx hr hxc
      simpa using hxr
    · intro h
      exact List.mem_map_of_mem (List.mem_filter.2 ⟨hr, by simpa using h⟩)
  unfold ExitRec.after
  by_cases hreached : reached r.coil = true
  · rw [if_pos hreached]
    unfold ExitRec.checked
    cases hb : r.body with
    | pending os n =>
      rw [ExitRec.ready_of_pending hb] at hmem
      by_cases hready : overlapsReady es os = true
      · rw [if_pos (hmem.2 ⟨hreached, hready⟩), ExitRec.finalized_of_pending hb, Bool.or_false]
        simp only [if_pos hready]
      · rw [if_neg fun h => hready (hmem.1 h).2]
        simp only [if_neg hready]
    | final ps m =>
      refine if_neg fun h => ?_
      have := (hmem.1 h).2
      simp only [ExitRec.ready, hb] at this
      cases this
  · rw [if_neg hreached, if_neg fun h => hreached (hmem.1 h).1]

theorem finalLineage_ready (es : List Entry) (l : List ExitRec) (reached : Coil → Bool) :
    (l.filter fun r => reached r.coil && r.ready es).filterMap (ExitRec.finalLineage es false) =
      readyRecords es (l.filter fun r => reached r.coil) := by
  unfold readyRecords
  rw [List.filterMap_filter, List.filterMap_filter]
  refine List.filterMap_congr fun r _ => ?_
  by_cases hreached : reached r.coil = true
  · rw [if_pos hreached, hreached, Bool.true_and]
    cases hb : r.body with
    | pending os n =>
      rw [ExitRec.ready_of_pending hb, ExitRec.finalLineage_of_pending hb, Bool.or_false]
      rfl
    | final ps m => simp [ExitRec.ready, hb]
  · rw [if_neg hreached]
    simp [hreached]

/-- A check over the records that `reached` picks (R53, R54, R56). -/
theorem finalizeReady_eq {s : State} (hrun : s.running = true) (hn : (s.ctr.exits.map (·.coil)).Nodup) (reached : Coil → Bool) :
    let ls := readyRecords s.ctr.entries (s.ctr.exits.filter fun r => reached r.coil)
    ∃ b, finalizeReady reached s = { s with
      ctr := { s.ctr with exits :=
        (s.ctr.exits.map fun r => if reached r.coil = true then r.checked s.ctr.entries (s.announcedOf ls) else r) }, bus := b } ∧
      s.Joins ((s.announcedOf ls).map announced) b := by
  intro ls
  obtain ⟨b, h1, h2⟩ := finalizeAll false (s.ctr.exits.filter fun r => reached r.coil && r.ready s.ctr.entries) hrun hn
    (fun r hr => by
      obtain ⟨hr, hready⟩ := List.mem_filter.1 hr
      exact ⟨hr, ExitRec.isPending_of_ready (es := s.ctr.entries) (by simp only [Bool.and_eq_true] at hready; exact hready.2)⟩)
    (hn.sublist (List.filter_sublist.map _))
  rw [finalLineage_ready] at h1 h2
  refine ⟨b, h1.trans ?_, h2⟩
  have hexits : s.ctr.exits.map (ExitRec.after s.ctr.entries false
      ((s.ctr.exits.filter fun r => reached r.coil && r.ready s.ctr.entries).map (·.coil)) (s.announcedOf ls)) =
      s.ctr.exits.map fun r => if reached r.coil = true then r.checked s.ctr.entries (s.announcedOf ls) else r :=
    List.map_congr_left fun r hr => ExitRec.after_ready hn s.ctr.entries reached _ hr
  rw [hexits]

end Sys2Proof.Machine

/-! PROOFS. JOIN, TAIL-OUT, BREAK, and the finalization timer (3.3, 3.5, 3.6). -/

namespace Sys2Proof.Machine

/-! ### The end of the RUNNING record (R43, R44) -/

/-- The entry records with the RUNNING one ended at `x`. -/
theorem entries_endAt (x : Nat) (broken : Bool) (es : List Entry) : es.map (Entry.endAt x broken) =
    es.map fun e => if e.eEnd = none then { e with eEnd := some x, broken := e.broken || broken } else e := by
  refine List.map_congr_left fun e _ => ?_
  unfold Entry.endAt
  cases he : e.eEnd <;> simp

/-- The entry records that are needed among records that have all ended (R46). -/
theorem filter_needs {c : Ctr} {es : List Entry} (h : ∀ e ∈ es, e.eEnd.isSome) : es.filter c.needs =
    es.filter fun e => decide (c.segStart < e.eEnd.getD 0) || c.exits.any fun r => r.linksTo e.id := by
  refine List.filter_congr fun e he => ?_
  unfold Ctr.needs
  cases hx : e.eEnd with
  | none => have := h e he; rw [hx] at this; cases this
  | some x => rfl

theorem endAt_isSome (x : Nat) (broken : Bool) (es : List Entry) : ∀ e ∈ es.map (Entry.endAt x broken), e.eEnd.isSome := by
  intro e he
  obtain ⟨y, _, rfl⟩ := List.mem_map.1 he
  unfold Entry.endAt
  cases hy : y.eEnd with
  | none => rfl
  | some _ => simp [hy]

theorem filter_true {α : Type} (l : List α) : (l.filter fun _ => true) = l := List.filter_eq_self.2 fun _ _ => rfl

/-- The RUNNING record ends: the records that become ready are FINAL, and the entry records no longer needed are released. -/
theorem endRunning_eq {s : State} (hrun : s.running = true) (hn : (s.ctr.exits.map (·.coil)).Nodup) (hsome : s.ctr.running.isSome = true)
    (x : Nat) (broken : Bool) :
    let ended := s.ctr.entries.map fun e => if e.eEnd = none then { e with eEnd := some x, broken := e.broken || broken } else e
    let now := s.announcedOf (readyRecords ended s.ctr.exits)
    let exits := s.ctr.exits.map (ExitRec.checked ended now)
    ∃ b, endRunning x broken s = { s with
      ctr := { s.ctr with
        exits := exits
        entries := ended.filter fun e => decide (s.ctr.segStart < e.eEnd.getD 0) || exits.any fun r => r.linksTo e.id }
      bus := b } ∧ s.Joins (now.map announced) b := by
  intro ended now exits
  obtain ⟨b, h1, h2⟩ := finalizeReady_eq (s := { s with ctr := { s.ctr with entries := s.ctr.entries.map (Entry.endAt x broken) } }) hrun hn
    fun _ => true
  refine ⟨b, ?_, ?_⟩
  · unfold endRunning finalizationCheck
    rw [if_pos hsome, h1]
    simp only [if_true, filter_true, State.release, Ctr.release]
    rw [filter_needs (endAt_isSome x broken s.ctr.entries), entries_endAt]
    rfl
  · simp only [filter_true] at h2
    rw [entries_endAt] at h2
    exact h2

/-- After an event's position only the last position and the fault record differ. -/
theorem takePosition_state (p : Option (BitVec 48)) (s : State) : ∃ lfr sup, (takePosition p s).2 = { s with lfr := lfr, sup := sup } ∧
    sup.part = s.sup.part ∧ sup.resetPin = s.sup.resetPin := by
  unfold takePosition
  simp only
  split <;> exact ⟨_, _, rfl, rfl, rfl⟩

theorem Ctr.Sound.nodup {c : Ctr} (h : c.Sound) : (c.exits.map (·.coil)).Nodup := h.coils

/-- Settles O17: with no RUNNING record a misfit, else the end of the RUNNING record. -/
theorem tailEventEndsRunning : Obligations.TailEventEndsRunning := by
  intro s broken position hr hs c x p ended
  obtain ⟨lfr, sup, hp, hpart, hreset⟩ := takePosition_state position s
  change p = _ at hp
  have hexec : exec c s = whenReceiving s (tailAt broken x p) := by
    change exec (if broken then _ else _) s = _
    cases broken <;> rfl
  rw [hexec]
  have hctr : p.ctr = s.ctr := by rw [hp]
  have hrun : p.running = true := by
    have : p.running = s.running := by rw [hp]; unfold State.running; rw [hpart]
    rw [this]
    exact State.running_of_receives hr
  refine ⟨fun hnone => receiving_of_eq hr ?_, fun hsome => ?_⟩
  · have hn : ¬ p.ctr.running.isSome = true := by rw [hctr, hnone]; simp
    unfold tailAt
    rw [if_neg hn]
    have hros : p.ros = s.ros := by rw [hp]
    rw [← hros]
    rfl
  · obtain ⟨b, h1, h2⟩ := endRunning_eq hrun (by rw [hctr]; exact hs.coils) (by rw [hctr]; exact hsome) x broken
    have htail : tailAt broken x p = endRunning x broken p := if_pos (by rw [hctr]; exact hsome)
    obtain ⟨t, ht, hc⟩ := receiving_of_eq hr (htail.trans h1)
    have hbus : p.bus = s.bus := by rw [hp]
    have hann : ∀ ls, p.announcedOf ls = s.announcedOf ls := announcedOf_congr hbus
    refine ⟨_, t, ht, hc, rfl, ?_, ?_⟩
    · have hj := Joins.congr (u := s) h2 hbus.symm (by rw [hp]; exact hreset.symm)
      rw [hann, hctr] at hj
      exact hj
    · simp only [hann, hctr]
      rfl

/-! ### JOIN (R43, R45, R47) -/

/-- The oldest DONE record of a full entry table, where no record runs, is the first (R47). -/
theorem find_done {es : List Entry} (h : ∀ e ∈ es, e.eEnd.isSome) : es.find? (fun e => e.eEnd.isSome) = es.head? := by
  cases es with
  | nil => rfl
  | cons e es => exact List.find?_cons_of_pos (h e List.mem_cons_self)

/-- An exit record whose overlap entries linked to `e` lose the link (R47). -/
theorem cutLink_eq (id : Nat) (r : ExitRec) : r.cutLink id = match r.body with
    | .pending os n => { r with body := .pending (os.map fun v => if v.link = some id then { v with link := none } else v) n }
    | .final .. => r := by
  unfold ExitRec.cutLink
  cases r.body <;> rfl

/-- What a full entry table loses before a JOIN (R47). -/
theorem evictEntry_eq {s : State} (h : ∀ e ∈ s.ctr.entries, e.eEnd.isSome) :
    let gone : Option Entry := if s.ctr.entries.length < 16 then none else s.ctr.entries.head?
    evictEntry s = match gone with
      | none => s
      | some e => State.writeFault .entryEvict .ctr (some e.coil) none { s with ctr := { s.ctr with
          entries := s.ctr.entries.filter fun y => y.id != e.id, exits := s.ctr.exits.map (ExitRec.cutLink e.id) } } := by
  intro gone
  unfold evictEntry
  by_cases hroom : s.ctr.entries.length < 16
  · have hg : gone = none := if_pos hroom
    rw [hg]
    exact if_pos hroom
  · have hg : gone = s.ctr.entries.head? := if_neg hroom
    have hfull : ¬ s.ctr.entries.length < Config.entryCap := hroom
    rw [hg, if_neg hfull, find_done h] <;> cases s.ctr.entries.head? <;> rfl

end Sys2Proof.Machine

/-! PROOFS. The settling of JOIN, the finalization timer, and the placing of exit records. -/

namespace Sys2Proof.Machine

theorem running_none {c : Ctr} (h : ¬ c.running.isSome = true) : ∀ e ∈ c.entries, e.eEnd.isSome := by
  intro e he
  have hn : c.running = none := by simpa using h
  have := List.find?_eq_none.1 hn e he
  cases hx : e.eEnd with
  | none => simp [hx] at this
  | some x => rfl

/-- The RUNNING record, where there is one, ends before a JOIN (R43). -/
theorem endRunning_join {s : State} (hrun : s.running = true) (hn : (s.ctr.exits.map (·.coil)).Nodup) (x : Nat) :
    let ended := s.ctr.entries.map fun e => if e.eEnd = none then { e with eEnd := some x } else e
    let ls := readyRecords ended s.ctr.exits
    let checked := if s.ctr.running.isSome then s.ctr.exits.map (ExitRec.checked ended (s.announcedOf ls)) else s.ctr.exits
    let held := if s.ctr.running.isSome then ended.filter fun e =>
        decide (s.ctr.segStart < e.eEnd.getD 0) || checked.any fun r => r.linksTo e.id
      else s.ctr.entries
    ∃ b, endRunning x false s = { s with ctr := { s.ctr with exits := checked, entries := held }, bus := b } ∧
      (if s.ctr.running.isSome then s.Joins ((s.announcedOf ls).map announced) b else b = s.bus) ∧ ∀ e ∈ held, e.eEnd.isSome := by
  intro ended ls checked held
  by_cases hsome : s.ctr.running.isSome = true
  · have hended : (s.ctr.entries.map fun e => if e.eEnd = none then { e with eEnd := some x, broken := e.broken || false } else e) = ended := by
      simp only [Bool.or_false]
      rfl
    obtain ⟨b, h1, h2⟩ := endRunning_eq hrun hn hsome x false
    rw [hended] at h1 h2
    have hchecked : checked = s.ctr.exits.map (ExitRec.checked ended (s.announcedOf ls)) := if_pos hsome
    have hheld : held = ended.filter fun e => decide (s.ctr.segStart < e.eEnd.getD 0) || checked.any fun r => r.linksTo e.id := if_pos hsome
    refine ⟨b, ?_, ?_, fun e he => ?_⟩
    · rw [h1, hheld, hchecked]
    · rw [if_pos hsome]
      exact h2
    · rw [hheld] at he
      have hall := endAt_isSome x false s.ctr.entries
      rw [entries_endAt, hended] at hall
      exact hall e (List.mem_of_mem_filter he)
  · have hchecked : checked = s.ctr.exits := if_neg hsome
    have hheld : held = s.ctr.entries := if_neg hsome
    refine ⟨s.bus, ?_, ?_, ?_⟩
    · rw [hheld, hchecked]
      exact if_neg hsome
    · rw [if_neg hsome]
    · rw [hheld]
      exact running_none hsome

/-- Settles O16: the misfit, the end of the RUNNING record, the eviction from a full table, and the new RUNNING record. -/
theorem joinAddsRunning : Obligations.JoinAddsRunning := by
  intro s thread position hr hs x p ended now checked held gone wrote warned
  obtain ⟨lfr, sup, hp, hpart, hreset⟩ := takePosition_state position s
  change p = _ at hp
  have hctr : p.ctr = s.ctr := by rw [hp]
  have hbus : p.bus = s.bus := by rw [hp]
  have hros : p.ros = s.ros := by rw [hp]
  have hpr : p.sup.resetPin = s.sup.resetPin := by rw [hp]; exact hreset
  have hpp : p.sup.part = s.sup.part := by rw [hp]; exact hpart
  have hs' : s.running = true := State.running_of_receives hr
  let q : State := { p with sup := warned }
  have hq : (if thread = p.ctr.running.isSome then misfit x p else p) = q := by
    rw [hctr]
    by_cases hc : thread = s.ctr.running.isSome
    · have hw : warned = wrote p.sup .lfOrder none (some x) := if_pos hc
      rw [if_pos hc]
      change misfit x p = { p with sup := warned }
      rw [hw]
      change State.writeFault .lfOrder .ctr none (some x) p = _
      unfold State.writeFault
      rw [hros]
      rfl
    · have hw : warned = p.sup := if_neg hc
      rw [if_neg hc]
      change p = { p with sup := warned }
      rw [hw]
  have hwarned : warned.part = p.sup.part ∧ warned.resetPin = p.sup.resetPin := by
    by_cases hc : thread = s.ctr.running.isSome
    · have hw : warned = wrote p.sup .lfOrder none (some x) := if_pos hc
      rw [hw]
      exact ⟨rfl, rfl⟩
    · have hw : warned = p.sup := if_neg hc
      rw [hw]
      exact ⟨rfl, rfl⟩
  have hqr : q.running = true := by
    have : q.running = s.running := by unfold State.running; exact congrArg PartState.running (hwarned.1.trans hpp)
    rw [this]
    exact hs'
  have hqc : q.ctr = s.ctr := hctr
  obtain ⟨b, hend, hjoin, hall⟩ := endRunning_join hqr (by rw [hqc]; exact hs.coils) x
  rw [hqc] at hend hjoin hall
  have hann : ∀ ls, q.announcedOf ls = s.announcedOf ls := announcedOf_congr hbus
  rw [hann] at hend hjoin hall
  let w : State := { q with ctr := { s.ctr with exits := checked, entries := held }, bus := b }
  have hevict := evictEntry_eq (s := w) hall
  have harr : lfArrives (.join thread position) s = { evictEntry w with ctr := addRunning x (evictEntry w).ctr } := by
    change joinAt thread x p = _
    unfold joinAt
    simp only
    rw [hq, hend]
  obtain ⟨t, ht, hc⟩ := receiving_of_eq hr harr
  have hann' : if s.ctr.running.isSome then s.Announces { w with bus := b } (readyRecords ended s.ctr.exits) else b = s.bus := by
    by_cases hsome : s.ctr.running.isSome = true
    · rw [if_pos hsome] at hjoin ⊢
      exact Joins.congr hjoin hbus.symm (hpr.symm.trans hwarned.2.symm)
    · rw [if_neg hsome] at hjoin ⊢
      exact hjoin.trans hbus
  have hadd : ∀ c : Ctr, c.decls = s.ctr.decls → c.nextId = s.ctr.nextId → addRunning x c = { c with
      nextId := if s.ctr.decls = [] then s.ctr.nextId + 1 else s.ctr.nextId
      decls := s.ctr.decls.tail
      entries := c.entries ++ [match s.ctr.decls with
        | d :: _ => ⟨d.id, d.coil, d.headFirst, d.length, d.offset, d.lq, x, none, false⟩
        | [] => ⟨s.ctr.nextId, .unknown, false, none, none, .none, x, none, false⟩] } := fun c h1 h2 => by
    unfold addRunning
    rw [h1, h2]
    cases s.ctr.decls with
    | nil => simp
    | cons d ds => simp
  refine ⟨_, t, ht, hc, ?_⟩
  cases hg : gone with
  | none =>
    have hw : evictEntry w = w := by
      rw [hevict]
      have : (if w.ctr.entries.length < 16 then none else w.ctr.entries.head?) = none := hg
      rw [this]
    rw [hw]
    refine ⟨rfl, hann', rfl, ?_⟩
    exact hadd w.ctr rfl rfl
  | some e =>
    have hw : evictEntry w = State.writeFault .entryEvict .ctr (some e.coil) none { w with ctr := { w.ctr with
        entries := held.filter fun y => y.id != e.id, exits := checked.map (ExitRec.cutLink e.id) } } := by
      rw [hevict]
      have : (if w.ctr.entries.length < 16 then none else w.ctr.entries.head?) = some e := hg
      rw [this]
    rw [hw]
    refine ⟨rfl, hann', ?_, ?_⟩
    · change State.sup (State.writeFault .entryEvict .ctr (some e.coil) none _) = _
      rw [State.writeFault_sup]
      change _ = wrote warned .entryEvict (some e.coil) none
      have : w.ros = s.ros := hros
      simp only [this]
      rfl
    · change addRunning x (State.writeFault .entryEvict .ctr (some e.coil) none _).ctr = _
      rw [State.writeFault_ctr]
      refine (hadd { w.ctr with entries := held.filter fun y => y.id != e.id
                                exits := checked.map (ExitRec.cutLink e.id) } rfl rfl).trans ?_
      rfl

end Sys2Proof.Machine

/-! PROOFS. The cut (R9, R48 to R53): segments without a record, and the placing of the exit records of the lanes. -/

namespace Sys2Proof.Machine

/-! ### Placing an exit record (R51, R52) -/

theorem findExit_isSome_iff {s : State} {c : Coil} :
    (s.findExit c).isSome = true ↔ (s.ctr.exits.filter fun y => y.coil != c) ≠ s.ctr.exits := by
  unfold State.findExit
  rw [List.find?_isSome, ne_eq, List.filter_eq_self]
  simp

theorem renumber_exits (c : Coil) (s : State) : (renumber c s).ctr.exits = s.ctr.exits.filter fun y => y.coil != c := by
  unfold renumber
  split
  · rfl
  · rename_i h
    rw [findExit_isSome_iff, not_not] at h
    exact h.symm

/-- RENUMBER touches the tables of the tracker and the fault record alone. -/
theorem renumber_frame (c : Coil) (s : State) : { renumber c s with ctr := s.ctr, sup := s.sup } = s := by
  unfold renumber
  split <;> rfl

theorem evictExit_frame (s : State) : { evictExit s with ctr := s.ctr, sup := s.sup } = s := by
  unfold evictExit
  split
  · rfl
  · split <;> rfl

theorem evictExit_room {s : State} (h : s.ctr.exits.length < 1024) : evictExit s = s := if_pos h

theorem evictExit_full {s : State} {old : ExitRec} {rest : List ExitRec} (he : s.ctr.exits = old :: rest)
    (h : 1024 ≤ s.ctr.exits.length) (hn : (s.ctr.exits.map (·.coil)).Nodup) : (evictExit s).ctr.exits = rest ∧
      (evictExit s).sup.fault = some ⟨.exitEvict, .ctr, some old.coil, none, s.ros.clock⟩ := by
  have hev : evictExit s = (removeExit old.coil s).writeFault .exitEvict .ctr (some old.coil) none := by
    unfold evictExit
    have hfull : ¬ s.ctr.exits.length < Config.exitCap := Nat.not_lt.2 h
    rw [if_neg hfull, he] <;> rfl
  rw [hev]
  refine ⟨?_, rfl⟩
  change (s.ctr.exits.filter fun r => r.coil != old.coil) = rest
  rw [he, List.map_cons, List.nodup_cons] at hn
  rw [he, List.filter_cons_of_neg (by simp), List.filter_eq_self]
  intro y hy
  simpa using fun hyc : y.coil = old.coil => hn.1 (hyc ▸ List.mem_map_of_mem hy)

/-- Settles O20: RENUMBER, then EXIT-EVICT where no room is left, then the record last. -/
theorem exitRecordPlaced : Obligations.ExitRecordPlaced := by
  intro s r hs others u
  have hren : (renumber r.coil s).ctr.exits = others := renumber_exits r.coil s
  have hros : (renumber r.coil s).ros = s.ros := by
    unfold renumber
    split <;> rfl
  have hnodup : (others.map (·.coil)).Nodup := hs.coils.sublist (List.filter_sublist.map _)
  have hu : u.ctr.exits = (evictExit (renumber r.coil s)).ctr.exits ++ [r] := rfl
  have hsup : u.sup = (evictExit (renumber r.coil s)).sup := rfl
  have hroom : others.length < 1024 → evictExit (renumber r.coil s) = renumber r.coil s := fun h => evictExit_room (hren ▸ h)
  refine ⟨fun h => ?_, fun old rest he h => ?_, fun h hne => ?_, fun h heq => ?_, ?_, placeExit_sound r hs⟩
  · rw [hu, hroom h, hren]
  · obtain ⟨h1, h2⟩ := evictExit_full (hren.trans he) (hren ▸ h) (hren ▸ hnodup)
    exact ⟨hu.trans (congrArg (· ++ [r]) h1), by rw [hsup, h2, hros]⟩
  · rw [hsup, hroom h]
    unfold renumber
    rw [if_pos (findExit_isSome_iff.2 hne)]
    rfl
  · have hsame : renumber r.coil s = s := if_neg fun h => findExit_isSome_iff.1 h heq
    change placeExit s r = _
    unfold placeExit
    simp only [hsame, evictExit_room h]
  · have h1 := evictExit_frame (renumber r.coil s)
    have h2 := renumber_frame r.coil s
    calc { u with ctr := s.ctr, sup := s.sup }
        = { ({ evictExit (renumber r.coil s) with ctr := (renumber r.coil s).ctr, sup := (renumber r.coil s).sup } : State) with
            ctr := s.ctr, sup := s.sup } := rfl
      _ = { renumber r.coil s with ctr := s.ctr, sup := s.sup } := by rw [h1]
      _ = s := h2

/-! ### A cut without a record (R9, R48) -/

theorem exec_cut {s : State} {scrap : Bool} {sequence : BitVec 32} {lanes : Byte} {position : Option (BitVec 48)}
    (hwf : (Instr.cut scrap sequence lanes position).wf = true) : exec (.cut scrap sequence lanes position) s =
      whenReceiving s (cutAt scrap sequence lanes.toNat (takePosition position s).1 (takePosition position s).2) := by
  have hin : (LfRecord.cut scrap sequence lanes position).inRange = true := hwf
  change whenReceiving s (lfArrives _ s) = _
  unfold lfArrives
  rw [if_pos hin]
  rfl

/-- Settles O18: no record is made of a SCRAP cut, or of a segment that is empty or too long. -/
theorem cutWithoutRecord : Obligations.CutWithoutRecord := by
  intro s scrap sequence lanes position hr hwf x p next hcase
  obtain ⟨lfr, sup, hp, hpart, hreset⟩ := takePosition_state position s
  change p = _ at hp
  rw [exec_cut hwf]
  refine receiving_of_eq hr ?_
  change cutAt scrap sequence lanes.toNat x p = _
  unfold cutAt
  cases scrap with
  | true =>
    rw [hp]
    rfl
  | false =>
    have hmisfit : x ≤ p.ctr.segStart ∨ Config.max32 < x - p.ctr.segStart := by
      have : p.ctr = s.ctr := by rw [hp]
      rw [this]
      exact hcase.resolve_left (by simp)
    simp only [Bool.false_eq_true, if_false, if_pos hmisfit]
    rw [hp]
    rfl

/-! ### A cut with records (R49, R53) -/

theorem placeExit_fresh {s : State} {r : ExitRec} (hroom : s.ctr.exits.length < 1024) (hfresh : ∀ y ∈ s.ctr.exits, y.coil ≠ r.coil) :
    placeExit s r = { s with ctr := { s.ctr with exits := s.ctr.exits ++ [r] } } := by
  have hren : renumber r.coil s = s := if_neg fun h => findExit_isSome_iff.1 h (List.filter_eq_self.2 fun y hy => by simpa using hfresh y hy)
  unfold placeExit
  simp only [hren, evictExit_room hroom]

/-- Records of new coils stand after the others, where the table has room for all of them. -/
theorem foldl_placeExit_fresh : ∀ (rs : List ExitRec) {s : State}, s.ctr.exits.length + rs.length ≤ 1024 →
    (∀ r ∈ rs, ∀ y ∈ s.ctr.exits, y.coil ≠ r.coil) → (rs.map (·.coil)).Nodup →
    rs.foldl placeExit s = { s with ctr := { s.ctr with exits := s.ctr.exits ++ rs } } := by
  intro rs
  induction rs with
  | nil =>
    intro s _ _ _
    rw [List.append_nil]
    rfl
  | cons r rs ih =>
    intro s hroom hfresh hn
    rw [List.map_cons, List.nodup_cons] at hn
    obtain ⟨hnot, hn⟩ := hn
    rw [List.length_cons] at hroom
    rw [List.foldl_cons, placeExit_fresh (by omega) (hfresh r List.mem_cons_self), ih]
    · simp
    · simp
      omega
    · intro x hx y hy
      rcases List.mem_append.1 hy with hy | hy
      · exact hfresh x (List.mem_cons_of_mem _ hx) y hy
      · rw [List.mem_singleton.1 hy]
        exact fun h => hnot (h ▸ List.mem_map_of_mem hx)
    · exact hn

/-- The lanes of one cut have different coil numbers (R49). -/
theorem laneCoil_inj {sequence : BitVec 32} {i j : Nat} (hi : i ≤ 8) (hj : j ≤ 8)
    (h : sequence + BitVec.ofNat 32 i = sequence + BitVec.ofNat 32 j) : i = j := by
  have h' : BitVec.ofNat 32 i = BitVec.ofNat 32 j := by simpa using h
  have := congrArg BitVec.toNat h'
  simp only [BitVec.toNat_ofNat] at this
  omega

theorem laneRecords_nodup {s : State} (oStart oEnd stop : Nat) {lanes : Nat} (hl : lanes ≤ 8) (sequence : BitVec 32) :
    (((List.range lanes).map (laneRecord s oStart oEnd stop lanes sequence)).map (·.coil)).Nodup := by
  rw [List.map_map]
  refine List.Nodup.map_on (fun i hi j hj h => ?_) List.nodup_range
  have hi := List.mem_range.1 hi
  have hj := List.mem_range.1 hj
  exact laneCoil_inj (by omega) (by omega) (congrArg Coil.seq h)

section
variable {s : State} {oStart oEnd stop lanes : Nat} {sequence : BitVec 32}

/-- The records of the lanes that a check finds ready: all of them or none, since they share one overlap list. -/
theorem readyRecords_lanes : readyRecords s.ctr.entries ((List.range lanes).map (laneRecord s oStart oEnd stop lanes sequence)) =
    if overlapsReady s.ctr.entries (overlapList s.ctr.entries oStart oEnd) then (List.range lanes).map fun i =>
        (laneRecord s oStart oEnd stop lanes sequence i).lineageWith
          ((overlapList s.ctr.entries oStart oEnd).map (buildPiece s.ctr.entries oStart))
      else [] := by
  unfold readyRecords
  rw [List.filterMap_map]
  by_cases hready : overlapsReady s.ctr.entries (overlapList s.ctr.entries oStart oEnd) = true
  · rw [if_pos hready, ← List.filterMap_eq_map]
    refine List.filterMap_congr fun i _ => ?_
    exact if_pos hready
  · rw [if_neg hready, List.filterMap_eq_nil_iff]
    intro i _
    exact if_neg hready

/-- The records of a CUT with COIL, of new coils and in a table with room (R49, R53, R56). -/
theorem createExits_eq (hrun : s.running = true) (hl : lanes ≤ 8) (hn : (s.ctr.exits.map (·.coil)).Nodup)
    (hroom : s.ctr.exits.length + lanes ≤ 1024)
    (hfresh : ∀ i < lanes, ∀ r ∈ s.ctr.exits, r.coil ≠ (laneRecord s oStart oEnd stop lanes sequence i).coil) :
    let rs := (List.range lanes).map (laneRecord s oStart oEnd stop lanes sequence)
    let now := s.announcedOf (readyRecords s.ctr.entries rs)
    ∃ b, createExits oStart oEnd stop lanes sequence s = { s with
      ctr := { s.ctr with exits := s.ctr.exits ++ rs.map (ExitRec.checked s.ctr.entries now) }, bus := b } ∧
      s.Joins (now.map announced) b := by
  intro rs now
  have hnew : ∀ r ∈ rs, ∀ y ∈ s.ctr.exits, y.coil ≠ r.coil := fun r hr y hy => by
    obtain ⟨i, hi, rfl⟩ := List.mem_map.1 hr
    exact hfresh i (List.mem_range.1 hi) y hy
  have hdistinct : (rs.map (·.coil)).Nodup := laneRecords_nodup oStart oEnd stop hl sequence
  have hplaced := foldl_placeExit_fresh rs (s := s) (by simpa [rs] using hroom) hnew hdistinct
  let reached : Coil → Bool := fun c => rs.any fun r => r.coil == c
  have hmem : ∀ r ∈ rs, reached r.coil = true := fun r hr => List.any_eq_true.2 ⟨r, hr, by simp⟩
  have hout : ∀ y ∈ s.ctr.exits, reached y.coil = false := fun y hy => by
    rw [List.any_eq_false]
    intro r hr
    simpa using (hnew r hr y hy).symm
  obtain ⟨b, h1, h2⟩ := finalizeReady_eq (s := { s with ctr := { s.ctr with exits := s.ctr.exits ++ rs } }) hrun (by
      rw [List.map_append, List.nodup_append]
      refine ⟨hn, hdistinct, fun c hc d hd hcd => ?_⟩
      obtain ⟨y, hy, rfl⟩ := List.mem_map.1 hc
      obtain ⟨r, hr, rfl⟩ := List.mem_map.1 hd
      exact hnew r hr y hy hcd) reached
  have hfilter : (s.ctr.exits ++ rs).filter (fun r => reached r.coil) = rs := by
    rw [List.filter_append, List.filter_eq_nil_iff.2 fun y hy => by simp [hout y hy], List.filter_eq_self.2 hmem, List.nil_append]
  simp only [hfilter] at h1 h2
  refine ⟨b, ?_, h2⟩
  change finalizeReady reached (rs.foldl placeExit s) = _
  rw [hplaced, h1]
  have hmap : (s.ctr.exits ++ rs).map (fun r => if reached r.coil = true then r.checked s.ctr.entries now else r) =
      s.ctr.exits ++ rs.map (ExitRec.checked s.ctr.entries now) := by
    rw [List.map_append]
    congr 1
    · exact (List.map_congr_left fun y hy => if_neg (by simp [hout y hy])).trans (List.map_id _)
    · exact List.map_congr_left fun r hr => if_pos (hmem r hr)
  rw [← hmap]
  rfl

end

/-- Settles O19: the records of the lanes are placed, checked and announced, and the next segment starts. -/
theorem cutMakesExitRecords : Obligations.CutMakesExitRecords := by
  intro s sequence lanes position hr hwf hs x p lane pieces ready ls hlow hhigh hroom hfresh
  obtain ⟨lfr, sup, hp, hpart, hreset⟩ := takePosition_state position s
  change p = _ at hp
  have hctr : p.ctr = s.ctr := by rw [hp]
  have hsmp : p.smp = s.smp := by rw [hp]
  have hbus : p.bus = s.bus := by rw [hp]
  have hl : lanes.toNat ≤ 8 := (of_decide_eq_true hwf).2
  let q : State := { p with smp := { s.smp with stopTime := 0 } }
  have hlane : laneRecord q s.ctr.segStart x s.smp.stopTime lanes.toNat sequence = lane := by
    funext i
    simp only [q, hp]
    rfl
  have hq : q.ctr = s.ctr := hctr
  have hrun : q.running = true := by
    have : q.running = s.running := by
      unfold State.running
      rw [show q.sup = sup by simp only [q, hp], hpart]
    rw [this]
    exact State.running_of_receives hr
  obtain ⟨b, h1, h2⟩ := createExits_eq (s := q) (oStart := s.ctr.segStart) (oEnd := x) (stop := s.smp.stopTime) (sequence := sequence)
    hrun hl (by rw [hq]; exact hs.coils) (by rw [hq]; exact hroom) (by rw [hq, hlane]; exact hfresh)
  have hann : ∀ ls, q.announcedOf ls = s.announcedOf ls := announcedOf_congr hbus
  have hready := readyRecords_lanes (s := q) (oStart := s.ctr.segStart) (oEnd := x) (stop := s.smp.stopTime) (lanes := lanes.toNat)
    (sequence := sequence)
  have hls : readyRecords q.ctr.entries ((List.range lanes.toNat).map (laneRecord q s.ctr.segStart x s.smp.stopTime lanes.toNat sequence)) = ls := by
    rw [hready, hq, hlane]
  rw [hls, hann] at h1 h2
  have hfit : ¬ (x ≤ p.ctr.segStart ∨ Config.max32 < x - p.ctr.segStart) := by
    rw [hctr]
    have : ¬ (2 ^ 32 - 1 < x - s.ctr.segStart) := Nat.not_lt.2 hhigh
    exact fun h => h.elim (Nat.not_le.2 hlow) this
  rw [exec_cut hwf]
  have hcut : cutAt false sequence lanes.toNat x p =
      State.release { createExits s.ctr.segStart x s.smp.stopTime lanes.toNat sequence q with
        ctr := { (createExits s.ctr.segStart x s.smp.stopTime lanes.toNat sequence q).ctr with segStart := x } } := by
    have hq' : q = { p with smp := { p.smp with stopTime := 0 } } := by simp only [q, hsmp]
    have hstart : s.ctr.segStart = p.ctr.segStart := by rw [hctr]
    have hstop : s.smp.stopTime = p.smp.stopTime := by rw [hsmp]
    rw [hq', hstart, hstop]
    unfold cutAt
    simp only [Bool.false_eq_true, if_false, if_neg hfit]
  rw [h1] at hcut
  obtain ⟨t, ht, hc⟩ := receiving_of_eq hr hcut
  refine ⟨_, t, ht, hc, ?_, rfl, ?_, ?_⟩
  · change ({ p with smp := s.smp } : State) = p
    rw [← hsmp]
  · exact Joins.congr (u := s) h2 hbus.symm (by simp only [q, hp]; exact hreset.symm)
  · rw [hlane]
    change ({ q.ctr with exits := _, segStart := x, entries := q.ctr.entries.filter _ } : Ctr) = _
    rw [hq, List.map_map]
    rfl

end Sys2Proof.Machine

/-! PROOFS. The finalization timer (R55), and the overlap list of a segment (R50). -/

namespace Sys2Proof.Machine

/-- Settles O21: the record becomes FINAL, and the entry records no longer needed are released. -/
theorem finalizationTimerRunsOut : Obligations.FinalizationTimerRunsOut := by
  intro s r os hrun hs hr hb pieces l
  have hl : r.finalLineage s.ctr.entries true = some l := by
    rw [ExitRec.finalLineage_of_pending hb, Bool.or_true]
  obtain ⟨b, h1, h2⟩ := finalizeCoil_eq hrun hr hs.coils hb true hl
  have hdue : expiryDue r.coil s = true := by
    unfold expiryDue
    rw [hrun, findExit_of_mem hr hs.coils]
    simp [ExitRec.due, hb]
  have hown : (if expiryDue r.coil s then some (State.release (finalizeCoil true s r.coil)) else none) =
      _ := (if_pos hdue).trans (congrArg (fun u => some (State.release u)) h1)
  obtain ⟨t, ht, hc⟩ := commit_of_eq hown
  refine ⟨_, t, ht, hc, rfl, h2, ?_⟩
  have hexits : s.ctr.exits.map (ExitRec.after s.ctr.entries true [r.coil] (s.announcedOf [l])) = s.ctr.exits.map fun y =>
      if y.coil = r.coil then { r with timedOut := true, body := .final pieces (s.announcedOf [l]).isEmpty } else y := by
    refine List.map_congr_left fun y hy => ?_
    unfold ExitRec.after
    by_cases hyc : y.coil = r.coil
    · obtain rfl : y = r := List.inj_on_of_nodup_map hs.coils hy hr hyc
      rw [if_pos (by simp), if_pos rfl, ExitRec.finalized_of_pending hb, Bool.or_true]
      have hmark : (!(s.announcedOf [l]).any fun x => x.coil == y.coil) = (s.announcedOf [l]).isEmpty := by
        by_cases hroom : s.bus.muted = false ∧ s.bus.queue.length < 16
        · simp [announcedOf_room hroom, l, ExitRec.lineageWith]
        · simp [announcedOf_full hroom]
      rw [← hmark]
      rfl
    · rw [if_neg (by simpa using hyc), if_neg hyc]
  rw [← hexits]
  rfl

/-! ### Overlap entries that meet end to start -/

/-- The entries `vs` are not empty and meet end to start from `a` to `b`. -/
def Covers : Nat → Nat → List Overlap → Prop
  | a, b, [] => a = b
  | a, b, v :: vs => v.x0 = a ∧ a < v.x1 ∧ Covers v.x1 b vs

theorem covers_append {b : Nat} : ∀ {a : Nat} (vs ws : List Overlap), Covers a b (vs ++ ws) ↔ ∃ c, Covers a c vs ∧ Covers c b ws
  | a, [], ws => by simp [Covers]
  | a, v :: vs, ws => by
    simp only [List.cons_append, Covers, covers_append vs ws]
    exact ⟨fun ⟨h0, h1, c, hc, hb⟩ => ⟨c, ⟨h0, h1, hc⟩, hb⟩, fun ⟨c, ⟨h0, h1, hc⟩, hb⟩ => ⟨h0, h1, c, hc, hb⟩⟩

theorem Covers.le {b : Nat} : ∀ {a : Nat} {vs : List Overlap}, Covers a b vs → a ≤ b
  | _, [], h => Nat.le_of_eq h
  | _, _ :: _, ⟨_, hlt, hrest⟩ => hlt.le.trans hrest.le

theorem Covers.head {b : Nat} : ∀ {a : Nat} {vs : List Overlap}, Covers a b vs → ∀ v ∈ vs.head?, v.x0 = a
  | _, [], _, _, hv => by cases hv
  | _, _ :: _, ⟨h0, _, _⟩, _, hv => by cases hv; exact h0

theorem Covers.lt {b : Nat} : ∀ {a : Nat} {vs : List Overlap}, Covers a b vs → ∀ v ∈ vs, v.x0 < v.x1
  | _, _ :: _, ⟨h0, hlt, hrest⟩, v, hv => by
    rcases List.mem_cons.1 hv with rfl | hv
    · exact h0 ▸ hlt
    · exact hrest.lt v hv

theorem Covers.chain {b : Nat} : ∀ {a : Nat} {vs : List Overlap}, Covers a b vs → vs.IsChain fun v w => v.x1 = w.x0
  | _, [], _ => .nil
  | _, _ :: _, ⟨_, _, hrest⟩ => List.isChain_cons.2 ⟨fun w hw => (hrest.head w hw).symm, hrest.chain⟩

theorem Covers.last {b : Nat} : ∀ {a : Nat} {vs : List Overlap}, Covers a b vs → a < b → (vs.map (·.x1)).getLast? = some b
  | _, [], h, hab => absurd h hab.ne
  | _, [v], ⟨_, _, hrest⟩, _ => by
    have : v.x1 = b := hrest
    simp [this]
  | _, v :: w :: vs, ⟨_, _, hrest⟩, _ => by
    obtain ⟨_, h1, h2⟩ := hrest
    have hlast := Covers.last (vs := w :: vs) ⟨‹_›, h1, h2⟩ (h1.trans_le h2.le)
    rw [List.map_cons, List.map_cons, List.getLast?_cons_cons, ← List.map_cons]
    exact hlast

theorem Covers.ne_nil {a b : Nat} {vs : List Overlap} (h : Covers a b vs) (hab : a < b) : vs ≠ [] := by
  rintro rfl
  exact hab.ne h

theorem Covers.first {a b : Nat} {vs : List Overlap} (h : Covers a b vs) (hab : a < b) : (vs.map (·.x0)).head? = some a := by
  cases vs with
  | nil => exact absurd h hab.ne
  | cons v vs =>
    obtain ⟨h0, _⟩ := h
    simp [h0]

/-! ### The overlap list (R50) -/

theorem coverSegment_full {oEnd cur : Nat} (h : oEnd ≤ cur) : ∀ es, coverSegment oEnd cur es = []
  | [] => if_neg (Nat.not_lt.2 h)
  | e :: es => by
    unfold coverSegment
    simp only
    rw [if_neg (by omega)]
    exact coverSegment_full h es

theorem coverSegment_covers {oEnd : Nat} : ∀ (es : List Entry) {cur : Nat}, cur ≤ oEnd → Covers cur oEnd (coverSegment oEnd cur es)
  | [], cur, h => by
    unfold coverSegment
    split
    · exact ⟨rfl, ‹_›, rfl⟩
    · exact h.antisymm (Nat.not_lt.1 ‹_›)
  | e :: es, cur, h => by
    unfold coverSegment
    simp only
    split
    · rename_i hlt
      have hrest := coverSegment_covers es (cur := min oEnd (e.eEnd.getD oEnd)) (Nat.min_le_left ..)
      refine (covers_append ..).2 ⟨max cur e.eStart, ?_, rfl, hlt, hrest⟩
      split
      · exact ⟨rfl, ‹_›, rfl⟩
      · exact (Nat.le_max_left ..).antisymm (Nat.not_lt.1 ‹_›)
    · exact coverSegment_covers es h

/-- Gaps stand only beside entries of records. -/
theorem coverSegment_chain {oEnd : Nat} : ∀ (es : List Entry) {cur : Nat}, cur ≤ oEnd →
    (coverSegment oEnd cur es).IsChain fun v w => v.x1 = w.x0 ∧ (v.link.isSome ∨ w.link.isSome)
  | [], cur, _ => by
    unfold coverSegment
    split
    · exact .singleton _
    · exact .nil
  | e :: es, cur, h => by
    unfold coverSegment
    simp only
    split
    · have hle : min oEnd (e.eEnd.getD oEnd) ≤ oEnd := Nat.min_le_left ..
      have hlinked : List.IsChain (fun v w : Overlap => v.x1 = w.x0 ∧ (v.link.isSome ∨ w.link.isSome))
          (⟨e.coil, e.headFirst, max cur e.eStart, min oEnd (e.eEnd.getD oEnd), some e.id, false⟩ ::
            coverSegment oEnd (min oEnd (e.eEnd.getD oEnd)) es) :=
        List.isChain_cons.2 ⟨fun w hw => ⟨((coverSegment_covers es hle).head w hw).symm, .inl rfl⟩, coverSegment_chain es hle⟩
      split
      · exact List.isChain_cons.2 ⟨fun w hw => by cases hw; exact ⟨rfl, .inr rfl⟩, hlinked⟩
      · exact hlinked
    · exact coverSegment_chain es h

theorem coverSegment_gap {oEnd : Nat} : ∀ (es : List Entry) {cur : Nat}, ∀ v ∈ coverSegment oEnd cur es, v.link = none →
    v.coil = .unknown ∧ v.merged = false
  | [], cur, v, hv, _ => by
    unfold coverSegment at hv
    split at hv
    · rw [List.mem_singleton.1 hv]
      exact ⟨rfl, rfl⟩
    · cases hv
  | e :: es, cur, v, hv, hlink => by
    unfold coverSegment at hv
    simp only at hv
    split at hv
    · rcases List.mem_append.1 hv with hv | hv
      · split at hv
        · rw [List.mem_singleton.1 hv]
          exact ⟨rfl, rfl⟩
        · cases hv
      · rcases List.mem_cons.1 hv with rfl | hv
        · cases hlink
        · exact coverSegment_gap es v hv hlink
    · exact coverSegment_gap es v hv hlink

/-- The intersections of the segment with the entry records, which follow one another. -/
theorem coverSegment_linked {oStart oEnd : Nat} : ∀ (es : List Entry) {cur : Nat}, oStart ≤ cur →
    (∀ f ∈ es, cur ≤ f.eStart ∨ cur = oStart) → es.Pairwise (fun e f => e.eEnd.getD oEnd ≤ f.eStart) →
    (coverSegment oEnd cur es).filter (fun v => v.link.isSome) = (es.filter fun e =>
        decide (max oStart e.eStart < min oEnd (e.eEnd.getD oEnd))).map fun e =>
      ⟨e.coil, e.headFirst, max oStart e.eStart, min oEnd (e.eEnd.getD oEnd), some e.id, false⟩
  | [], cur, _, _, _ => by
    unfold coverSegment
    split <;> rfl
  | e :: es, cur, hcur, hpos, hpair => by
    obtain ⟨hafter, hpair⟩ := List.pairwise_cons.1 hpair
    have hmax : max cur e.eStart = max oStart e.eStart := by
      rcases hpos e List.mem_cons_self with h | h <;> omega
    unfold coverSegment
    simp only [hmax]
    by_cases hlt : max oStart e.eStart < min oEnd (e.eEnd.getD oEnd)
    · rw [if_pos hlt, List.filter_append, List.filter_cons_of_pos rfl, List.filter_cons_of_pos (by simpa using hlt), List.map_cons,
        coverSegment_linked es ((Nat.le_max_left ..).trans hlt.le) (fun f hf => .inl ((Nat.min_le_right ..).trans (hafter f hf))) hpair]
      split <;> rfl
    · rw [if_neg hlt, List.filter_cons_of_neg (by simpa using hlt)]
      exact coverSegment_linked es hcur (fun f hf => hpos f (List.mem_cons_of_mem _ hf)) hpair

theorem mergeTail_short {oEnd : Nat} {vs : List Overlap} (h : vs.length ≤ 8) : mergeTail oEnd vs = vs := if_pos h

/-- Of more than 8 entries the first 7 stand, and one MERGED entry from the eighth's start covers the rest. -/
theorem mergeTail_long {a oEnd : Nat} {vs : List Overlap} (h : 8 < vs.length) (hc : Covers a oEnd vs) :
    ∃ x0, mergeTail oEnd vs = vs.take 7 ++ [⟨.unknown, false, x0, oEnd, none, true⟩] ∧ Covers a x0 (vs.take 7) ∧ x0 < oEnd := by
  obtain ⟨x0, hfirst, hrest⟩ := (covers_append ..).1 ((List.take_append_drop 7 vs).symm ▸ hc : Covers a oEnd (vs.take 7 ++ vs.drop 7))
  obtain ⟨v, ws, hdrop⟩ : ∃ v ws, vs.drop 7 = v :: ws := List.exists_cons_of_ne_nil (by
    rw [ne_eq, List.drop_eq_nil_iff]
    omega)
  rw [hdrop] at hrest
  obtain ⟨h0, h1, h2⟩ := hrest
  refine ⟨x0, ?_, hfirst, h1.trans_le h2.le⟩
  have hlong : ¬ vs.length ≤ Config.overlapCap := Nat.not_le.2 h
  unfold mergeTail
  rw [if_neg hlong, hdrop, ← h0]
  rfl

/-- Settles O22: the cover of the segment, its tail merged where it is long. -/
theorem overlapListCoversSegment : Obligations.OverlapListCoversSegment := by
  intro es oStart oEnd hlt hpair vs all
  have hall : Covers oStart oEnd all := coverSegment_covers es hlt.le
  have hvs : Covers oStart oEnd vs ∧ vs.length ≤ 8 ∧ (8 < all.length →
      vs.take 7 = all.take 7 ∧ ∃ x0, vs.drop 7 = [⟨.unknown, false, x0, oEnd, none, true⟩]) := by
    by_cases hlen : all.length ≤ 8
    · have h : vs = all := mergeTail_short hlen
      exact ⟨h ▸ hall, h ▸ hlen, fun hlong => absurd hlen (Nat.not_le.2 hlong)⟩
    · obtain ⟨x0, h, hfirst, hx0⟩ := mergeTail_long (Nat.not_le.1 hlen) hall
      have h : vs = all.take 7 ++ [⟨.unknown, false, x0, oEnd, none, true⟩] := h
      have htake : (all.take 7).length = 7 := by
        rw [List.length_take]
        omega
      rw [h]
      refine ⟨(covers_append ..).2 ⟨x0, hfirst, rfl, hx0, rfl⟩, ?_, fun _ => ⟨List.take_left' htake, x0, List.drop_left' htake⟩⟩
      simp [htake]
  obtain ⟨hcov, hlen, hlong⟩ := hvs
  exact ⟨hcov.first hlt, hcov.last hlt, hlen, hcov.lt, hcov.chain, coverSegment_linked es le_rfl (fun _ _ => .inr rfl) hpair,
    coverSegment_gap es, coverSegment_chain es hlt.le, fun h => mergeTail_short h, hlong⟩

end Sys2Proof.Machine

/-! PROOFS. Length queries (R39 to R42, R120): they start, they are tried again, and they end. -/

namespace Sys2Proof.Machine

/-- A length state noted without a length (R40, R42). -/
theorem updateLength_none (c : Ctr) (id : Nat) (lq : LengthState) : c.updateLength id lq none = { c with
    decls := c.decls.map fun d => if d.id = id then { d with lq } else d
    entries := c.entries.map fun e => if e.id = id then { e with lq } else e } := by
  unfold Ctr.updateLength
  congr 1
  · refine List.map_congr_left fun d _ => ?_
    cases d.length <;> rfl
  · refine List.map_congr_left fun e _ => ?_
    cases e.length <;> rfl

theorem updateRoster_eq (st : BitVec 6) (f : RosterEntry → RosterEntry) (s : State) : s.updateRoster st f = { s with
    ros := if st = 0 ∨ st = 63 ∨ st = s.settings.station then s.ros
      else { s.ros with roster := s.ros.roster.set (st.toNat - 1) (f (s.rosterEntry st)) } } := by
  unfold State.updateRoster busStation
  by_cases h : st = 0 ∨ st = 63 ∨ st = s.settings.station
  · rw [if_pos h, if_neg fun hc => ?_]
    simp only [Bool.and_eq_true, bne_iff_ne] at hc
    obtain ⟨⟨h0, h63⟩, hown⟩ := hc
    exact h.elim h0 fun h => h.elim h63 hown
  · obtain ⟨h0, h63, hown⟩ := not_or.1 h |>.imp id not_or.1
    rw [if_neg h, if_pos]
    simp only [Bool.and_eq_true, bne_iff_ne]
    exact ⟨⟨h0, h63⟩, hown⟩

section
variable {s : State} {i : Nat} {gen : BitVec 2} {b : LengthBusy} (hslot : s.ctr.slots[i]? = some ⟨gen, some b⟩) (drop : Bool)
include hslot

/-- Another attempt of a length query (R40): it is offered under the same tag. -/
theorem failLengthQuery_retry (ht : b.tries < b.allowed) (hm : s.bus.muted = false) : failLengthQuery i drop s = { s with
    ctr := { s.ctr with slots := s.ctr.slots.set i ⟨gen, some { b with
      tries := b.tries + 1, dropped := b.dropped || drop, timer := none }⟩ }
    bus := { s.bus with waiting := s.bus.waiting ++ [⟨⟨.lineageQuery, b.coil.station, BitVec.ofNat 8 (128 + i * 4 + gen.toNat),
      coilBytes 0 b.coil⟩, .ctrQuery i, 0, 0, false, false⟩] } } := by
  unfold failLengthQuery
  rw [hslot]
  exact if_pos ⟨ht, by rw [hm]; rfl⟩

/-- The last attempt of a length query, and any under MUTED, ends it without a length (R40, R98, R120). -/
theorem failLengthQuery_end (h : b.allowed ≤ b.tries ∨ s.bus.muted = true) : failLengthQuery i drop s = { s with
    ctr := { s.ctr with
      slots := s.ctr.slots.set i ⟨gen, none⟩
      decls := s.ctr.decls.map fun d => if d.id = b.link then { d with lq := .none } else d
      entries := s.ctr.entries.map fun e => if e.id = b.link then { e with lq := .none } else e }
    bus := { s.bus with waiting := s.bus.waiting.filter fun e => e.owner != .ctrQuery i }
    ros := if (b.dropped || drop) = true ∨ b.tries < b.allowed ∨ b.coil.station = 0 ∨ b.coil.station = 63 ∨
        b.coil.station = s.settings.station then s.ros
      else { s.ros with roster := s.ros.roster.set (b.coil.station.toNat - 1)
                                    ⟨.silent, (s.rosterEntry b.coil.station).codes⟩ } } := by
  have hno : ¬ (b.tries < b.allowed ∧ (!s.bus.muted) = true) := by
    rintro ⟨h1, h2⟩
    rcases h with h | h
    · omega
    · rw [h] at h2
      cases h2
  have hend : endLengthQuery i b none s = { s with
      ctr := { s.ctr with
        slots := s.ctr.slots.set i ⟨gen, none⟩
        decls := s.ctr.decls.map fun d => if d.id = b.link then { d with lq := .none } else d
        entries := s.ctr.entries.map fun e => if e.id = b.link then { e with lq := .none } else e }
      bus := { s.bus with waiting := s.bus.waiting.filter fun e => e.owner != .ctrQuery i } } := by
    unfold endLengthQuery
    rw [updateLength_none, hslot]
    rfl
  have hfail : failLengthQuery i drop s = if (b.dropped || drop || decide (b.tries < b.allowed)) = true then endLengthQuery i b none s
      else (endLengthQuery i b none s).reportSilent b.coil.station := by
    unfold failLengthQuery
    rw [hslot]
    exact if_neg hno
  rw [hfail, hend]
  unfold State.reportSilent
  rw [updateRoster_eq]
  have hflag : (b.dropped || drop || decide (b.tries < b.allowed)) = true ↔ (b.dropped || drop) = true ∨ b.tries < b.allowed := by
    rw [Bool.or_eq_true (b.dropped || drop), decide_eq_true_iff]
  by_cases hquiet : (b.dropped || drop) = true ∨ b.tries < b.allowed
  · have hkeep : (b.dropped || drop) = true ∨ b.tries < b.allowed ∨ b.coil.station = 0 ∨ b.coil.station = 63 ∨
        b.coil.station = s.settings.station := or_assoc.1 (.inl hquiet)
    rw [if_pos (hflag.2 hquiet), if_pos hkeep]
  · rw [if_neg (mt hflag.1 hquiet)]
    by_cases hoff : b.coil.station = 0 ∨ b.coil.station = 63 ∨ b.coil.station = s.settings.station
    · have hkeep : (b.dropped || drop) = true ∨ b.tries < b.allowed ∨ b.coil.station = 0 ∨ b.coil.station = 63 ∨
          b.coil.station = s.settings.station := .inr (.inr hoff)
      rw [if_pos hkeep, if_pos hoff]
    · have hreport : ¬ ((b.dropped || drop) = true ∨ b.tries < b.allowed ∨ b.coil.station = 0 ∨ b.coil.station = 63 ∨
          b.coil.station = s.settings.station) := fun h => (or_assoc.2 h).elim hquiet hoff
      rw [if_neg hreport, if_neg hoff]
      rfl

end

theorem execLengthQueryTimeout_eq {s : State} {i : BitVec 3} {gen : BitVec 2} {b : LengthBusy} (hrun : s.running = true)
    (hslot : s.ctr.slots[i.toNat]? = some ⟨gen, some b⟩) (htimer : b.timer = some 0) :
    exec (.lengthQueryTimeout i) s = commit s (some (failLengthQuery i.toNat false s)) := by
  have hdue : lengthTimerDue i.toNat s = true := by simp [lengthTimerDue, hrun, hslot, htimer]
  change commit s (if lengthTimerDue i.toNat s then _ else none) = _
  rw [if_pos hdue]

/-- The oldest record that wants a length (R42). -/
theorem oldestWanted_iff {c : Ctr} {id : Nat} {coil : Coil} : c.oldestWanted = some (id, coil) ↔
    (∃ e, (c.entries.find? fun e => e.lq == .wanted) = some e ∧ e.id = id ∧ e.coil = coil) ∨
      (c.entries.find? fun e => e.lq == .wanted) = none ∧
        ∃ d, (c.decls.find? fun d => d.lq == .wanted) = some d ∧ d.id = id ∧ d.coil = coil := by
  unfold Ctr.oldestWanted
  cases c.entries.find? fun e => e.lq == .wanted with
  | some e => simp
  | none => cases c.decls.find? fun d => d.lq == .wanted <;> simp

theorem oldestWanted_none {c : Ctr} (he : (c.entries.find? fun e => e.lq == .wanted) = none)
    (hd : (c.decls.find? fun d => d.lq == .wanted) = none) : c.oldestWanted = none := by
  unfold Ctr.oldestWanted
  rw [he, hd]
  rfl

/-- The lowest place at which `p` holds. -/
theorem findIdx?_first {α : Type} {p : α → Bool} {l : List α} {i : Nat} {x : α} (hx : l[i]? = some x) (hp : p x = true)
    (hbefore : ∀ (j : Nat) (y : α), j < i → l[j]? = some y → p y = false) : l.findIdx? p = some i := by
  rw [List.findIdx?_eq_some_iff_getElem]
  obtain ⟨hlt, rfl⟩ := List.getElem?_eq_some_iff.1 hx
  exact ⟨hlt, hp, fun j hj => by simpa using hbefore j _ hj (List.getElem?_eq_getElem (hj.trans hlt))⟩

/-- Settles O23: the failed attempt of a query, and the start of the next. -/
theorem lengthQueryTimesOut : Obligations.LengthQueryTimesOut := by
  refine ⟨fun s i gen b hrun hslot htimer => ⟨fun ht hm => ?_, fun h => ?_⟩, ?_⟩
  · rw [execLengthQueryTimeout_eq hrun hslot htimer]
    refine commit_of_eq (congrArg some ((failLengthQuery_retry hslot false ht hm).trans ?_))
    rw [Bool.or_false]
  · rw [execLengthQueryTimeout_eq hrun hslot htimer]
    refine commit_of_eq (congrArg some ((failLengthQuery_end hslot false h).trans ?_))
    rw [Bool.or_false]
  intro s hrun wantedEntry wantedDecl
  refine ⟨fun h => ?_, ?_⟩
  · unfold startLengthQuery
    rw [hrun]
    rcases h with ⟨he, hd⟩ | hbusy
    · rw [oldestWanted_none he hd]
      rfl
    · have hno : s.ctr.slots.findIdx? (fun x => x.busy.isNone) = none := by
        rw [List.findIdx?_eq_none_iff]
        intro x hx
        simpa [Option.isSome_iff_ne_none] using hbusy x hx
      rw [hno]
      cases s.ctr.oldestWanted <;> rfl
  · intro id c i gen hwanted hidle hbefore turned
    have hold : s.ctr.oldestWanted = some (id, c) := oldestWanted_iff.2 hwanted
    have hfirst : s.ctr.slots.findIdx? (fun x => x.busy.isNone) = some i :=
      findIdx?_first hidle rfl fun j x hj hx => by simpa [Option.isSome_iff_ne_none] using hbefore j x hj hx
    refine ⟨fun hm => ?_, fun hm => ?_⟩
    · unfold startLengthQuery
      rw [hrun, hold, hfirst]
      simp only [hm]
      rw [updateLength_none]
      rfl
    · have hstart : startLengthQuery s = some (State.offer (queryFrame 2 i (gen + 1) c) (.ctrQuery i) { s with
          ctr := (s.ctr.updateLength id .asked none).setSlot i ⟨gen + 1, some {
            coil := c, link := id, allowed := s.attemptsAllowed c.station, tries := 1, dropped := false, timer := none }⟩ }) := by
        unfold startLengthQuery
        rw [hrun, hold, hfirst]
        simp only [hm, hidle]
        rfl
      rw [hstart, updateLength_none]
      rfl

end Sys2Proof.Machine

/-! PROOFS. The pieces of a record follow its overlap list (R62 to R68). -/

namespace Sys2Proof.Machine

/-! ### Overlap lists that cover a segment -/

theorem covers_of {b : Nat} : ∀ {a : Nat} {vs : List Overlap}, (vs.map (·.x0)).head? = some a → (vs.map (·.x1)).getLast? = some b →
    (∀ v ∈ vs, v.x0 < v.x1) → vs.IsChain (fun v w => v.x1 = w.x0) → Covers a b vs
  | _, [], h, _, _, _ => by cases h
  | a, [v], h, hlast, hlt, _ => by
    have h0 : v.x0 = a := Option.some.inj h
    have h1 : v.x1 = b := Option.some.inj hlast
    exact ⟨h0, h0 ▸ hlt v List.mem_cons_self, h1⟩
  | a, v :: w :: vs, h, hlast, hlt, hchain => by
    have h0 : v.x0 = a := Option.some.inj h
    obtain ⟨hvw, hchain⟩ := List.isChain_cons.1 hchain
    have hlink : v.x1 = w.x0 := hvw w rfl
    refine ⟨h0, h0 ▸ hlt v List.mem_cons_self, covers_of ?_ ?_ (fun x hx => hlt x (List.mem_cons_of_mem _ hx)) hchain⟩
    · exact congrArg some hlink.symm
    · rw [List.map_cons, List.map_cons, List.getLast?_cons_cons, ← List.map_cons] at hlast
      exact hlast

theorem Covers.ge {b : Nat} : ∀ {a : Nat} {vs : List Overlap}, Covers a b vs → ∀ v ∈ vs, a ≤ v.x0
  | _, _ :: _, ⟨h0, hlt, hrest⟩, v, hv => by
    rcases List.mem_cons.1 hv with rfl | hv
    · exact h0.ge
    · exact hlt.le.trans (hrest.ge v hv)

/-! ### The piece of an overlap entry (R63) -/

/-- A gap or merged piece for coil 0:0, else one from the images of its two ends (R63). -/
theorem buildPiece_cases (es : List Entry) (oStart : Nat) (v : Overlap) :
    (v.coil = .unknown ∧ buildPiece es oStart v = gapPiece oStart v) ∨
      v.coil ≠ .unknown ∧ ∃ i0 i1 unscaled broken, buildPiece es oStart v = pieceOf oStart v i0 i1 unscaled broken := by
  by_cases hc : v.coil = .unknown
  · exact .inl ⟨hc, if_pos hc⟩
  · refine .inr ⟨hc, ?_⟩
    unfold buildPiece
    rw [if_neg hc]
    split
    · exact ⟨_, _, _, _, rfl⟩
    · split
      · exact ⟨_, _, _, _, rfl⟩
      · unfold donePiece
        simp only
        split
        · split <;> exact ⟨_, _, _, _, rfl⟩
        · exact ⟨_, _, _, _, rfl⟩

section
variable (es : List Entry) (oStart : Nat) (v : Overlap)

theorem buildPiece_range : (buildPiece es oStart v).n0 = v.x0 - oStart ∧ (buildPiece es oStart v).n1 = v.x1 - oStart := by
  rcases buildPiece_cases es oStart v with ⟨_, h⟩ | ⟨_, _, _, _, _, h⟩ <;> rw [h] <;> exact ⟨rfl, rfl⟩

theorem buildPiece_ascends : (buildPiece es oStart v).sLo ≤ (buildPiece es oStart v).sHi := by
  rcases buildPiece_cases es oStart v with ⟨_, h⟩ | ⟨_, _, _, _, _, h⟩ <;> rw [h]
  · exact le_rfl
  · exact min_le_max

theorem buildPiece_source : (buildPiece es oStart v).source = v.coil ∧
    ((buildPiece es oStart v).reversed = true ↔ v.coil ≠ .unknown ∧ v.headFirst = false) := by
  rcases buildPiece_cases es oStart v with ⟨hc, h⟩ | ⟨hc, _, _, _, _, h⟩ <;> rw [h]
  · exact ⟨hc.symm, by simp [gapPiece, hc]⟩
  · exact ⟨rfl, by simp [pieceOf, hc]⟩

end

theorem pieces_cover {es : List Entry} {oStart oEnd : Nat} {vs : List Overlap} (h : Covers oStart oEnd vs) (hlt : oStart < oEnd) :
    let ps := vs.map (buildPiece es oStart)
    (ps.map (·.n0)).head? = some 0 ∧ (ps.map (·.n1)).getLast? = some (oEnd - oStart) ∧ ps.IsChain (fun p q => p.n1 = q.n0) ∧
      ∀ p ∈ ps, p.n0 < p.n1 ∧ p.sLo ≤ p.sHi := by
  intro ps
  have hn0 : ps.map (·.n0) = (vs.map (·.x0)).map (· - oStart) := by
    rw [List.map_map, List.map_map]
    exact List.map_congr_left fun v _ => (buildPiece_range es oStart v).1
  have hn1 : ps.map (·.n1) = (vs.map (·.x1)).map (· - oStart) := by
    rw [List.map_map, List.map_map]
    exact List.map_congr_left fun v _ => (buildPiece_range es oStart v).2
  refine ⟨?_, ?_, ?_, fun p hp => ?_⟩
  · rw [hn0, List.head?_map, h.first hlt, Option.map_some, Nat.sub_self]
  · rw [hn1, List.getLast?_map, h.last hlt, Option.map_some]
  · refine List.isChain_map_of_isChain _ (fun v w hvw => ?_) h.chain
    rw [(buildPiece_range es oStart v).2, (buildPiece_range es oStart w).1, hvw]
  · obtain ⟨v, hv, rfl⟩ := List.mem_map.1 hp
    obtain ⟨h0, h1⟩ := buildPiece_range es oStart v
    have hge := h.ge v hv
    have hlt := h.lt v hv
    exact ⟨by rw [h0, h1]; omega, buildPiece_ascends es oStart v⟩

/-! ### Scaled pieces (R64) -/

/-- The images of a scaled piece keep the order of the boundaries and stay within the length. -/
theorem scaled_between {a b span len : Nat} (hab : a ≤ b) (hb : b ≤ span) :
    a * len / span ≤ b * len / span ∧ b * len / span ≤ len :=
  ⟨Nat.div_le_div_right (Nat.mul_le_mul_right len hab),
    Nat.div_le_of_le_mul (Nat.mul_le_mul_right len hb)⟩

section
variable {es : List Entry} {v : Overlap} {e : Entry} {eEnd len : Nat}

theorem buildPiece_scaled (oStart : Nat) (hc : v.coil ≠ .unknown) (hlink : v.link.bind (findEntry es) = some e) (he : e.eEnd = some eEnd)
    (hl : e.length = some len) (hbroken : e.broken = false) (hoffset : e.offset = none) (hspan : eEnd - e.eStart ≤ 2 ^ 32 - 1) :
    buildPiece es oStart v = scaledPiece oStart v len e.eStart (eEnd - e.eStart) := by
  have hno : ¬ (e.broken = true ∨ e.offset.isSome = true ∨ Config.max32 < eEnd - e.eStart) := by
    rw [hbroken, hoffset]
    have : ¬ Config.max32 < eEnd - e.eStart := Nat.not_lt.2 hspan
    simp [this]
  unfold buildPiece
  simp only [if_neg hc, hlink, he]
  unfold donePiece
  simp only [hl]
  exact if_neg hno

end

/-! ### UNSCALED pieces (R65 to R67) -/

/-- The image of a boundary at a ratio of 1 from the start value, clamped to the length used (R65, R66). -/
theorem unscaledImage_int (headFirst : Bool) (length offset : Option Nat) {eRef x : Nat} (span : Nat) (hx : eRef ≤ x) :
    let lu := min (length.getD (span + offset.getD 0)) (2 ^ 32 - 1)
    let start : Int := match offset with
      | some o => min (o : Int) lu
      | none => if headFirst then 0 else (lu : Int)
    (unscaledImage headFirst length offset eRef span x : Int) =
      max 0 (min (lu : Int) (if headFirst then start + (x - eRef) else start - (x - eRef))) := by
  intro lu start
  let first : Nat := match offset with
    | some o => min o lu
    | none => if headFirst then 0 else lu
  have hstart : start = (first : Int) ∧ first ≤ lu := by
    simp only [start, first]
    cases offset <;> cases headFirst <;> simp
  obtain ⟨hstart, hfirst⟩ := hstart
  have himage : unscaledImage headFirst length offset eRef span x =
      if headFirst then min (first + (x - eRef)) lu else min (first - (x - eRef)) lu := by
    cases offset <;> rfl
  rw [himage, hstart]
  cases headFirst <;> simp only [Bool.false_eq_true, if_false, if_true] <;> omega

/-- The piece of an entry whose record ended without a length of its own to scale to (R63). -/
theorem buildPiece_unscaled {es : List Entry} (oStart : Nat) {v : Overlap} (e : Option Entry) (hc : v.coil ≠ .unknown)
    (hlink : v.link.bind (findEntry es) = e) :
    let eRef := (e.map (·.eStart)).getD v.x0
    let span := ((e.bind (·.eEnd)).getD v.x1) - eRef
    let done := (e.bind (·.eEnd)).isSome
    let length := e.bind (·.length)
    let offset := e.bind (·.offset)
    let broken := (e.map (·.broken)).getD false
    done = false ∨ broken = true ∨ offset ≠ none ∨ length = none ∨ 2 ^ 32 - 1 < span →
    buildPiece es oStart v = unscaledPiece oStart v length offset eRef span (done && broken) := by
  intro eRef span done length offset broken h
  unfold buildPiece
  simp only [if_neg hc, hlink]
  cases e with
  | none => rfl
  | some y =>
    cases he : y.eEnd with
    | none =>
      simp only [done, span, length, offset, eRef, broken, Option.bind_some, Option.map_some, Option.getD_some, he]
      rfl
    | some eEnd =>
      simp only [done, span, length, offset, eRef, broken, Option.bind_some, Option.map_some, Option.getD_some, he, Option.isSome_some,
        Bool.true_and] at h ⊢
      unfold donePiece
      simp only
      cases hl : y.length with
      | none => rfl
      | some len =>
        have hun : y.broken = true ∨ y.offset.isSome = true ∨ Config.max32 < eEnd - y.eStart := by
          rcases h with h | h | h | h | h
          · cases h
          · exact .inl h
          · exact .inr (.inl (Option.isSome_iff_ne_none.2 h))
          · rw [hl] at h
            cases h
          · exact .inr (.inr h)
        exact if_pos hun

/-- Settles O24: gap pieces and the cover, scaled pieces, UNSCALED pieces. -/
theorem piecesBuiltFromOverlaps : Obligations.PiecesBuiltFromOverlaps := by
  refine ⟨fun es oStart oEnd vs hfirst hlast hlt hchain => ?_, ?_, ?_⟩
  · intro ps
    have hcov := covers_of hfirst hlast hlt hchain
    have hab : oStart < oEnd := by
      cases vs with
      | nil => cases hfirst
      | cons v vs =>
        obtain ⟨_, h1, h2⟩ := hcov
        exact h1.trans_le h2.le
    obtain ⟨h1, h2, h3, h4⟩ := pieces_cover (es := es) hcov hab
    exact ⟨List.length_map .., h1, h2, h3, h4, fun v _ => buildPiece_source es oStart v, fun v _ hc => if_pos hc⟩
  · intro es oStart v e eEnd len hc hlink he hl hbroken hoffset hlt hspan h0 h01 h1 q p
    have hp : p = scaledPiece oStart v len e.eStart (eEnd - e.eStart) := buildPiece_scaled oStart hc hlink he hl hbroken hoffset hspan
    obtain ⟨hq, hlen⟩ := scaled_between (a := v.x0 - e.eStart) (b := v.x1 - e.eStart) (span := eEnd - e.eStart) (len := len)
      (by omega) (by omega)
    change q v.x0 ≤ q v.x1 at hq
    change q v.x1 ≤ len at hlen
    have hlo : p.sLo = min (if v.headFirst then q v.x0 else len - q v.x0) (if v.headFirst then q v.x1 else len - q v.x1) := by
      rw [hp]; rfl
    have hhi : p.sHi = max (if v.headFirst then q v.x0 else len - q v.x0) (if v.headFirst then q v.x1 else len - q v.x1) := by
      rw [hp]; rfl
    have hends : v.x0 = e.eStart → v.x1 = eEnd → q v.x0 = 0 ∧ q v.x1 = len := by
      rintro ha hb
      simp only [q, ha, hb, Nat.sub_self, Nat.zero_mul, Nat.zero_div, true_and]
      exact Nat.mul_div_cancel_left len (by omega)
    refine ⟨by rw [hp]; rfl, by rw [hp]; rfl, by rw [hp]; rfl, by rw [hp]; rfl, by rw [hp]; rfl, by rw [hp]; rfl, by rw [hp]; rfl, ?_⟩
    rw [hlo, hhi]
    cases v.headFirst with
    | true =>
      simp only [if_true]
      exact ⟨by omega, fun _ => ⟨by omega, by omega⟩, fun h => absurd h (by simp), fun ha hb => by have := hends ha hb; omega⟩
    | false =>
      simp only [Bool.false_eq_true, if_false]
      exact ⟨by omega, fun h => absurd h (by simp), fun _ => ⟨by omega, by omega⟩, fun ha hb => by have := hends ha hb; omega⟩
  · intro es oStart v e hc h01 hlink hstart eRef span done length offset broken hcase lu start image p
    have hp : p = unscaledPiece oStart v length offset eRef span (done && broken) := buildPiece_unscaled oStart e hc hlink hcase
    have href : eRef ≤ v.x0 := by
      cases e with
      | none => exact le_rfl
      | some y => exact hstart y rfl
    have h0 : (unscaledImage v.headFirst length offset eRef span v.x0 : Int) = image v.x0 := unscaledImage_int v.headFirst length offset span href
    have h1 : (unscaledImage v.headFirst length offset eRef span v.x1 : Int) = image v.x1 :=
      unscaledImage_int v.headFirst length offset span (href.trans h01.le)
    have hle : ∀ x, image x ≤ lu := fun x => max_le (Int.natCast_nonneg _) (min_le_left ..)
    have hlo : (p.sLo : Int) = min (image v.x0) (image v.x1) := by
      rw [hp, ← h0, ← h1]
      exact Nat.cast_min ..
    have hhi : (p.sHi : Int) = max (image v.x0) (image v.x1) := by
      rw [hp, ← h0, ← h1]
      exact Nat.cast_max ..
    refine ⟨by rw [hp]; rfl, by rw [hp]; rfl, by rw [hp]; rfl, by rw [hp]; rfl, by rw [hp]; rfl, by rw [hp]; rfl, by rw [hp]; rfl, hlo, hhi, ?_⟩
    have : (p.sHi : Int) ≤ lu := hhi ▸ max_le (hle _) (hle _)
    exact Int.ofNat_le.1 this

end Sys2Proof.Machine

/-! PROOFS. Good frames heard (R95, R118): the blocks of their kinds take them, or no block does. -/

namespace Sys2Proof.Machine

/-! ### The receiver (R80, R95, R96, R118) -/

/-- The state in which the receiver has just had a good frame: it hunts (R80). -/
def State.hunting (s : State) : State := { s with bus := { s.bus with rx := .hunt, driven := true, observed := true } }

theorem heardFrom_eq (s : State) (source : BitVec 6) (h0 : source ≠ 0) (h63 : source ≠ 63) :
    s.hunting.updateRoster source RosterEntry.heard = s.heardFrom source := by
  rw [updateRoster_eq]
  by_cases hown : source = s.settings.station
  · have hoff : source = 0 ∨ source = 63 ∨ source = s.hunting.settings.station := .inr (.inr hown)
    rw [if_pos hoff]
    unfold State.heardFrom
    simp only [if_pos hown]
    rfl
  · have hon : ¬ (source = 0 ∨ source = 63 ∨ source = s.hunting.settings.station) := fun h => h.elim h0 fun h => h.elim h63 hown
    rw [if_neg hon]
    unfold State.heardFrom
    simp only [if_neg hown]
    rfl

/-- A frame from a station number off the bus moves the receiver alone (R95). -/
theorem receiveFrame_off {source : BitVec 6} (h : source = 0 ∨ source = 63) (kind : Option FrameKind) (dest : BitVec 6) (tag : Byte)
    (payload : List Byte) (s : State) : receiveFrame kind source dest tag payload s = s.hunting := by
  have hoff : (!busStation source) = true := by
    rcases h with rfl | rfl <;> rfl
  unfold receiveFrame
  simp only
  rw [if_pos hoff]
  rfl

theorem busStation_of_ne {source : BitVec 6} (h0 : source ≠ 0) (h63 : source ≠ 63) : busStation source = true := by
  unfold busStation
  rw [Bool.and_eq_true, bne_iff_ne, bne_iff_ne]
  exact ⟨h0, h63⟩

section
variable {s : State} {source : BitVec 6} (h0 : source ≠ 0) (h63 : source ≠ 63) {kind : Option FrameKind}
  (hown : source ≠ s.settings.station ∨ kind ≠ some .presence) {dest : BitVec 6} (tag : Byte) (payload : List Byte)
include h0 h63 hown

theorem receiveFrame_heard : receiveFrame kind source dest tag payload s =
    match kind with
    | none => s.heardFrom source
    | some k => if dest = s.settings.station ∨ dest = 63 then dispatch k source dest tag payload (s.heardFrom source)
      else s.heardFrom source := by
  have hon : ¬ (!busStation source) = true := by rw [busStation_of_ne h0 h63]; simp
  have hmute : ¬ (source = s.settings.station ∧ kind = some .presence) := fun h => hown.elim (· h.1) (· h.2)
  unfold receiveFrame
  simp only
  rw [if_neg hon]
  refine (if_neg hmute).trans ?_
  cases kind with
  | none => exact heardFrom_eq s source h0 h63
  | some k =>
    exact congrArg (fun u : State => if dest = u.settings.station ∨ dest = 63 then dispatch k source dest tag payload u else u)
      (heardFrom_eq s source h0 h63)

/-- A frame to a third station, or of an undefined kind or class, is only heard (R95, R118). -/
theorem receiveFrame_passed (h : dest ≠ s.settings.station ∧ dest ≠ 63 ∨ kind = none) :
    receiveFrame kind source dest tag payload s = s.heardFrom source := by
  rw [receiveFrame_heard h0 h63 hown]
  cases kind with
  | none => rfl
  | some k =>
    rcases h with ⟨h1, h2⟩ | h
    · exact if_neg fun h => h.elim h1 h2
    · cases h

end

/-- A frame addressed to this station or to all goes to the block of its kind (R95). -/
theorem receiveFrame_dispatch {s : State} {source : BitVec 6} (h0 : source ≠ 0) (h63 : source ≠ 63) {k : FrameKind}
    (hown : source ≠ s.settings.station ∨ k ≠ .presence) {dest : BitVec 6} (hdest : dest = s.settings.station ∨ dest = 63)
    (tag : Byte) (payload : List Byte) :
    receiveFrame (some k) source dest tag payload s = dispatch k source dest tag payload (s.heardFrom source) := by
  rw [receiveFrame_heard h0 h63 (hown.imp_right fun h hk => h (Option.some.inj hk))]
  exact if_pos hdest

theorem frameArrives_wf {payload : List Byte} (hwf : frameWf payload = true) (kind : Option FrameKind) (source dest : BitVec 6)
    (tag : Byte) (s : State) : frameArrives kind source dest tag payload s = receiveFrame kind source dest tag payload s :=
  if_neg (Nat.not_lt.2 (of_decide_eq_true hwf))

/-! ### COIL-ANNOUNCE (R72 to R76) -/

theorem selects_iff (t : Template) (c : Coil) : t.selects c = true ↔ t.enable = true ∧
    c.station &&& t.mask.station = t.base.station &&& t.mask.station ∧ c.seq &&& t.mask.seq = t.base.seq &&& t.mask.seq := by
  unfold Template.selects
  rw [Bool.and_eq_true, Bool.and_eq_true, beq_iff_eq, beq_iff_eq, and_assoc]

theorem passes_iff (own source : BitVec 6) (r : LineageRec) : r.passes own source = true ↔ r.coil.station ≠ 0 ∧ r.coil.station ≠ own ∧
    r.coil.station = source ∧ 0 < r.length ∧ (1 ≤ r.lane ∧ r.lane ≤ r.lanes) ∧ (1 ≤ r.pieces.length ∧ r.pieces.length ≤ 8) ∧
      piecesMeet 0 r.pieces = true ∧ lastEnd r.pieces = r.length := by
  unfold LineageRec.passes
  simp only [Bool.and_eq_true, bne_iff_ne, beq_iff_eq, decide_eq_true_eq, and_assoc]

theorem highBits_iff (payload : List Byte) (off : Nat) : highBits payload off = 0 ↔ field payload off 1 < 64 := by
  unfold highBits
  omega

/-- The record that a COIL-ANNOUNCE brings, where its bytes pass R99. -/
theorem takeAnnounce_none {source : BitVec 6} {payload : List Byte} (h : parseRecord payload = none ∨ 64 ≤ field payload 0 1) (s : State) :
    takeAnnounce source payload s = s := by
  unfold takeAnnounce
  have hnone : (if highBits payload 0 = 0 then parseRecord payload else none) = none := by
    rcases h with h | h
    · rw [h, ite_self]
    · exact if_neg fun hz => Nat.not_lt.2 h ((highBits_iff ..).1 hz)
  rw [hnone]

theorem takeAnnounce_some {source : BitVec 6} {payload : List Byte} {r : LineageRec} (hbits : field payload 0 1 < 64)
    (hr : parseRecord payload = some r) (s : State) : takeAnnounce source payload s =
      if (∃ t ∈ s.lch.templates, t.selects r.coil = true) ∨ (∃ y ∈ s.lch.cache, y.coil = r.coil) then s.keepRecord source r else s := by
  have hsome : (if highBits payload 0 = 0 then parseRecord payload else none) = some r :=
    (if_pos ((highBits_iff ..).2 hbits)).trans hr
  unfold takeAnnounce
  rw [hsome]
  simp only [Bool.or_eq_true, List.any_eq_true, beq_iff_eq]

theorem exec_coilAnnounce {s : State} {source dest : BitVec 6} {tag : Byte} {payload : List Byte}
    (hwf : (Instr.coilAnnounce source dest tag payload).wf = true) (h0 : source ≠ 0) (h63 : source ≠ 63)
    (hdest : dest = s.settings.station ∨ dest = 63) : exec (.coilAnnounce source dest tag payload) s =
      whenReceiving s (takeAnnounce source payload (s.heardFrom source)) := by
  change whenReceiving s (frameArrives (some .coilAnnounce) source dest tag payload s) = _
  rw [frameArrives_wf hwf, receiveFrame_dispatch h0 h63 (.inr (by simp)) hdest]
  rfl

/-- Settles O26: a record kept by selection or because it is held, and the records that are not kept. -/
theorem announcementKept : Obligations.AnnouncementKept := by
  intro s source dest tag payload hr hwf h0 h63 hown hdest selects heard
  rw [exec_coilAnnounce hwf h0 h63 hdest]
  have hselects : ∀ c, (∃ t ∈ s.lch.templates, t.selects c = true) ↔ ∃ t ∈ s.lch.templates, selects t c := fun c => by
    simp only [selects_iff, selects]
  refine ⟨fun r hbits hrec hst hlen hlane hlanes hp1 hp8 hmeet hend hkeep => receiving_of_eq hr ?_, fun h => receiving_of_eq hr ?_⟩
  · rw [takeAnnounce_some hbits hrec]
    have hcond : (∃ t ∈ (s.heardFrom source).lch.templates, t.selects r.coil = true) ∨ (∃ y ∈ (s.heardFrom source).lch.cache, y.coil = r.coil) :=
      hkeep.imp_left (hselects r.coil).2
    have hpass : r.passes (s.heardFrom source).settings.station source = true :=
      (passes_iff ..).2 ⟨hst ▸ h0, hst ▸ hown, hst, hlen, ⟨hlane, hlanes⟩, ⟨hp1, hp8⟩, hmeet, hend⟩
    rw [if_pos hcond]
    exact if_pos hpass
  · by_cases hnone : parseRecord payload = none ∨ 64 ≤ field payload 0 1
    · exact takeAnnounce_none hnone _
    · obtain ⟨hsome, hbits⟩ := not_or.1 hnone
      obtain ⟨r, hrec⟩ := Option.ne_none_iff_exists'.1 hsome
      have hfail := (h.resolve_left hsome).resolve_left hbits r hrec
      rw [takeAnnounce_some (Nat.not_le.1 hbits) hrec]
      split
      · rename_i hcond
        refine if_neg fun hpass => ?_
        obtain ⟨_, _, hst, hlen, ⟨hlane, hlanes⟩, ⟨hp1, hp8⟩, hmeet, hend⟩ := (passes_iff ..).1 hpass
        rcases hfail with h | h | h | h | h | h | h | h | ⟨hno, hnone⟩
        · exact h hst
        · omega
        · omega
        · omega
        · omega
        · omega
        · rw [h] at hmeet; cases hmeet
        · exact h hend
        · rcases hcond with hsel | ⟨y, hy, hyc⟩
          · obtain ⟨t, ht, hsel⟩ := (hselects r.coil).1 hsel
            exact hno t ht hsel
          · exact hnone y hy hyc
      · rfl

end Sys2Proof.Machine

/-! PROOFS. Frames without content (R95, R118), and the requests of peers (R99, R102). -/

namespace Sys2Proof.Machine

/-! ### The rows of good frames -/

/-- The kind under which the receiver takes the frame of a row; none for an undefined kind or class. -/
def frameKindOf : Instr → Option FrameKind
  | .time .. => some .time
  | .lineageReply .. => some .lineageReply
  | .sampleReply .. => some .sampleReply
  | .descentReply .. => some .descentReply
  | .lineageQuery .. => some .lineageQuery
  | .sampleFetch .. => some .sampleFetch
  | .descentQuery .. => some .descentQuery
  | .coilAnnounce .. => some .coilAnnounce
  | .presence .. => some .presence
  | _ => none

theorem ofCode_undefined : ∀ (cls : BitVec 3) (kind : BitVec 4), definedKind cls kind = false →
    FrameKind.ofCode cls.toNat kind.toNat = none := by
  decide

theorem exec_frame {mk : BitVec 6 → BitVec 6 → Byte → List Byte → Instr}
    (hmk : mk = .time ∨ mk = .lineageReply ∨ mk = .sampleReply ∨ mk = .descentReply ∨ mk = .lineageQuery ∨ mk = .sampleFetch ∨
      mk = .descentQuery ∨ mk = .coilAnnounce ∨ mk = .presence ∨
      (∃ cls kind, mk = (fun a d t p => .undefinedFrameKind cls a kind d t p) ∧ definedKind cls kind = false))
    {source dest : BitVec 6} {tag : Byte} {payload : List Byte} (hwf : (mk source dest tag payload).wf = true) (s : State) :
    exec (mk source dest tag payload) s =
      whenReceiving s (receiveFrame (frameKindOf (mk source dest tag payload)) source dest tag payload s) := by
  have harrives : ∀ k, frameWf payload = true → whenReceiving s (frameArrives k source dest tag payload s) =
      whenReceiving s (receiveFrame k source dest tag payload s) := fun k h => by rw [frameArrives_wf h]
  rcases hmk with rfl | rfl | rfl | rfl | rfl | rfl | rfl | rfl | rfl | ⟨cls, kind, rfl, hundef⟩
  case inr.inr.inr.inr.inr.inr.inr.inr.inr =>
    have hlen : frameWf payload = true := (Bool.and_eq_true _ _ ▸ hwf : frameWf payload = true ∧ _).1
    change whenReceiving s (frameArrives (FrameKind.ofCode cls.toNat kind.toNat) source dest tag payload s) = _
    rw [ofCode_undefined cls kind hundef]
    exact harrives none hlen
  all_goals exact harrives _ hwf

theorem heard_eq (e : RosterEntry) : e.heard = if e.state = .absent ∨ e.state = .silent then { e with state := .present } else e := by
  obtain ⟨st, codes⟩ := e
  cases st <;> rfl

/-- What another station's frame does to the roster (R118). -/
theorem heardFrom_other {s : State} {source : BitVec 6} (h : source ≠ s.settings.station) : s.heardFrom source = { s.hunting with
    ros := { s.ros with roster := s.ros.roster.set (source.toNat - 1) (s.rosterEntry source).heard } } := by
  unfold State.heardFrom
  rw [if_neg h]
  rfl

theorem heardFrom_own {s : State} {source : BitVec 6} (h : source = s.settings.station) : s.heardFrom source = s.hunting := by
  unfold State.heardFrom
  rw [if_pos h]
  rfl

/-! ### Kinds that no block takes from the own station number, and replies that no block can read -/

theorem keepRecord_own (r : LineageRec) (s : State) : s.keepRecord s.settings.station r = s := by
  refine if_neg fun h => ?_
  obtain ⟨_, hne, heq, _⟩ := (passes_iff ..).1 h
  exact hne heq

theorem takeAnnounce_own (payload : List Byte) (s : State) : takeAnnounce s.settings.station payload s = s := by
  unfold takeAnnounce
  split
  · rfl
  · split
    · exact keepRecord_own _ s
    · rfl

theorem takeRequest_refused {kind : FrameKind} {source dest : BitVec 6} {tag : Byte} {payload : List Byte} {s : State}
    (h : ¬ (requestParses kind payload = true ∧ s.bus.muted = false ∧ source ≠ s.settings.station ∧
      destSuits s.settings.station kind dest = true)) : takeRequest kind source dest tag payload s = s := by
  refine if_neg fun hc => h ?_
  simp only [Bool.and_eq_true, Bool.not_eq_true', bne_iff_ne] at hc
  obtain ⟨⟨⟨h1, h2⟩, h3⟩, h4⟩ := hc
  exact ⟨h1, h2, h3, h4⟩

/-- A request, a COIL-ANNOUNCE and a DESCENT-REPLY from the own station number have no effect (R73, R102, R165). -/
theorem dispatch_own {k : FrameKind}
    (hk : k = .lineageQuery ∨ k = .sampleFetch ∨ k = .descentQuery ∨ k = .coilAnnounce ∨ k = .descentReply) (dest : BitVec 6) (tag : Byte)
    (payload : List Byte) (s : State) : dispatch k s.settings.station dest tag payload s = s := by
  rcases hk with rfl | rfl | rfl | rfl | rfl
  · exact takeRequest_refused fun h => h.2.2.1 rfl
  · exact takeRequest_refused fun h => h.2.2.1 rfl
  · exact takeRequest_refused fun h => h.2.2.1 rfl
  · exact takeAnnounce_own payload s
  · unfold dispatch
    simp only
    cases parseDescentPart payload with
    | none => rfl
    | some x => exact if_neg fun h => h.2.2.1 rfl

theorem dispatch_illFormed {k : FrameKind} {payload : List Byte}
    (hk : k = .lineageReply ∧ parseLineageAnswer payload = none ∨ k = .sampleReply ∧ parseFetchResult payload = none ∨
      k = .descentReply ∧ parseDescentPart payload = none) (source dest : BitVec 6) (tag : Byte) (s : State) :
    dispatch k source dest tag payload s = s := by
  rcases hk with ⟨rfl, h⟩ | ⟨rfl, h⟩ | ⟨rfl, h⟩
  · unfold dispatch takeLineageReply
    simp only [h]
  · unfold dispatch
    simp only [h]
  · unfold dispatch
    simp only [h]

/-- Settles O35: the sources off the bus, the frames passed by, the own station number, and ill-formed replies. -/
theorem framesWithoutContent : Obligations.FramesWithoutContent := by
  intro s mk source dest tag payload hr hmk hwf line e heard
  have hexec := exec_frame hmk hwf s
  have hheard : source ≠ s.settings.station → s.heardFrom source =
      { line with ros := { s.ros with roster := s.ros.roster.set (source.toNat - 1) heard } } := fun h => by
    rw [heardFrom_other h, heard_eq]
    rfl
  have hundef : (∃ cls kind, mk = fun a d t p => .undefinedFrameKind cls a kind d t p) → frameKindOf (mk source dest tag payload) = none := by
    rintro ⟨cls, kind, rfl⟩
    rfl
  rw [hexec]
  refine ⟨fun h => receiving_of_eq hr (receiveFrame_off h ..), fun h0 h63 hown h => receiving_of_eq hr ?_,
    fun hown hpres h => receiving_of_eq hr ?_, fun h0 h63 hown h => receiving_of_eq hr ?_⟩
  · exact (receiveFrame_passed h0 h63 (.inl hown) tag payload (h.imp_right hundef)).trans (hheard hown)
  · by_cases hoff : source = 0 ∨ source = 63
    · exact receiveFrame_off hoff ..
    · obtain ⟨h0, h63⟩ := not_or.1 hoff
      have hkind : frameKindOf (mk source dest tag payload) ≠ some .presence := by
        rcases hmk with rfl | rfl | rfl | rfl | rfl | rfl | rfl | rfl | rfl | ⟨cls, kind, rfl, _⟩
        case inr.inr.inr.inr.inr.inr.inr.inr.inl => exact absurd rfl hpres
        all_goals simp [frameKindOf]
      have hquiet : ∀ k : FrameKind, k = .lineageQuery ∨ k = .sampleFetch ∨ k = .descentQuery ∨ k = .coilAnnounce ∨ k = .descentReply →
          receiveFrame (some k) source dest tag payload s = line := fun k hk => by
        rw [receiveFrame_heard h0 h63 (.inr (by rcases hk with rfl | rfl | rfl | rfl | rfl <;> simp)), heardFrom_own hown]
        have hdispatch : dispatch k source dest tag payload s.hunting = s.hunting := by
          rw [hown]
          exact dispatch_own hk dest tag payload s.hunting
        simp only [hdispatch, ite_self]
        rfl
      have hpassed : dest ≠ s.settings.station ∧ dest ≠ 63 ∨ frameKindOf (mk source dest tag payload) = none →
          receiveFrame (frameKindOf (mk source dest tag payload)) source dest tag payload s = line := fun h =>
        (receiveFrame_passed h0 h63 (.inr hkind) tag payload h).trans (heardFrom_own hown)
      rcases h with rfl | rfl | rfl | rfl | rfl | h | h
      · exact hquiet _ (by simp)
      · exact hquiet _ (by simp)
      · exact hquiet _ (by simp)
      · exact hquiet _ (by simp)
      · exact hquiet _ (by simp)
      · exact hpassed (.inl h)
      · exact hpassed (.inr (hundef h))
  · rw [← hheard hown]
    have hquiet : ∀ k : FrameKind, (k = .lineageReply ∧ parseLineageAnswer payload = none ∨ k = .sampleReply ∧ parseFetchResult payload = none ∨
        k = .descentReply ∧ parseDescentPart payload = none) → receiveFrame (some k) source dest tag payload s = s.heardFrom source :=
      fun k hk => by
        rw [receiveFrame_heard h0 h63 (.inl hown)]
        simp only [dispatch_illFormed hk, ite_self]
    rcases h with ⟨rfl, h⟩ | ⟨rfl, h⟩ | ⟨rfl, h⟩
    · exact hquiet _ (.inl ⟨rfl, h⟩)
    · exact hquiet _ (.inr (.inl ⟨rfl, h⟩))
    · exact hquiet _ (.inr (.inr ⟨rfl, h⟩))

/-! ### Requests of peers (R99, R102) -/

theorem requestParses_iff {kind : FrameKind} (hk : kind = .lineageQuery ∨ kind = .sampleFetch ∨ kind = .descentQuery) (payload : List Byte) :
    requestParses kind payload = true ↔ field payload 0 1 < 64 ∧ payload.length = (if kind = .sampleFetch then 15 else 5) := by
  have hcoil : (parseCoil payload).isSome = true ↔ field payload 0 1 < 64 ∧ payload.length = 5 := by
    unfold parseCoil
    rw [← highBits_iff, and_comm (b := payload.length = _)]
    split
    · exact iff_of_true rfl ‹_›
    · exact iff_of_false (by simp) ‹_›
  have hfetch : (parseFetch payload).isSome = true ↔ field payload 0 1 < 64 ∧ payload.length = 15 := by
    unfold parseFetch
    rw [← highBits_iff, and_comm (b := payload.length = _)]
    split
    · exact iff_of_true rfl ‹_›
    · exact iff_of_false (by simp) ‹_›
  rcases hk with rfl | rfl | rfl
  · exact hcoil
  · exact hfetch
  · exact hcoil

theorem destSuits_iff (own dest : BitVec 6) (kind : FrameKind) :
    destSuits own kind dest = true ↔ dest = own ∨ dest = 63 ∧ kind = .descentQuery := by
  unfold destSuits
  rw [Bool.or_eq_true, Bool.and_eq_true, beq_iff_eq, beq_iff_eq, beq_iff_eq, and_comm (a := kind = _)]

theorem takeRequest_taken {kind : FrameKind} {source dest : BitVec 6} {payload : List Byte} {s : State}
    (hp : requestParses kind payload = true) (hm : s.bus.muted = false) (hown : source ≠ s.settings.station)
    (hd : destSuits s.settings.station kind dest = true) (tag : Byte) :
    takeRequest kind source dest tag payload s = serviceArrive ⟨source, tag, kind, payload⟩ s := by
  refine if_pos ?_
  simp only [hp, hm, hd, Bool.and_eq_true, bne_iff_ne]
  exact ⟨⟨⟨trivial, rfl⟩, hown⟩, trivial⟩

/-- Settles O36: the request queued, dropped from a full queue, or only heard. -/
theorem peerRequestQueued : Obligations.PeerRequestQueued := by
  intro s kind mk source dest tag payload hr hmk hwf h0 h63 hown heard good
  have hk : kind = .lineageQuery ∨ kind = .sampleFetch ∨ kind = .descentQuery :=
    hmk.imp And.right (Or.imp And.right And.right)
  have hheard : s.heardFrom source = heard := heardFrom_other hown
  have hexec : exec (mk source dest tag payload) s = whenReceiving s (if dest = s.settings.station ∨ dest = 63 then
      takeRequest kind source dest tag payload heard else heard) := by
    rw [← hheard]
    rcases hmk with ⟨rfl, rfl⟩ | ⟨rfl, rfl⟩ | ⟨rfl, rfl⟩
    all_goals
      rw [exec_frame (by simp) hwf s]
      exact congrArg (whenReceiving s) (receiveFrame_heard h0 h63 (.inl hown) tag payload)
  have hgood : good ↔ requestParses kind payload = true ∧ s.bus.muted = false ∧ destSuits s.settings.station kind dest = true := by
    rw [requestParses_iff hk, destSuits_iff, and_assoc]
  have htaken : good → (if dest = s.settings.station ∨ dest = 63 then takeRequest kind source dest tag payload heard else heard) =
      serviceArrive ⟨source, tag, kind, payload⟩ heard := fun hg => by
    obtain ⟨h1, h2, h3⟩ := hgood.1 hg
    have hdest : dest = s.settings.station ∨ dest = 63 := ((destSuits_iff ..).1 h3).imp_right And.left
    rw [if_pos hdest]
    exact takeRequest_taken (s := heard) h1 h2 hown h3 tag
  rw [hexec]
  refine ⟨fun hg hlen => receiving_of_eq hr ?_, fun hg hlen => receiving_of_eq hr ?_, fun hg => receiving_of_eq hr ?_⟩
  · rw [htaken hg]
    exact if_pos hlen
  · rw [htaken hg]
    have hfull : ¬ heard.pse.service.length < Config.serviceCap := Nat.not_lt.2 hlen
    unfold serviceArrive
    rw [if_neg hfull]
    unfold State.markServiceDrop
    by_cases hmark : s.sup.markService = true
    · rw [if_pos hmark]
      exact if_pos hmark
    · rw [if_neg hmark]
      exact if_neg hmark
  · split
    · exact takeRequest_refused fun h => hg (hgood.2 ⟨h.1, h.2.1, h.2.2.2⟩)
    · rfl

end Sys2Proof.Machine

/-! PROOFS. The line below the frame: idle and stuck lines, bad frames, lost arbitration and collisions (R80 to R90). -/

namespace Sys2Proof.Machine

theorem resetPin_of_receives {s : State} (h : s.receives = true) : s.sup.resetPin = false := by
  unfold State.receives at h
  rw [Bool.and_eq_true, Bool.not_eq_true'] at h
  exact h.2

/-- No frame of this station is on the line. -/
theorem onLinePlace_none {q : List TxEntry} (h : ∀ e ∈ q, e.onLine = false) : onLinePlace q = none :=
  List.findIdx?_eq_none_iff.2 h

/-- The frame of this station on the line (R85). -/
theorem onLinePlace_some {q : List TxEntry} {j : Nat} {e : TxEntry} (he : q[j]? = some e) (hon : e.onLine = true)
    (hfirst : ∀ (i : Nat) (x : TxEntry), q[i]? = some x → i < j → x.onLine = false) : onLinePlace q = some j :=
  findIdx?_first he hon fun i x hi hx => hfirst i x hx hi

theorem exec_lineIdle {s : State} (hr : s.receives = true) (hoff : ∀ e ∈ s.bus.queue, e.onLine = false) :
    exec .lineIdle s = commit s (some (becomeIdle s)) := by
  have hidle : (s.receives && !s.sending) = true := by
    have hsend : s.sending = false := by
      unfold State.sending
      rw [onLinePlace_none hoff]
      rfl
    rw [hr, hsend]
    rfl
  change commit s (if s.receives && !s.sending then some (becomeIdle s) else none) = _
  rw [if_pos hidle]

/-- Settles O27: nothing starts, or the head frame does. -/
theorem idleLineStartsHead : Obligations.IdleLineStartsHead := by
  intro s hr hoff
  rw [exec_lineIdle hr hoff]
  let idle : State := { s with bus := { s.bus with rx := .idle, stuck := false, driven := true, observed := true } }
  have hrun : idle.running = true := State.running_of_receives hr
  refine ⟨fun h => commit_of_eq (congrArg some ?_), fun j e he hhead hmay => commit_of_eq (congrArg some ?_)⟩
  · refine startHead_refused (s := idle) fun j e hj => ?_
    obtain ⟨hj, _⟩ := hj
    rw [Bool.eq_false_iff]
    intro hmay
    obtain ⟨_, _, hfree⟩ := (mayStart_iff hrun e).1 hmay
    rcases h with hnil | ⟨hmuted, hfinal⟩
    · have hq : idle.bus.queue = [] := hnil
      rw [hq] at hj
      cases hj
    · rcases hfree with hclear | howner
      · exact absurd (hmuted.symm.trans hclear) (by simp)
      · exact hfinal e (List.mem_of_getElem? hj) howner
  · exact startHead_of_head (s := idle) rfl ⟨he, hhead⟩ ((mayStart_iff hrun e).2 ⟨resetPin_of_receives hr, rfl, hmay⟩)

/-- Settles O28: BUS-STUCK, a bad frame, and the bits of no frame yet. -/
theorem stuckLineAndBadFrame : Obligations.StuckLineAndBadFrame := by
  intro s bits hr
  refine ⟨receiving_of_eq hr rfl, fun h => receiving_of_eq hr ?_, fun h => receiving_of_eq hr ?_⟩
  · unfold receiveBits
    simp only [h]
    unfold discardBadFrame State.markBadFrame
    by_cases hmark : s.sup.markBad = true
    · rw [if_pos hmark, if_pos hmark]
      rfl
    · rw [if_neg hmark, if_neg hmark]
      rfl
  · unfold receiveBits
    simp only [h]

/-! ### The frame on the line (R86, R87) -/

section
variable {s : State} {j : Nat} {e : TxEntry} (hr : s.receives = true) (he : s.bus.queue[j]? = some e) (hon : e.onLine = true)
  (hfirst : ∀ (i : Nat) (x : TxEntry), s.bus.queue[i]? = some x → i < j → x.onLine = false)
include hr he hon hfirst

/-- An event of the frame on the line reaches that frame. -/
theorem onLineEvent_of (f : Nat → TxEntry → State → State) : onLineEvent f s = some (f j e s) := by
  unfold onLineEvent
  rw [if_pos hr, onLinePlace_some he hon hfirst]
  simp only [he, Option.map_some]

theorem exec_lostArbitration : exec .lostArbitration s = commit s (some (loseArbitration j e s)) :=
  congrArg (commit s) (onLineEvent_of hr he hon hfirst loseArbitration)

theorem exec_collision : exec .collision s = commit s (some (collide j e s)) :=
  congrArg (commit s) (onLineEvent_of hr he hon hfirst collide)

end

theorem returnToQueue_withdrawn {e : TxEntry} (h : e.withdrawn = true) (j : Nat) (s : State) : returnToQueue j e s = s.removeTx j :=
  if_pos h

theorem returnToQueue_stays {e : TxEntry} {s : State} (h : e.withdrawn = false) (hw : e.wait < s.settings.queueWait) (j : Nat) :
    returnToQueue j e s = offLine j e s := by
  unfold returnToQueue
  rw [if_neg (by simp [h]), if_neg (Nat.not_le.2 hw)]

theorem returnToQueue_waited {e : TxEntry} {s : State} (h : e.withdrawn = false) (hw : s.settings.queueWait ≤ e.wait) (j : Nat) :
    returnToQueue j e s = dropFrame j e .txWait s := by
  unfold returnToQueue
  rw [if_neg (by simp [h]), if_pos hw]

/-- A collision as far as the line and its count go (R87). -/
def State.collided (s : State) : State :=
  { s with bus := { s.bus with collisions := satSucc Config.max16 s.bus.collisions, driven := true } }

theorem collide_returns {e : TxEntry} (h : e.withdrawn = true ∨ e.collisions < 2) (j : Nat) (s : State) :
    collide j e s = returnToQueue j { e with collisions := e.collisions + 1 } s.collided := by
  unfold collide
  refine if_neg ?_
  simp only [Bool.and_eq_true, Bool.not_eq_true', decide_eq_true_eq]
  rintro ⟨hw, hlimit⟩
  rcases h with h | h
  · exact absurd (h.symm.trans hw) (by simp)
  · have : 3 ≤ e.collisions + 1 := hlimit
    omega

theorem collide_drops {e : TxEntry} (hw : e.withdrawn = false) (h : 2 ≤ e.collisions) (j : Nat) (s : State) :
    collide j e s = dropFrame j { e with collisions := e.collisions + 1 } .busCollision s.collided := by
  unfold collide
  refine if_pos ?_
  simp only [hw, Bool.not_false, Bool.true_and, decide_eq_true_eq]
  exact Nat.succ_le_succ h

/-- Settles O29: the frame returns to its place, and a withdrawn one leaves. -/
theorem frameReturnsToQueue : Obligations.FrameReturnsToQueue := by
  intro s j e hr he hon hfirst
  rw [exec_lostArbitration hr he hon hfirst, exec_collision hr he hon hfirst]
  refine ⟨fun hw hwait => commit_of_eq (congrArg some ?_), fun hw hwait hcol => commit_of_eq (congrArg some ?_),
    fun hw => ⟨commit_of_eq (congrArg some ?_), commit_of_eq (congrArg some ?_)⟩⟩
  · unfold loseArbitration
    rw [returnToQueue_stays hw (by exact hwait)]
    rfl
  · rw [collide_returns (.inr hcol), returnToQueue_stays (e := { e with collisions := e.collisions + 1 }) hw (by exact hwait)]
    rfl
  · unfold loseArbitration
    rw [returnToQueue_withdrawn hw]
    rfl
  · rw [collide_returns (.inl hw), returnToQueue_withdrawn (e := { e with collisions := e.collisions + 1 }) hw]
    rfl

end Sys2Proof.Machine

/-! PROOFS. Failed attempts of the slots of REQ and of the descendant collector (R130, R147, R148, R164). -/

namespace Sys2Proof.Machine

/-! ### Lineage-query slots (R130, R131) -/

/-- The request side after the lineage query of slot `i` has come to nothing (R130, R131, R136, R160). -/
def Req.queryLost (r : Req) (i : Nat) (gen : BitVec 2) (b : QueryBusy) : Req :=
  let idle : Req := { r with queries := r.queries.set i ⟨gen, none⟩ }
  match b.serves with
  | .resolution => { idle with refusal := some .unreachable }
  | .coilList => { idle with plan := r.plan.map fun p => { p with coils := p.coils.map fun x =>
      if x = (b.coil, .looking) then (b.coil, .unreachable) else x } }
  | .place => { idle with walk := { r.walk with places := r.walk.places.map fun p =>
      if p.coil = b.coil ∧ p.outcome = .looking then { p with outcome := .unreachable } else p } }

theorem endQuery_unreachable (i : Nat) (gen : BitVec 2) (b : QueryBusy) (s : State) : endQuery i gen b .unreachable s = { s with
    bus := (s.withdraw fun o => o == .reqQuery i).bus, req := s.req.queryLost i gen b } := by
  unfold endQuery settleQuery Req.queryLost
  cases b.serves with
  | resolution => rfl
  | place => rfl
  | coilList =>
    have hcoils : ∀ l : List (Coil × RecState), (l.map fun x => if x.1 = b.coil ∧ x.2 = .looking then (x.1, RecState.unreachable) else x) =
        l.map fun x => if x = (b.coil, .looking) then (b.coil, .unreachable) else x := fun l => by
      refine List.map_congr_left fun x _ => ?_
      by_cases hx : x = (b.coil, .looking)
      · rw [if_pos hx, if_pos (by rw [hx]; exact ⟨rfl, rfl⟩), hx]
      · rw [if_neg hx, if_neg fun h => hx (Prod.ext h.1 h.2)]
    simp only [State.setReq, QueryOutcome.recState, hcoils]
    rfl

section
variable {s : State} {i : Nat} {gen : BitVec 2} {b : QueryBusy} (hslot : s.req.queries[i]? = some ⟨gen, some b⟩) (drop : Bool)
include hslot

/-- Another attempt of a lineage query (R130): it is offered under the same tag. -/
theorem failQuery_retry (ht : b.tries < b.allowed) (hm : s.bus.muted = false) : failQuery i drop s = { s with
    req := { s.req with queries := s.req.queries.set i ⟨gen, some { b with
      tries := b.tries + 1, dropped := b.dropped || drop, timer := none }⟩ }
    bus := { s.bus with waiting := s.bus.waiting ++ [⟨⟨.lineageQuery, b.coil.station, BitVec.ofNat 8 (64 + i * 4 + gen.toNat),
      coilBytes 0 b.coil⟩, .reqQuery i, 0, 0, false, false⟩] } } := by
  unfold failQuery
  rw [hslot]
  exact if_pos ⟨ht, by rw [hm]; rfl⟩

/-- The last attempt of a lineage query, and any under MUTED, ends it (R130, R98, R120). -/
theorem failQuery_end (h : b.allowed ≤ b.tries ∨ s.bus.muted = true) : failQuery i drop s =
    endQuery i gen b .unreachable (if (b.dropped || drop) = true ∨ b.tries < b.allowed then s else s.reportSilent b.coil.station) := by
  have hno : ¬ (b.tries < b.allowed ∧ (!s.bus.muted) = true) := by
    rintro ⟨h1, h2⟩
    rcases h with h | h
    · omega
    · rw [h] at h2
      cases h2
  unfold failQuery
  rw [hslot]
  refine (if_neg hno).trans ?_
  simp only [Bool.or_eq_true, decide_eq_true_eq]

end

/-! ### REMOTE fetch slots (R147, R148) -/

/-- A fetch slot ends with one outcome for its points (R148). -/
theorem endFetch_outcome (i : Nat) (gen : BitVec 2) (g : Group) (o : Outcome) (clamped : Bool) (s : State) : ∃ depths,
    endFetch i gen g (outcomeResult o clamped) s = { s with
      bus := (s.withdraw fun w => w == .reqFetch i).bus
      req := { s.req with fetches := s.req.fetches.set i ⟨gen, none⟩, depths } } ∧
    GroupFilled s.req.depths depths g (fun _ => none) clamped (some o) :=
  ⟨_, rfl, groupFilled_fill s.req.depths g (fun _ => none) clamped (some o)⟩

section
variable {s : State} {i : Nat} {gen : BitVec 2} {b : FetchBusy} (hslot : s.req.fetches[i]? = some ⟨gen, some b⟩) (drop : Bool)
include hslot

/-- Another attempt of a fetch (R147): it is offered under the same tag. -/
theorem failFetch_retry (ht : b.tries < b.group.allowed) (hm : s.bus.muted = false) : failFetch i drop s = { s with
    req := { s.req with fetches := s.req.fetches.set i ⟨gen, some { b with
      tries := b.tries + 1, dropped := b.dropped || drop, timer := none }⟩ }
    bus := { s.bus with waiting := s.bus.waiting ++ [⟨⟨.sampleFetch, b.group.coil.station, BitVec.ofNat 8 (i * 4 + gen.toNat),
      fetchBytes ⟨b.group.coil, s.req.play.quantity, b.group.posFrom, b.group.posTo, b.group.count⟩⟩,
      .reqFetch i, 0, 0, false, false⟩] } } := by
  have htag : makeTag 0 i gen.toNat = BitVec.ofNat 8 (i * 4 + gen.toNat) := by
    unfold makeTag
    rw [Nat.zero_mul, Nat.zero_add]
  unfold failFetch
  rw [hslot, ← htag]
  exact if_pos ⟨ht, by rw [hm]; rfl⟩

/-- The last attempt of a fetch, and any under MUTED, ends it (R148, R98, R120). -/
theorem failFetch_end (h : b.group.allowed ≤ b.tries ∨ s.bus.muted = true) : failFetch i drop s =
    endFetch i gen b.group (outcomeResult (if s.bus.muted then .unreachable else .unanswered) false)
      (if s.bus.muted = true ∨ (b.dropped || drop) = true then s else s.reportSilent b.group.coil.station) := by
  have hno : ¬ (b.tries < b.group.allowed ∧ (!s.bus.muted) = true) := by
    rintro ⟨h1, h2⟩
    rcases h with h | h
    · omega
    · rw [h] at h2
      cases h2
  unfold failFetch
  rw [hslot]
  refine (if_neg hno).trans ?_
  cases hm : s.bus.muted with
  | true => simp
  | false => simp

end

/-! ### The descendant collector (R164) -/

theorem failDescent_retry {s : State} {p : Place} (hp : s.req.walk.places[s.req.walk.expanded]? = some p)
    (ht : s.req.collector.tries < 1 + s.settings.retryLimit) (hm : s.bus.muted = false) : failDescent s = { s with
      req := { s.req with collector := { s.req.collector with tries := s.req.collector.tries + 1 } }
      bus := { s.bus with waiting := s.bus.waiting ++ [⟨⟨.descentQuery, 63, BitVec.ofNat 8 (192 + s.req.collector.gen.toNat),
        coilBytes 0 p.coil⟩, .reqDescent, 0, 0, false, false⟩] } } := by
  unfold failDescent Walk.place
  rw [hp]
  exact if_pos ⟨ht, by rw [hm]; rfl⟩

theorem failDescent_end {s : State} {p : Place} (hp : s.req.walk.places[s.req.walk.expanded]? = some p)
    (h : 1 + s.settings.retryLimit ≤ s.req.collector.tries ∨ s.bus.muted = true) : failDescent s = { s with
      req := { s.req with
        collector := { s.req.collector with state := .idle, tries := 0, quiet := 0, overall := 0, parts := [] }
        walk := { s.req.walk with expanded := s.req.walk.expanded + 1, dropped := s.req.walk.dropped + 1 } } } := by
  have hno : ¬ (s.req.collector.tries < 1 + s.settings.retryLimit ∧ (!s.bus.muted) = true) := by
    rintro ⟨h1, h2⟩
    rcases h with h | h
    · omega
    · rw [h] at h2
      cases h2
  unfold failDescent Walk.place
  rw [hp]
  exact if_neg hno

/-! ### The reply timers run out (R130, R147) -/

theorem exec_lineageQueryTimeout {s : State} {i : BitVec 3} {gen : BitVec 2} {b : QueryBusy} (hrun : s.running = true)
    (hslot : s.req.queries[i.toNat]? = some ⟨gen, some b⟩) (htimer : b.timer = some 0) :
    exec (.lineageQueryTimeout i) s = commit s (some (failQuery i.toNat false s)) := by
  have hdue : queryTimerDue i.toNat s = true := by simp [queryTimerDue, hrun, hslot, htimer]
  change commit s (if queryTimerDue i.toNat s then _ else none) = _
  rw [if_pos hdue]

theorem exec_fetchTimeout {s : State} {i : BitVec 4} {gen : BitVec 2} {b : FetchBusy} (hrun : s.running = true)
    (hslot : s.req.fetches[i.toNat]? = some ⟨gen, some b⟩) (htimer : b.timer = some 0) :
    exec (.fetchTimeout i) s = commit s (some (failFetch i.toNat false s)) := by
  have hdue : fetchTimerDue i.toNat s = true := by simp [fetchTimerDue, hrun, hslot, htimer]
  change commit s (if fetchTimerDue i.toNat s then _ else none) = _
  rw [if_pos hdue]

/-- The roster after a request whose every attempt timed out, unless `quiet` (R120). -/
theorem reportSilent_unless {q p : Prop} [Decidable q] [Decidable p] (hqp : q ↔ p) (s : State) (st : BitVec 6) :
    (if q then s else s.reportSilent st) = { s with ros := if p ∨ st = 0 ∨ st = 63 ∨ st = s.settings.station then s.ros
      else { s.ros with roster := s.ros.roster.set (st.toNat - 1) ⟨.silent, (s.rosterEntry st).codes⟩ } } := by
  by_cases hp : p
  · rw [if_pos (hqp.2 hp), if_pos (.inl hp)]
  · rw [if_neg (mt hqp.1 hp)]
    unfold State.reportSilent
    rw [updateRoster_eq]
    by_cases hoff : st = 0 ∨ st = 63 ∨ st = s.settings.station
    · have hkeep : p ∨ st = 0 ∨ st = 63 ∨ st = s.settings.station := .inr hoff
      rw [if_pos hoff, if_pos hkeep]
    · have hset : ¬ (p ∨ st = 0 ∨ st = 63 ∨ st = s.settings.station) := fun h => h.elim hp hoff
      rw [if_neg hoff, if_neg hset]

/-- Settles O47: the failed attempt of a lineage query and of a fetch. -/
theorem requestTimesOut : Obligations.RequestTimesOut := by
  intro s hrun silent
  refine ⟨fun i gen b hslot htimer => ⟨fun ht hm => ?_, fun h => ?_⟩, fun i gen b hslot htimer => ⟨fun ht hm => ?_, fun h => ?_⟩⟩
  · rw [exec_lineageQueryTimeout hrun hslot htimer]
    refine commit_of_eq (congrArg some ((failQuery_retry hslot false ht hm).trans ?_))
    rw [Bool.or_false]
  · intro idle
    rw [exec_lineageQueryTimeout hrun hslot htimer]
    refine commit_of_eq (congrArg some ((failQuery_end hslot false h).trans ?_))
    rw [reportSilent_unless (p := (b.dropped || decide (b.tries < b.allowed)) = true) (by simp), endQuery_unreachable]
    rfl
  · rw [exec_fetchTimeout hrun hslot htimer]
    refine commit_of_eq (congrArg some ((failFetch_retry hslot false ht hm).trans ?_))
    rw [Bool.or_false]
  · rw [exec_fetchTimeout hrun hslot htimer, failFetch_end hslot false h,
      reportSilent_unless (p := (b.dropped || s.bus.muted) = true) (by simp [or_comm])]
    obtain ⟨depths, hend, hfilled⟩ := endFetch_outcome i.toNat gen b.group (if s.bus.muted then .unreachable else .unanswered) false
      { s with ros := if (b.dropped || s.bus.muted) = true ∨ b.group.coil.station = 0 ∨ b.group.coil.station = 63 ∨
          b.group.coil.station = s.settings.station then s.ros
        else { s.ros with roster := s.ros.roster.set (b.group.coil.station.toNat - 1)
                                      ⟨.silent, (s.rosterEntry b.group.coil.station).codes⟩ } }
    obtain ⟨t, ht, hc⟩ := commit_of_eq (s := s) (congrArg some hend)
    exact ⟨_, t, ht, hc, rfl, hfilled⟩

end Sys2Proof.Machine

/-! PROOFS. Frames dropped (R87, R92), and what their owners do at the report. -/

namespace Sys2Proof.Machine

/-! ### Reports of dropped frames (R40, R122, R130, R147, R164) -/

section
variable {s : State} {e : TxEntry} (hw : e.withdrawn = false)
include hw

theorem reportDropped_owner : reportDropped e s = match e.owner with
    | .ctrQuery i => if sameGen ((s.ctr.slots[i]?).map (·.gen)) e.frame.tag then failLengthQuery i true s else s
    | .reqQuery i => if sameGen ((s.req.queries[i]?).map (·.gen)) e.frame.tag then failQuery i true s else s
    | .reqFetch i => if sameGen ((s.req.fetches[i]?).map (·.gen)) e.frame.tag then failFetch i true s else s
    | .reqDescent =>
      if s.req.collector.state = .offering ∧ e.frame.tag = collectorTag s.req.collector then failDescent s else s
    | .rosStart => if s.bus.muted then s else s.offer e.frame .rosStart
    | .ctrAnnounce | .pseReply | .rosTime | .rosAnswer | .busFinal => s := by
  refine (if_neg (by simp [hw])).trans ?_
  cases e.owner <;> rfl

/-- The owners that do nothing at the report. -/
theorem reportDropped_quiet (h : e.owner = .ctrAnnounce ∨ e.owner = .pseReply ∨ e.owner = .rosTime ∨ e.owner = .rosAnswer ∨
    e.owner = .busFinal ∨ e.owner = .rosStart ∧ s.bus.muted = true) : reportDropped e s = s := by
  rw [reportDropped_owner hw]
  rcases h with h | h | h | h | h | ⟨h, hm⟩ <;> simp only [h]
  exact if_pos hm

theorem reportDropped_start (h : e.owner = .rosStart) (hm : s.bus.muted = false) :
    reportDropped e s = s.offer e.frame .rosStart := by
  rw [reportDropped_owner hw]
  simp only [h, hm]
  rfl

theorem reportDropped_lengthQuery {i : Nat} {b : LengthBusy} (h : e.owner = .ctrQuery i)
    (hslot : s.ctr.slots[i]? = some ⟨tagGen e.frame.tag, some b⟩) : reportDropped e s = failLengthQuery i true s := by
  rw [reportDropped_owner hw]
  simp only [h, hslot]
  exact if_pos (by simp [sameGen])

theorem reportDropped_query {i : Nat} {b : QueryBusy} (h : e.owner = .reqQuery i)
    (hslot : s.req.queries[i]? = some ⟨tagGen e.frame.tag, some b⟩) : reportDropped e s = failQuery i true s := by
  rw [reportDropped_owner hw]
  simp only [h, hslot]
  exact if_pos (by simp [sameGen])

theorem reportDropped_fetch {i : Nat} {b : FetchBusy} (h : e.owner = .reqFetch i)
    (hslot : s.req.fetches[i]? = some ⟨tagGen e.frame.tag, some b⟩) : reportDropped e s = failFetch i true s := by
  rw [reportDropped_owner hw]
  simp only [h, hslot]
  exact if_pos (by simp [sameGen])

theorem reportDropped_descent (h : e.owner = .reqDescent) (hst : s.req.collector.state = .offering)
    (htag : e.frame.tag = BitVec.ofNat 8 (192 + s.req.collector.gen.toNat)) : reportDropped e s = failDescent s := by
  rw [reportDropped_owner hw]
  simp only [h]
  exact if_pos ⟨hst, htag⟩

end

/-- The last attempt of a length query is dropped (R40): the query ends without a report to ROS. -/
theorem failLengthQuery_lost {s : State} {i : Nat} {gen : BitVec 2} {b : LengthBusy} (hslot : s.ctr.slots[i]? = some ⟨gen, some b⟩)
    (h : b.allowed ≤ b.tries ∨ s.bus.muted = true) : failLengthQuery i true s = { s with
      ctr := { s.ctr with
        slots := s.ctr.slots.set i ⟨gen, none⟩
        decls := s.ctr.decls.map fun d => if d.id = b.link then { d with lq := .none } else d
        entries := s.ctr.entries.map fun e => if e.id = b.link then { e with lq := .none } else e }
      bus := { s.bus with waiting := s.bus.waiting.filter fun e => e.owner != .ctrQuery i } } := by
  rw [failLengthQuery_end hslot true h, if_pos (.inl (Bool.or_true _))]

/-- The last attempt of a lineage query is dropped (R130). -/
theorem failQuery_lost {s : State} {i : Nat} {gen : BitVec 2} {b : QueryBusy} (hslot : s.req.queries[i]? = some ⟨gen, some b⟩)
    (h : b.allowed ≤ b.tries ∨ s.bus.muted = true) : failQuery i true s = { s with
      bus := (s.withdraw fun o => o == .reqQuery i).bus, req := s.req.queryLost i gen b } := by
  rw [failQuery_end hslot true h, if_pos (.inl (Bool.or_true _)), endQuery_unreachable]

/-- The last attempt of a fetch is dropped (R148). -/
theorem failFetch_lost {s : State} {i : Nat} {gen : BitVec 2} {b : FetchBusy} (hslot : s.req.fetches[i]? = some ⟨gen, some b⟩)
    (h : b.group.allowed ≤ b.tries ∨ s.bus.muted = true) : ∃ depths, failFetch i true s = { s with
      bus := (s.withdraw fun o => o == .reqFetch i).bus
      req := { s.req with fetches := s.req.fetches.set i ⟨gen, none⟩, depths } } ∧
      GroupFilled s.req.depths depths b.group (fun _ => none) false (some (if s.bus.muted then .unreachable else .unanswered)) := by
  have hquiet : s.bus.muted = true ∨ (b.dropped || true) = true := .inr (Bool.or_true _)
  rw [failFetch_end hslot true h, if_pos hquiet]
  exact endFetch_outcome ..

/-! ### The rows that drop a frame -/

theorem exec_txWait {s : State} {place : BitVec 4} {e : TxEntry} (hrun : s.running = true) (he : s.bus.queue[place.toNat]? = some e)
    (hoff : e.onLine = false) (hwait : s.settings.queueWait ≤ e.wait) :
    exec (.txWait place) s = commit s (some (State.startHead (dropFrame place.toNat e .txWait s))) := by
  have hout : waitedOut place.toNat s = some e := by
    unfold waitedOut
    rw [he]
    simp [hoff, hwait]
  change commit s (if s.running then (waitedOut place.toNat s).map _ else none) = _
  rw [if_pos hrun, hout]
  rfl

/-- Settles O30: the dropped frame leaves the queue with its fault, and its owner is told. -/
theorem frameDropped : Obligations.FrameDropped := by
  intro s j e hrun he hw gone counted first drops ends offered gen c v hdrop
  have hv : v.ctr = s.ctr ∧ v.req = s.req ∧ v.settings = s.settings ∧ v.bus.muted = s.bus.muted := by
    rcases hdrop with ⟨_, _, _, _, rfl⟩ | ⟨_, _, _, _, _, rfl⟩ | ⟨_, _, _, _, rfl⟩ | ⟨_, _, _, _, _, rfl⟩ <;> exact ⟨rfl, rfl, rfl, rfl⟩
  obtain ⟨hctr, hreq, hset, hmuted⟩ := hv
  have reach : ∀ u, reportDropped e v = u → ends c u := by
    rintro u rfl
    have hline : e.onLine = true → first → s.receives = true ∧
        ∀ (i : Nat) (x : TxEntry), s.bus.queue[i]? = some x → i < j → x.onLine = false := fun _ hfirst => by
      obtain ⟨hpin, hbefore⟩ := hfirst
      exact ⟨by unfold State.receives; rw [hrun, hpin]; rfl, hbefore⟩
    rcases hdrop with ⟨rfl, hon, hfirst, hcol, rfl⟩ | ⟨rfl, hon, hfirst, hcol, hwait, rfl⟩ | ⟨rfl, hon, hfirst, hwait, rfl⟩ |
      ⟨place, rfl, rfl, hoff, hwait, rfl⟩
    · obtain ⟨hr, hbefore⟩ := hline hon hfirst
      change ∃ t, _ = _ ∧ Carried (if e.onLine then _ else _) t
      rw [if_pos hon, exec_collision hr he hon hbefore, collide_drops hw hcol]
      exact commit_of_eq rfl
    · obtain ⟨hr, hbefore⟩ := hline hon hfirst
      change ∃ t, _ = _ ∧ Carried (if e.onLine then _ else _) t
      rw [if_pos hon, exec_collision hr he hon hbefore, collide_returns (.inr hcol),
        returnToQueue_waited (e := { e with collisions := e.collisions + 1 }) hw (by exact hwait)]
      exact commit_of_eq rfl
    · obtain ⟨hr, hbefore⟩ := hline hon hfirst
      change ∃ t, _ = _ ∧ Carried (if e.onLine then _ else _) t
      rw [if_pos hon, exec_lostArbitration hr he hon hbefore]
      unfold loseArbitration
      rw [returnToQueue_waited hw (by exact hwait)]
      exact commit_of_eq rfl
    · change ∃ t, _ = _ ∧ Carried (if e.onLine then _ else _) t
      rw [if_neg (by simp [hoff]), exec_txWait hrun he hoff hwait]
      exact commit_of_eq rfl
  refine ⟨fun h => reach v (reportDropped_quiet hw (by rw [hmuted]; exact h)), fun h hm => reach _ ?_, fun i b h hslot => ?_,
    fun i b h hslot => ?_, fun i b h hslot => ?_, fun h hst htag p hp => ?_⟩
  · rw [reportDropped_start hw h (by rw [hmuted]; exact hm)]
    simp only [offered, h]
    rfl
  · have hslot' : v.ctr.slots[i]? = some ⟨tagGen e.frame.tag, some b⟩ := by rw [hctr]; exact hslot
    have htell := reportDropped_lengthQuery hw h hslot'
    refine ⟨fun ht hm => reach _ ?_, fun hlast => reach _ ?_⟩
    · rw [htell, failLengthQuery_retry hslot' true ht (by rw [hmuted]; exact hm), hctr, Bool.or_true]
      simp only [offered, h]
      rfl
    · rw [htell, failLengthQuery_lost hslot' (by rw [hmuted]; exact hlast), hctr]
      rfl
  · have hslot' : v.req.queries[i]? = some ⟨tagGen e.frame.tag, some b⟩ := by rw [hreq]; exact hslot
    have htell := reportDropped_query hw h hslot'
    refine ⟨fun ht hm => reach _ ?_, fun hlast => reach _ ?_⟩
    · rw [htell, failQuery_retry hslot' true ht (by rw [hmuted]; exact hm), hreq, Bool.or_true]
      simp only [offered, h]
      rfl
    · rw [htell, failQuery_lost hslot' (by rw [hmuted]; exact hlast), hreq]
      rfl
  · have hslot' : v.req.fetches[i]? = some ⟨tagGen e.frame.tag, some b⟩ := by rw [hreq]; exact hslot
    have htell := reportDropped_fetch hw h hslot'
    refine ⟨fun ht hm => reach _ ?_, fun hlast => ?_⟩
    · rw [htell, failFetch_retry hslot' true ht (by rw [hmuted]; exact hm), hreq, Bool.or_true]
      simp only [offered, h]
      rfl
    · obtain ⟨depths, hend, hfilled⟩ := failFetch_lost hslot' (by rw [hmuted]; exact hlast)
      rw [hreq] at hend hfilled
      rw [hmuted] at hfilled
      exact ⟨depths, reach _ (htell.trans hend), hfilled⟩
  · have htell := reportDropped_descent (s := v) hw h (by rw [hreq]; exact hst) (by rw [hreq]; exact htag)
    have hp' : v.req.walk.places[v.req.walk.expanded]? = some p := by rw [hreq]; exact hp
    refine ⟨fun ht hm => reach _ ?_, fun hlast => reach _ ?_⟩
    · rw [htell, failDescent_retry hp' (by rw [hreq, hset]; exact ht) (by rw [hmuted]; exact hm), hreq]
      simp only [offered, h]
    · rw [htell, failDescent_end hp' (by rw [hreq, hset, hmuted]; exact hlast), hreq]

end Sys2Proof.Machine

/-! PROOFS. Frames sent (R80, R88), and the free entries of the transmit queue (R56, R90, R91). -/

namespace Sys2Proof.Machine

/-! ### Reports of sent frames (R40, R130, R147, R164) -/

section
variable {s : State} {e : TxEntry}

/-- The reports that change nothing: of a withdrawn frame, and of an owner that waits for nothing (R57, R93). -/
theorem reportSent_quiet (h : e.withdrawn = true ∨ e.owner = .ctrAnnounce ∨ e.owner = .pseReply ∨ e.owner = .rosTime ∨
    e.owner = .rosStart ∨ e.owner = .rosAnswer ∨ e.owner = .busFinal) : reportSent e s = s := by
  unfold reportSent
  split
  · rfl
  · rename_i hw
    rcases h with h | h | h | h | h | h | h
    · exact absurd h hw
    all_goals simp only [h]

variable (hw : e.withdrawn = false)
include hw

theorem reportSent_lengthQuery {i : Nat} {b : LengthBusy} (h : e.owner = .ctrQuery i)
    (hslot : s.ctr.slots[i]? = some ⟨tagGen e.frame.tag, some b⟩) : reportSent e s = { s with
      ctr := { s.ctr with slots := s.ctr.slots.set i ⟨tagGen e.frame.tag, some { b with timer := some s.settings.replyTimeout }⟩ } } := by
  unfold reportSent
  rw [if_neg (by simp [hw])]
  simp only [h]
  unfold sentLengthQuery
  rw [hslot]
  exact if_pos rfl

theorem reportSent_query {i : Nat} {b : QueryBusy} (h : e.owner = .reqQuery i)
    (hslot : s.req.queries[i]? = some ⟨tagGen e.frame.tag, some b⟩) : reportSent e s = { s with
      req := { s.req with queries := s.req.queries.set i ⟨tagGen e.frame.tag, some { b with timer := some s.settings.replyTimeout }⟩ } } := by
  unfold reportSent
  rw [if_neg (by simp [hw])]
  simp only [h]
  unfold sentQuery
  rw [hslot]
  exact if_pos rfl

theorem reportSent_fetch {i : Nat} {b : FetchBusy} (h : e.owner = .reqFetch i)
    (hslot : s.req.fetches[i]? = some ⟨tagGen e.frame.tag, some b⟩) : reportSent e s = { s with
      req := { s.req with fetches := s.req.fetches.set i ⟨tagGen e.frame.tag, some { b with timer := some s.settings.replyTimeout }⟩ } } := by
  unfold reportSent
  rw [if_neg (by simp [hw])]
  simp only [h]
  unfold sentFetch
  rw [hslot]
  exact if_pos rfl

theorem reportSent_descent (h : e.owner = .reqDescent) (hst : s.req.collector.state = .offering)
    (htag : e.frame.tag = BitVec.ofNat 8 (192 + s.req.collector.gen.toNat)) : reportSent e s = { s with
      req := { s.req with collector := { s.req.collector with state := .collecting, quiet := 100, overall := 1000 } } } := by
  unfold reportSent
  rw [if_neg (by simp [hw])]
  simp only [h]
  exact if_pos ⟨hst, htag⟩

end

theorem exec_frameSent {s : State} {j : Nat} {e : TxEntry} (hr : s.receives = true) (he : s.bus.queue[j]? = some e) (hon : e.onLine = true)
    (hfirst : ∀ (i : Nat) (x : TxEntry), s.bus.queue[i]? = some x → i < j → x.onLine = false) :
    exec .frameSent s = commit s (some (sendFrame j e s)) :=
  congrArg (commit s) (onLineEvent_of hr he hon hfirst sendFrame)

/-! ### Free entries of the transmit queue (R90, R91) -/

/-- A frame joins, seen from the state in which other frames wait. -/
theorem joins_waiting {s : State} {xs : List TxEntry} {ws : List TxEntry} {b : Bus}
    (h : State.Joins { s with bus := { s.bus with waiting := ws } } xs b) :
    ∃ b', s.Joins xs b' ∧ b = { b' with waiting := ws } := by
  obtain ⟨hrest, hstart⟩ := h
  have hw : b.waiting = ws := by
    by_cases hx : ∃ j e, xs ≠ [] ∧ s.sup.resetPin = false ∧ s.bus.rx = .idle ∧ s.bus.stuck = false ∧ (s.bus.queue ++ xs)[j]? = some e ∧
        (∀ (i : Nat) (x : TxEntry), (s.bus.queue ++ xs)[i]? = some x →
          e.frame.kind.cls ≤ x.frame.kind.cls ∧ (x.frame.kind.cls = e.frame.kind.cls → j ≤ i)) ∧
        (s.bus.muted = false ∨ e.owner = .busFinal)
    · obtain ⟨j, e, he⟩ := hx
      rw [hstart j e he]
    · rw [hrest fun j e he => hx ⟨j, e, he⟩]
  refine ⟨{ b with waiting := s.bus.waiting }, ⟨fun hno => ?_, fun j e he => ?_⟩, by rw [← hw]⟩
  · rw [hrest hno]
  · rw [hstart j e he]

section
variable {s : State}

theorem fillStep_none (h : s.running = false ∨ 16 ≤ s.bus.queue.length ∨ s.bus.waiting = [] ∧ s.pendingAnnounce = none) :
    fillStep s = none := by
  unfold fillStep
  rcases h with h | h | ⟨hw, hp⟩
  · exact if_pos (by rw [h]; rfl)
  · exact if_pos (Bool.or_eq_true _ _ ▸ .inr (decide_eq_true h))
  · rw [hw, hp]
    exact ite_self _

theorem entryFree (hrun : s.running = true) (hlen : s.bus.queue.length < 16) :
    ¬ (!s.running || decide (Config.txCap ≤ s.bus.queue.length)) = true := by
  have hfree : ¬ Config.txCap ≤ s.bus.queue.length := Nat.not_le.2 hlen
  simp [hrun, hfree]

theorem fillStep_waiting (hrun : s.running = true) (hlen : s.bus.queue.length < 16) {j : Nat} {e : TxEntry} (h : IsHead s.bus.waiting j e)
    (hc : e.frame.kind.cls ≤ 3 ∨ s.pendingAnnounce = none) : fillStep s = some (joinWaiting j e s) := by
  unfold fillStep
  rw [if_neg (entryFree hrun hlen), lowestClass_of_head h]
  cases hp : s.pendingAnnounce with
  | none => simp only [h.1, Option.map_some]
  | some l =>
    have hle : e.frame.kind.cls ≤ 3 := hc.resolve_right (by simp [hp])
    simp only [if_pos hle, h.1, Option.map_some]

theorem fillStep_announce (hrun : s.running = true) (hlen : s.bus.queue.length < 16) {l : LineageRec} (hp : s.pendingAnnounce = some l)
    (hw : ∀ x ∈ s.bus.waiting, 3 < x.frame.kind.cls) : fillStep s = some (joinAnnounce l s) := by
  unfold fillStep
  rw [if_neg (entryFree hrun hlen), hp]
  cases hl : lowestClass s.bus.waiting with
  | none => rfl
  | some x =>
    obtain ⟨j, k⟩ := x
    obtain ⟨e, he, hk⟩ := lowestClass_some hl
    have hgt : ¬ k ≤ 3 := by
      have := hw e (List.mem_of_getElem? he.1)
      omega
    exact if_neg hgt

end

/-- PSE goes on after its reply has joined: the next part waits, or the engine is IDLE (R103, R107). -/
theorem pseJoined_eq (s : State) : pseJoined s = match s.pse.engine with
    | .holding [] => { s with pse := { s.pse with engine := .idle } }
    | .holding (f :: rest) => if s.bus.muted then { s with pse := { s.pse with engine := .idle } } else { s with
        bus := { s.bus with waiting := s.bus.waiting ++ [⟨f, .pseReply, 0, 0, false, false⟩] }
        pse := { s.pse with engine := .holding rest } }
    | _ => s := by
  unfold pseJoined
  cases s.pse.engine with
  | holding rest => cases rest <;> rfl
  | idle => rfl
  | evaluating r ev => rfl

theorem joinWaiting_eq {s : State} (hrun : s.running = true) (j : Nat) (e : TxEntry) :
    ∃ b, s.Joins [⟨e.frame, e.owner, 0, 0, false, false⟩] b ∧
      let joined : State := { s with bus := { b with waiting := s.bus.waiting.eraseIdx j } }
      joinWaiting j e s = if e.owner = .pseReply then pseJoined joined else joined := by
  obtain ⟨b, hb, hjoin⟩ := join_joins (s := { s with bus := { s.bus with waiting := s.bus.waiting.eraseIdx j } }) hrun e.frame e.owner
  obtain ⟨b', hjoin', rfl⟩ := joins_waiting hjoin
  refine ⟨b', hjoin', ?_⟩
  unfold joinWaiting
  simp only
  rw [hb]

/-- The exit record whose announcement CTR offers (R56). -/
theorem pendingAnnounce_none {s : State} (h : (if s.bus.muted then none else s.ctr.exits.find? fun r => match r.body with
    | .final _ mark => mark
    | .pending .. => false) = none) : s.pendingAnnounce = none := by
  unfold State.pendingAnnounce Ctr.firstPending
  cases hm : s.bus.muted with
  | true => rfl
  | false =>
    rw [hm] at h
    exact congrArg (Option.bind · ExitRec.lineage) h

theorem pendingAnnounce_some {s : State} {r : ExitRec} {ps : List Piece} {mark : Bool} (hb : r.body = .final ps mark)
    (h : (if s.bus.muted then none else s.ctr.exits.find? fun r => match r.body with
      | .final _ mark => mark
      | .pending .. => false) = some r) : s.pendingAnnounce = some (r.lineageWith ps) := by
  have hl : r.lineage = some (r.lineageWith ps) := by
    unfold ExitRec.lineage
    rw [hb]
    rfl
  unfold State.pendingAnnounce Ctr.firstPending
  cases hm : s.bus.muted with
  | true =>
    rw [hm] at h
    cases h
  | false =>
    rw [hm] at h
    exact (congrArg (Option.bind · ExitRec.lineage) h).trans hl

theorem setAnnounce_false (c : Coil) (y : ExitRec) : setAnnounce false c y = if y.coil = c then y.unmarked else y := by
  unfold setAnnounce ExitRec.unmarked
  split <;> cases y.body <;> rfl

/-- Settles O31: the report of a frame sent, and the frame that takes a free entry. -/
theorem frameSentReported : Obligations.FrameSentReported := by
  constructor
  · intro s j e hr he hon hfirst sent gen
    rw [exec_frameSent hr he hon hfirst]
    have reach : ∀ u, reportSent e sent = u → ∃ t, commit s (some (sendFrame j e s)) = .next t ∧ Carried u t := fun u hu =>
      commit_of_eq (congrArg some hu)
    exact ⟨fun h => reach _ (reportSent_quiet h), fun hw i b h hslot => reach _ (reportSent_lengthQuery hw h hslot),
      fun hw i b h hslot => reach _ (reportSent_query hw h hslot), fun hw i b h hslot => reach _ (reportSent_fetch hw h hslot),
      fun hw h hst htag => reach _ (reportSent_descent hw h hst htag)⟩
  · intro s marked
    refine ⟨fun h => fillStep_none (h.imp_right (Or.imp_right (And.imp_right pendingAnnounce_none))), fun hrun hlen =>
      ⟨fun j e he hhead hc => ?_, fun r ps hmarked hbody hw => ?_⟩⟩
    · obtain ⟨b, hb, hjoin⟩ := joinWaiting_eq hrun j e
      refine ⟨b, hb, ?_⟩
      rw [fillStep_waiting hrun hlen ⟨he, hhead⟩ (hc.imp_right pendingAnnounce_none), hjoin]
      refine congrArg some ?_
      have hmuted : b.muted = s.bus.muted := (joins_queue hb).2
      by_cases howner : e.owner = .pseReply
      · rw [if_pos howner, pseJoined_eq, howner]
        cases s.pse.engine with
        | holding rest =>
          cases rest with
          | nil => rfl
          | cons f rest => simp only [hmuted]
        | idle => rfl
        | evaluating r ev => rfl
      · rw [if_neg howner]
        cases ho : e.owner with
        | pseReply => exact absurd ho howner
        | _ => rfl
    · obtain ⟨b, hb, hjoin⟩ := join_joins (s := { s with ctr := { s.ctr with exits := s.ctr.exits.map (setAnnounce false r.coil) } }) hrun
        (announceFrame (r.lineageWith ps)) .ctrAnnounce
      refine ⟨b, hjoin, ?_⟩
      rw [fillStep_announce hrun hlen (pendingAnnounce_some hbody hmarked) hw]
      refine congrArg some (hb.trans ?_)
      rw [List.map_congr_left fun y _ => setAnnounce_false r.coil y]

end Sys2Proof.Machine

/-! PROOFS. The peer evaluator answers (R103, R105 to R112). -/

namespace Sys2Proof.Machine

/-! ### The next page of an evaluation (R112) -/

/-- The better of two pages, where one may be missing. -/
def lesserPage : Option Nat → Option Nat → Option Nat
  | none, q => q
  | some b, none => some b
  | some b, some q => some (min b q)

theorem pageFrom_eq (points : List PointAcc) (p : Nat) :
    pageFrom points p = points.foldl (fun best a => lesserPage best (a.pageFrom p)) none := by
  refine congrArg (fun f => points.foldl f none) ?_
  funext best a
  cases best <;> cases a.pageFrom p <;> rfl

theorem foldl_lesserPage (p : Nat) : ∀ (points : List PointAcc) (best : Option Nat),
    let found := points.foldl (fun best a => lesserPage best (a.pageFrom p)) best
    (found = none ↔ best = none ∧ ∀ a ∈ points, a.pageFrom p = none) ∧
      ∀ j, found = some j → (best = some j ∨ ∃ a ∈ points, a.pageFrom p = some j) ∧ (∀ b, best = some b → j ≤ b) ∧
        ∀ a ∈ points, ∀ q, a.pageFrom p = some q → j ≤ q
  | [], best => by simp +contextual
  | a :: points, best => by
    obtain ⟨hnone, hsome⟩ := foldl_lesserPage p points (lesserPage best (a.pageFrom p))
    simp only [List.foldl_cons]
    refine ⟨?_, fun j hj => ?_⟩
    · rw [hnone]
      cases best <;> cases ha : a.pageFrom p <;> simp [lesserPage, ha]
    · obtain ⟨hin, hbest, hrest⟩ := hsome j hj
      cases best with
      | none =>
        refine ⟨.inr ?_, by simp, fun x hx q hq => ?_⟩
        · rcases hin with h | ⟨x, hx, h⟩
          · exact ⟨a, List.mem_cons_self, h⟩
          · exact ⟨x, List.mem_cons_of_mem _ hx, h⟩
        · rcases List.mem_cons.1 hx with rfl | hx
          · exact hbest q hq
          · exact hrest x hx q hq
      | some b =>
        cases ha : a.pageFrom p with
        | none =>
          rw [ha] at hin hbest
          refine ⟨hin.imp_right fun ⟨x, hx, h⟩ => ⟨x, List.mem_cons_of_mem _ hx, h⟩, hbest, fun x hx q hq => ?_⟩
          rcases List.mem_cons.1 hx with rfl | hx
          · rw [ha] at hq; cases hq
          · exact hrest x hx q hq
        | some c =>
          rw [ha] at hin hbest
          have hmin : j ≤ min b c := hbest _ rfl
          refine ⟨?_, fun y hy => ?_, fun x hx q hq => ?_⟩
          · rcases hin with h | ⟨x, hx, h⟩
            · have hj : min b c = j := Option.some.inj h
              rcases Nat.le_total b c with hbc | hbc
              · exact .inl (congrArg some (by omega))
              · exact .inr ⟨a, List.mem_cons_self, ha.trans (congrArg some (by omega))⟩
            · exact .inr ⟨x, List.mem_cons_of_mem _ hx, h⟩
          · obtain rfl := Option.some.inj hy
            omega
          · rcases List.mem_cons.1 hx with rfl | hx
            · rw [ha] at hq
              obtain rfl := Option.some.inj hq
              omega
            · exact hrest x hx q hq

/-- The least page from `p` on of any point, where a point still has one (R112). -/
theorem pageFrom_some {points : List PointAcc} {p j : Nat} (h : pageFrom points p = some j) :
    (∃ a ∈ points, a.pageFrom p = some j) ∧ ∀ a ∈ points, ∀ q, a.pageFrom p = some q → j ≤ q := by
  rw [pageFrom_eq] at h
  obtain ⟨hin, _, hrest⟩ := (foldl_lesserPage p points none).2 j h
  exact ⟨hin.resolve_left (by simp), hrest⟩

theorem pageFrom_none {points : List PointAcc} {p : Nat} : pageFrom points p = none ↔ ∀ a ∈ points, a.pageFrom p = none := by
  rw [pageFrom_eq]
  exact (foldl_lesserPage p points none).1.trans (by simp)

/-- The first page of an evaluation is the least that holds a first used bin. -/
theorem pageFrom_zero {points : List PointAcc} (h : points ≠ []) :
    (∃ a ∈ points, a.kLo / 64 = (pageFrom points 0).getD 0) ∧ ∀ a ∈ points, (pageFrom points 0).getD 0 ≤ a.kLo / 64 := by
  have hzero : ∀ a : PointAcc, a.pageFrom 0 = some (a.kLo / 64) := fun a => by
    unfold PointAcc.pageFrom
    rw [if_neg (Nat.not_lt_zero _), Nat.max_eq_left (Nat.zero_le _)]
  cases hp : pageFrom points 0 with
  | none =>
    obtain ⟨a, as, rfl⟩ := List.exists_cons_of_ne_nil h
    have := pageFrom_none.1 hp a List.mem_cons_self
    rw [hzero] at this
    cases this
  | some j =>
    obtain ⟨⟨a, ha, haj⟩, hle⟩ := pageFrom_some hp
    rw [hzero] at haj
    exact ⟨⟨a, ha, Option.some.inj haj⟩, fun x hx => hle x hx _ (hzero x)⟩

/-! ### The parts of a child list (R107) -/

theorem descentParts_cons {n : Nat} (i : Nat) {cs : List Child} (h : cs ≠ []) : descentParts (n + 1) i cs =
    { more := decide (10 < cs.length), index := i, children := cs.take 10 } :: descentParts n (i + 1) (cs.drop 10) := by
  obtain ⟨c, cs, rfl⟩ := List.exists_cons_of_ne_nil h
  rfl

theorem descentParts_nil (n i : Nat) : descentParts n i [] = [] := by
  cases n <;> rfl

theorem descentParts_spec : ∀ (n i : Nat) (cs : List Child), cs.length ≤ n → cs ≠ [] →
    let ps := descentParts n i cs
    ps.length = (cs.length + 9) / 10 ∧ ps.flatMap (·.children) = cs ∧ ps.map (·.index) = List.range' i ps.length ∧
      (∀ p ∈ ps, 1 ≤ p.children.length ∧ p.children.length ≤ 10) ∧ (∀ p ∈ ps.dropLast, p.children.length = 10) ∧
      ps.map (·.more) = List.replicate (ps.length - 1) true ++ [false]
  | 0, _, cs, hn, h => absurd (List.length_eq_zero_iff.1 (Nat.le_zero.1 hn)) h
  | n + 1, i, cs, hn, h => by
    intro ps
    have hps : ps = _ := descentParts_cons i h
    have hpos : 0 < cs.length := List.length_pos_iff.2 h
    by_cases hlong : 10 < cs.length
    · have hrest : cs.drop 10 ≠ [] := by
        rw [ne_eq, List.drop_eq_nil_iff]
        omega
      have hlen : (cs.drop 10).length = cs.length - 10 := List.length_drop
      obtain ⟨h1, h2, h3, h4, h5, h6⟩ := descentParts_spec n (i + 1) (cs.drop 10) (by omega) hrest
      have htake : (cs.take 10).length = 10 := by
        rw [List.length_take]
        omega
      have hne : descentParts n (i + 1) (cs.drop 10) ≠ [] := by
        intro hnil
        rw [hnil] at h1
        simp only [List.length_nil] at h1
        omega
      rw [hps]
      refine ⟨?_, ?_, ?_, ?_, ?_, ?_⟩
      · rw [List.length_cons, h1]
        omega
      · rw [List.flatMap_cons, h2]
        exact List.take_append_drop 10 cs
      · rw [List.map_cons, h3, List.length_cons, List.range'_succ]
      · intro p hp
        rcases List.mem_cons.1 hp with rfl | hp
        · exact ⟨by rw [htake]; omega, htake.le⟩
        · exact h4 p hp
      · rw [List.dropLast_cons_of_ne_nil hne]
        intro p hp
        rcases List.mem_cons.1 hp with rfl | hp
        · exact htake
        · exact h5 p hp
      · obtain ⟨k, hk⟩ : ∃ k, (descentParts n (i + 1) (cs.drop 10)).length = k + 1 :=
          Nat.exists_eq_succ_of_ne_zero (mt List.length_eq_zero_iff.1 hne)
        rw [List.map_cons, h6, List.length_cons, hk]
        simp [hlong, List.replicate_succ]
    · have hdrop : cs.drop 10 = [] := List.drop_eq_nil_iff.2 (by omega)
      have htake : cs.take 10 = cs := List.take_of_length_le (by omega)
      rw [hps, hdrop, descentParts_nil, htake]
      refine ⟨?_, ?_, rfl, ?_, ?_, ?_⟩
      · change 1 = _
        omega
      · simp
      · intro p hp
        rw [List.mem_singleton.1 hp]
        exact ⟨hpos, by simpa using hlong⟩
      · intro p hp
        cases hp
      · simp [hlong]

/-! ### The answers (R103, R105, R106, R108) -/

theorem pseStep_take {s : State} {r : ServiceReq} {rest : List ServiceReq} (hrun : s.running = true) (he : s.pse.engine = .idle)
    (hs : s.pse.service = r :: rest) : pseStep s = some (answerRequest r { s with pse := { s.pse with service := rest } }) := by
  unfold pseStep
  rw [he, hs]
  exact if_pos hrun

/-- A reply of PSE in one part, MUTED being clear. -/
theorem pseOffer_reply {s : State} (hm : s.bus.muted = false) (r : ServiceReq) (kind : FrameKind) (payload : List Byte) (held : List Frame) :
    pseOffer held (replyFrame r kind payload) s = { s with
      pse := { s.pse with engine := .holding held }
      bus := { s.bus with waiting := s.bus.waiting ++ [⟨⟨kind, r.source, r.tag, payload⟩, .pseReply, 0, 0, false, false⟩] } } := by
  rw [pseOffer_clear _ _ hm]
  rfl

theorem stopped_bytes (st : FetchStatus) : fetchResultBytes (.stopped st) = [BitVec.ofNat 8 (st.code * 32)] := by
  cases st <;> rfl

section
variable {s : State} {r : ServiceReq} {rest : List ServiceReq} (hrun : s.running = true) (he : s.pse.engine = .idle)
  (hs : s.pse.service = r :: rest) (hm : s.bus.muted = false)
include hrun he hs hm

/-- A LINEAGE-QUERY is answered in one part. -/
theorem pseStep_lineage (hk : r.kind = .lineageQuery) {a : LineageAnswer} (ha : lineageAnswer s (coilAt r.payload 0) = a) :
    pseStep s = some { s with
      pse := { s.pse with service := rest, engine := .holding [] }
      bus := { s.bus with waiting := s.bus.waiting ++
        [⟨⟨.lineageReply, r.source, r.tag, lineageAnswerBytes a⟩, .pseReply, 0, 0, false, false⟩] } } := by
  have hanswer : lineageAnswer { s with pse := { s.pse with service := rest } } r.coil = a := ha
  rw [pseStep_take hrun he hs]
  unfold answerRequest
  simp only [hk]
  rw [hanswer, pseOffer_reply (s := { s with pse := { s.pse with service := rest } }) hm]

omit hm in
/-- A DESCENT-QUERY is answered in the parts of its child list. -/
theorem pseStep_descent (hk : r.kind = .descentQuery) {cs : List Child} (hc : ownChildren s (coilAt r.payload 0) = cs) :
    pseStep s = some (pseOfferAll ((descentParts cs.length 0 cs).map fun p => replyFrame r .descentReply (descentPartBytes p))
      { s with pse := { s.pse with service := rest } }) := by
  have hchildren : ownChildren { s with pse := { s.pse with service := rest } } r.coil = cs := hc
  rw [pseStep_take hrun he hs]
  unfold answerRequest
  simp only [hk]
  rw [hchildren]

/-- A SAMPLE-FETCH that a check of R108 stops is answered with its status. -/
theorem pseStep_stopped (hk : r.kind = .sampleFetch) {f : Fetch} (hf : parseFetch r.payload = some f) {st : FetchStatus}
    (hst : startEval s f = .stop st) : pseStep s = some { s with
      pse := { s.pse with service := rest, engine := .holding [] }
      bus := { s.bus with waiting := s.bus.waiting ++
        [⟨⟨.sampleReply, r.source, r.tag, [BitVec.ofNat 8 (st.code * 32)]⟩, .pseReply, 0, 0, false, false⟩] } } := by
  have hstart : startEval { s with pse := { s.pse with service := rest } } f = .stop st := hst
  rw [pseStep_take hrun he hs]
  unfold answerRequest
  simp only [hk, hf, hstart]
  unfold pseResult
  rw [pseOffer_reply (s := { s with pse := { s.pse with service := rest } }) hm, stopped_bytes]

omit hm in
/-- A SAMPLE-FETCH that passes the checks is evaluated. -/
theorem pseStep_evaluates (hk : r.kind = .sampleFetch) {f : Fetch} (hf : parseFetch r.payload = some f) {ev : Eval}
    (hev : startEval s f = .go ev) : pseStep s = some { s with pse := { s.pse with service := rest, engine := .evaluating r ev } } := by
  have hstart : startEval { s with pse := { s.pse with service := rest } } f = .go ev := hev
  rw [pseStep_take hrun he hs]
  unfold answerRequest
  simp only [hk, hf, hstart]
  rfl

end

section
variable {s : State} {f : Fetch}

/-! ### The checks of R108 -/

theorem startEval_foreign (h : f.coil.station ≠ s.settings.station) : startEval s f = .stop .notMine := if_pos h

theorem startEval_unknown (h : f.coil.station = s.settings.station) (hx : s.findExit f.coil = none) : startEval s f = .stop .unknown := by
  unfold startEval
  rw [if_neg (not_not.2 h), hx]

variable {y : ExitRec} (h : f.coil.station = s.settings.station) (hx : s.findExit f.coil = some y)
include h hx

theorem startEval_count (hc : f.count = 0 ∨ 14 < f.count) : startEval s f = .stop .badRequest := by
  have hbad : f.count < 1 ∨ Config.groupCap < f.count := hc.imp_left (by omega)
  unfold startEval
  rw [if_neg (not_not.2 h), hx]
  exact if_pos hbad

variable (h1 : 1 ≤ f.count) (h14 : f.count ≤ 14)
include h1 h14

theorem startEval_quantity (hq : ∀ d ∈ s.settings.channels, d.quantity ≠ f.quantity) : startEval s f = .stop .noQuantity := by
  have hgood : ¬ (f.count < 1 ∨ Config.groupCap < f.count) := fun hb => hb.elim (by omega) (Nat.not_lt.2 h14)
  have hnone : s.settings.channelOf f.quantity = none := List.find?_eq_none.2 fun d hd => by simpa using hq d hd
  unfold startEval
  rw [if_neg (not_not.2 h), hx]
  refine (if_neg hgood).trans ?_
  rw [hnone]

variable {d : ChannelDef} (hd : s.settings.channelOf f.quantity = some d)
include hd

theorem startEval_fault (hsf : s.tsc.storeFault = true) : startEval s f = .stop .storeFault := by
  have hgood : ¬ (f.count < 1 ∨ Config.groupCap < f.count) := fun hb => hb.elim (by omega) (Nat.not_lt.2 h14)
  unfold startEval
  rw [if_neg (not_not.2 h), hx]
  refine (if_neg hgood).trans ?_
  rw [hd]
  exact if_pos hsf

theorem startEval_go (hsf : s.tsc.storeFault = false) :
    let len := y.oEnd - y.oStart
    let points := (List.range f.count).map (evalPoint d.step y.oStart (min f.posFrom len) (min f.posTo len) f.count)
    startEval s f = .go ⟨d.index, decide (len < f.posFrom ∨ len < f.posTo), points, (pageFrom points 0).getD 0⟩ := by
  have hgood : ¬ (f.count < 1 ∨ Config.groupCap < f.count) := fun hb => hb.elim (by omega) (Nat.not_lt.2 h14)
  unfold startEval
  rw [if_neg (not_not.2 h), hx]
  refine (if_neg hgood).trans ?_
  rw [hd]
  exact if_neg (by simp [hsf])

end

/-! ### The answer to a LINEAGE-QUERY (R105) -/

theorem lineageAnswer_foreign {s : State} {c : Coil} (h : c.station ≠ s.settings.station) : lineageAnswer s c = .notMine c := if_pos h

theorem lineageAnswer_own {s : State} {c : Coil} (h : c.station = s.settings.station) : lineageAnswer s c = match s.findExit c with
    | none => .unknown c
    | some r => match r.lineage with
      | some l => .record l
      | none => .pending c r.length r.close := if_neg (not_not.2 h)

/-- Settles O37: each answer of the engine, and the parts of a child list. -/
theorem peerRequestAnswered : Obligations.PeerRequestAnswered := by
  refine ⟨?_, fun cs hcs => ?_⟩
  · intro s r rest hrun he hs hm reply c found
    refine ⟨fun hk => ?_, fun hk => ?_, fun hk f hf => ?_⟩
    · refine ⟨fun h => pseStep_lineage hrun he hs hm hk (lineageAnswer_foreign h), fun h hx => ?_, fun y os n h hx hb => ?_,
        fun y ps m h hx hb => ?_⟩
      all_goals have hx : s.findExit (coilAt r.payload 0) = _ := hx
      · exact pseStep_lineage hrun he hs hm hk (a := .unknown c) (by rw [lineageAnswer_own h, hx])
      · refine pseStep_lineage hrun he hs hm hk (a := .pending c (y.oEnd - y.oStart) y.close) ?_
        have hl : y.lineage = none := by
          unfold ExitRec.lineage
          rw [hb]
        rw [lineageAnswer_own h, hx]
        simp only [hl]
        rfl
      · refine pseStep_lineage hrun he hs hm hk (a := .record _) ?_
        have hl : y.lineage = some ⟨y.coil, y.oEnd - y.oStart, y.close, y.stop, y.lane, y.lanes, y.timedOut, ps⟩ := by
          unfold ExitRec.lineage
          rw [hb]
          rfl
        rw [lineageAnswer_own h, hx]
        simp only [hl]
    · intro traced children parts
      have hstep := pseStep_descent hrun he hs hk (cs := children) rfl
      refine ⟨fun hnil => ?_, fun p ps hparts => ?_⟩
      · rw [hstep, hnil]
        rfl
      · have hparts : descentParts children.length 0 children = p :: ps := hparts
        rw [hstep, hparts]
        exact congrArg some (pseOffer_reply (s := { s with pse := { s.pse with service := rest } }) hm r .descentReply _ _)
    · intro stopped foundF
      refine ⟨fun h => pseStep_stopped hrun he hs hm hk hf (startEval_foreign h),
        fun h hx => pseStep_stopped hrun he hs hm hk hf (startEval_unknown h hx), fun h hx hc => ?_, fun h hx h1 h14 hq => ?_,
        fun h hx h1 h14 hq hsf => ?_, fun y d h hx h1 h14 hd hsf => ?_⟩
      · obtain ⟨y, hx⟩ := Option.isSome_iff_exists.1 hx
        exact pseStep_stopped hrun he hs hm hk hf (startEval_count h hx hc)
      · obtain ⟨y, hx⟩ := Option.isSome_iff_exists.1 hx
        exact pseStep_stopped hrun he hs hm hk hf (startEval_quantity h hx h1 h14 hq)
      · obtain ⟨y, hx⟩ := Option.isSome_iff_exists.1 hx
        obtain ⟨d, hd, hdq⟩ := hq
        obtain ⟨d', hd'⟩ : ∃ d', s.settings.channelOf f.quantity = some d' :=
          Option.isSome_iff_exists.1 (List.find?_isSome.2 ⟨d, hd, by simpa using hdq⟩)
        exact pseStep_stopped hrun he hs hm hk hf (startEval_fault h hx h1 h14 hd' hsf)
      · intro len bound points
        refine ⟨_, pseStep_evaluates hrun he hs hk hf (startEval_go h hx h1 h14 hd hsf), fun _ => ?_⟩
        refine pageFrom_zero (points := points) ?_
        rw [ne_eq, List.map_eq_nil_iff, List.range_eq_nil]
        omega
  · obtain ⟨h1, h2, h3, h4, h5, h6⟩ := descentParts_spec cs.length 0 cs le_rfl hcs
    exact ⟨h1, h2, by rw [h3, List.range_eq_range'], h4, h5, h6⟩

end Sys2Proof.Machine

/-! PROOFS. The boundaries of a fetch and the used bins of a point (R110, R111). -/

namespace Sys2Proof.Machine

/-! ### Boundaries (R110) -/

/-- Of `count` parts of a distance, each is its whole share, rounded down or up. -/
theorem share_bounds {count : Nat} (h : 1 ≤ count) (d i : Nat) :
    i * d / count + d / count ≤ (i + 1) * d / count ∧ (i + 1) * d / count ≤ i * d / count + (d + count - 1) / count := by
  rw [Nat.succ_mul]
  refine ⟨Nat.div_add_div_le_add_div .., ?_⟩
  have hx : i * d < count * (i * d / count) + count := Nat.lt_mul_div_succ _ h
  have hd : d + count - 1 < count * ((d + count - 1) / count) + count := Nat.lt_mul_div_succ _ h
  refine Nat.le_of_lt_succ (Nat.div_lt_of_lt_mul ?_)
  rw [Nat.mul_succ, Nat.mul_add]
  omega

theorem share_le {count i : Nat} (h : i ≤ count) (d : Nat) : i * d / count ≤ d :=
  Nat.div_le_of_le_mul (Nat.mul_le_mul_right d h)

theorem boundary_up {a b : Nat} (h : a < b) (count i : Nat) : boundary a b count i = a + i * (b - a) / count := if_pos h

theorem boundary_down {a b : Nat} (h : b ≤ a) (count i : Nat) : boundary a b count i = a - i * (a - b) / count := if_neg (Nat.not_lt.2 h)

theorem boundary_ends (a b : Nat) {count : Nat} (h : 1 ≤ count) : boundary a b count 0 = a ∧ boundary a b count count = b := by
  by_cases hab : a < b
  · rw [boundary_up hab, boundary_up hab, Nat.zero_mul, Nat.zero_div, Nat.mul_div_cancel_left _ h]
    omega
  · have hba := Nat.not_lt.1 hab
    rw [boundary_down hba, boundary_down hba, Nat.zero_mul, Nat.zero_div, Nat.mul_div_cancel_left _ h]
    omega

/-! ### Used bins (R111) -/

section
variable {step : Nat} (hstep : 0 < step) (heven : step % 2 = 0)
include hstep heven

/-- The bins whose centre is at or above `x`. -/
theorem centre_ge_iff (x k : Nat) : x ≤ k * step + step / 2 ↔ (2 * x + step - 1) / (2 * step) ≤ k := by
  have hmul : (k + 1) * (2 * step) = 2 * (k * step) + 2 * step := by
    rw [Nat.succ_mul, Nat.mul_left_comm]
  have hdiv : (2 * x + step - 1) / (2 * step) ≤ k ↔ 2 * x + step - 1 < (k + 1) * (2 * step) := by
    rw [← Nat.div_lt_iff_lt_mul (by omega), Nat.lt_succ_iff]
  rw [hdiv, hmul]
  omega

theorem centre_lt_iff (x k : Nat) : k * step + step / 2 < x ↔ k < (2 * x + step - 1) / (2 * step) := by
  rw [← not_iff_not, Nat.not_lt, Nat.not_lt]
  exact centre_ge_iff hstep heven x k

end

/-- Settles O38: the shares of the boundaries, and the bins by their centres. -/
theorem fetchBoundariesAndUsedBins : Obligations.FetchBoundariesAndUsedBins := by
  refine ⟨fun a b count h => ?_, fun step x0 x1 hstep heven hx => ?_⟩
  · intro d
    obtain ⟨h0, hcount⟩ := boundary_ends a b h
    refine ⟨h0, hcount, fun i hi => ?_⟩
    intro x y
    refine ⟨fun hab => ?_, fun hba => ?_⟩
    · have hd : d = b - a := if_pos hab
      have hx : x = a + i * (b - a) / count := boundary_up hab ..
      have hy : y = a + (i + 1) * (b - a) / count := boundary_up hab ..
      have hle := share_le (i := i + 1) hi (b - a)
      obtain ⟨hlo, hhi⟩ := share_bounds h (b - a) i
      rw [hd, hx, hy]
      generalize (i + 1) * (b - a) / count = n at hle hlo hhi ⊢
      generalize i * (b - a) / count = m at hlo hhi ⊢
      generalize (b - a) / count = q at hlo ⊢
      generalize (b - a + count - 1) / count = r at hhi ⊢
      omega
    · have hd : d = a - b := if_neg (Nat.not_lt.2 hba)
      have hx : x = a - i * (a - b) / count := boundary_down hba ..
      have hy : y = a - (i + 1) * (a - b) / count := boundary_down hba ..
      have hle := share_le (i := i + 1) hi (a - b)
      obtain ⟨hlo, hhi⟩ := share_bounds h (a - b) i
      rw [hd, hx, hy]
      generalize (i + 1) * (a - b) / count = n at hle hlo hhi ⊢
      generalize i * (a - b) / count = m at hlo hhi ⊢
      generalize (a - b) / count = q at hlo ⊢
      generalize (a - b + count - 1) / count = r at hhi ⊢
      omega
  · intro p centreIn
    have hin : ∀ k, centreIn k ↔ (2 * x0 + step - 1) / (2 * step) ≤ k ∧ k < (2 * x1 + step - 1) / (2 * step) := fun k =>
      and_congr (centre_ge_iff hstep heven x0 k) (centre_lt_iff hstep heven x1 k)
    refine ⟨fun ⟨k, hk⟩ => ?_, fun hnone => ?_⟩
    · obtain ⟨hlo, hhi⟩ := (hin k).1 hk
      have hlt := hlo.trans_lt hhi
      have hkLo : p.kLo = (2 * x0 + step - 1) / (2 * step) := by
        simp only [p, usedBins, if_pos hlt]
      have hkHi : p.kHi = (2 * x1 + step - 1) / (2 * step) - 1 := by
        simp only [p, usedBins, if_pos hlt]
      have hsparse : p.sparse = false := by
        simp only [p, usedBins, if_pos hlt]
      refine ⟨hsparse, fun n => ?_⟩
      rw [hin, hkLo, hkHi]
      omega
    · have hge : ¬ (2 * x0 + step - 1) / (2 * step) < (2 * x1 + step - 1) / (2 * step) := fun hlt =>
        hnone _ ((hin _).2 ⟨le_rfl, hlt⟩)
      have hkLo : p.kLo = (x0 + x1) / 2 / step := by
        simp only [p, usedBins, if_neg hge]
      have hkHi : p.kHi = (x0 + x1) / 2 / step := by
        simp only [p, usedBins, if_neg hge]
      have hsparse : p.sparse = true := by
        simp only [p, usedBins, if_neg hge]
      refine ⟨hsparse, hkLo.trans hkHi.symm, ?_, ?_⟩
      · rw [hkLo]
        exact Nat.div_mul_le_self ..
      · rw [hkLo, Nat.mul_comm]
        exact Nat.lt_mul_div_succ _ hstep

end Sys2Proof.Machine

/-! PROOFS. A point from its used bins, and the pages of an evaluation (R112 to R115). -/

namespace Sys2Proof.Machine

/-! ### The accumulation of a point (R113, R114) -/

/-- The closed bins among those a read reported. -/
def availableBins (bs : List BinClass) : List Bin :=
  bs.filterMap fun b => match b with
    | .closed x => some x
    | _ => none

/-- The closed bins that are not VOID. -/
def valuedBins (bs : List BinClass) : List Bin := (availableBins bs).filter fun x => !x.flags.void

/-- Least and greatest value of bins, one after the other. -/
def extremaOf (l : List Bin) : Option (Int × Int) := l.foldl (fun e b => widen b.most (widen b.least e)) none

theorem availableBins_append (bs : List BinClass) (b : BinClass) : availableBins (bs ++ [b]) = availableBins bs ++ availableBins [b] :=
  List.filterMap_append

theorem valuedBins_append (bs : List BinClass) (b : BinClass) : valuedBins (bs ++ [b]) = valuedBins bs ++ valuedBins [b] := by
  unfold valuedBins
  rw [availableBins_append, List.filter_append]

/-- What the bins `bs` have added to a point without any. -/
theorem foldl_add (lo hi : Nat) (sparse : Bool) (bs : List BinClass) :
    bs.foldl PointAcc.add ⟨lo, hi, sparse, 0, 0, 0, 0, none, false, false, false⟩ =
      ⟨lo, hi, sparse, (availableBins bs).length, bs.length - (availableBins bs).length, (valuedBins bs).length,
        ((valuedBins bs).map (·.mean)).sum, extremaOf (valuedBins bs), (availableBins bs).any (·.flags.held),
        (availableBins bs).any (·.flags.stop), (availableBins bs).any (·.flags.sat)⟩ := by
  induction bs using List.reverseRecOn with
  | nil => rfl
  | append_singleton bs b ih =>
    have hle : (availableBins bs).length ≤ bs.length := List.length_filterMap_le ..
    rw [List.foldl_append, ih, availableBins_append, valuedBins_append]
    cases b with
    | expired =>
      simp only [List.foldl_cons, List.foldl_nil, PointAcc.add, availableBins, valuedBins, List.filterMap_cons, List.filterMap_nil,
        List.filter_nil, List.append_nil, List.length_append, List.length_singleton] at hle ⊢
      congr 1
      omega
    | unclosed =>
      simp only [List.foldl_cons, List.foldl_nil, PointAcc.add, availableBins, valuedBins, List.filterMap_cons, List.filterMap_nil,
        List.filter_nil, List.append_nil, List.length_append, List.length_singleton] at hle ⊢
      congr 1
      omega
    | closed x =>
      cases hv : x.flags.void with
      | true =>
        have hnone : valuedBins [.closed x] = [] := by simp [valuedBins, availableBins, hv]
        rw [hnone]
        simp [PointAcc.add, availableBins, hv]
      | false =>
        have hone : valuedBins [.closed x] = [x] := by simp [valuedBins, availableBins, hv]
        rw [hone]
        simp [PointAcc.add, availableBins, hv, extremaOf]

/-- The extremes of bins in which no value is out of order. -/
theorem extremaOf_spec (l : List Bin) (h : ∀ x ∈ l, x.least ≤ x.most) (hl : l ≠ []) : ∃ lo hi, extremaOf l = some (lo, hi) ∧
    (∀ x ∈ l, lo ≤ x.least ∧ x.most ≤ hi) ∧ (∃ x ∈ l, x.least = lo) ∧ ∃ x ∈ l, x.most = hi := by
  induction l using List.reverseRecOn with
  | nil => exact absurd rfl hl
  | append_singleton l b ih =>
    have hb := h b (by simp)
    have hstep : extremaOf (l ++ [b]) = widen b.most (widen b.least (extremaOf l)) := by
      unfold extremaOf
      rw [List.foldl_append]
      rfl
    rw [hstep]
    by_cases hnil : l = []
    · subst hnil
      refine ⟨_, _, rfl, ?_, ⟨b, by simp, (min_eq_left hb).symm⟩, ⟨b, by simp, (max_eq_right hb).symm⟩⟩
      intro x hx
      obtain rfl : x = b := by simpa using hx
      exact ⟨min_le_left .., le_max_right ..⟩
    · obtain ⟨lo, hi, he, hall, ⟨x, hx, hxl⟩, y, hy, hyh⟩ := ih (fun x hx => h x (by simp [hx])) hnil
      rw [he]
      refine ⟨_, _, rfl, fun z hz => ?_, ?_, ?_⟩
      · rcases List.mem_append.1 hz with hz | hz
        · have := hall z hz
          omega
        · obtain rfl : z = b := by simpa using hz
          omega
      · by_cases hlo : lo ≤ b.least
        · exact ⟨x, by simp [hx], by omega⟩
        · exact ⟨b, by simp, by omega⟩
      · have hly := h y (by simp [hy])
        by_cases hhi : b.most ≤ hi
        · exact ⟨y, by simp [hy], by omega⟩
        · exact ⟨b, by simp, by omega⟩

/-- The mean of values between two bounds is between them (R114). -/
theorem mean_between {l : List Bin} {lo hi : Int} (hl : l ≠ []) (h : ∀ x ∈ l, lo ≤ x.mean ∧ x.mean ≤ hi) :
    lo ≤ roundDiv (l.map (·.mean)).sum l.length ∧ roundDiv (l.map (·.mean)).sum l.length ≤ hi := by
  refine roundDiv_between (List.length_pos_iff.2 hl) ?_ ?_
  · have := List.card_nsmul_le_sum (l.map (·.mean)) lo fun y hy => by
      obtain ⟨x, hx, rfl⟩ := List.mem_map.1 hy
      exact (h x hx).1
    simpa using this
  · have := List.sum_le_card_nsmul (l.map (·.mean)) hi fun y hy => by
      obtain ⟨x, hx, rfl⟩ := List.mem_map.1 hy
      exact (h x hx).2
    simpa using this

/-- The point that accumulated bins give, by whether one is available and whether one has a value. -/
theorem point_cases (a : PointAcc) :
    (a.avail = 0 → a.point = ⟨0, 0, 0, .none, a.sparse, false, true⟩) ∧
    (a.avail ≠ 0 → a.valued = 0 → a.point = ⟨0, 0, 0, ⟨false, true, a.stop, false⟩, a.sparse, decide (0 < a.unavail), false⟩) ∧
    (a.avail ≠ 0 → a.valued ≠ 0 → a.point = ⟨roundDiv a.sum a.valued, (a.extrema.getD (0, 0)).1, (a.extrema.getD (0, 0)).2,
      ⟨a.held, false, a.stop, a.sat⟩, a.sparse, decide (0 < a.unavail), false⟩) := by
  unfold PointAcc.point
  refine ⟨fun h => if_pos h, fun h hv => ?_, fun h hv => ?_⟩
  · rw [if_neg h]
    exact if_pos hv
  · rw [if_neg h]
    exact if_neg hv

theorem mem_availableBins {bs : List BinClass} {x : Bin} : x ∈ availableBins bs ↔ .closed x ∈ bs := by
  unfold availableBins
  rw [List.mem_filterMap]
  constructor
  · rintro ⟨b, hb, hx⟩
    cases b with
    | closed y => obtain rfl := Option.some.inj hx; exact hb
    | expired => cases hx
    | unclosed => cases hx
  · exact fun h => ⟨_, h, rfl⟩

/-- The point of the bins `bs` (R113, R114). -/
theorem point_of_bins (lo hi : Nat) (sparse : Bool) (bs : List BinClass)
    (horder : ∀ b ∈ bs, ∀ x, b = .closed x → x.flags.void = false → x.least ≤ x.mean ∧ x.mean ≤ x.most)
    (hvoid : ∀ b ∈ bs, ∀ x, b = .closed x → x.flags.void = true → x.flags.held = false ∧ x.flags.sat = false) :
    let closed := availableBins bs
    let valued := valuedBins bs
    let p := (bs.foldl PointAcc.add ⟨lo, hi, sparse, 0, 0, 0, 0, none, false, false, false⟩).point
    p.sparse = sparse ∧ p.expired = closed.isEmpty ∧
      p.partly = (!closed.isEmpty && decide (closed.length < bs.length)) ∧
      p.flags = ⟨closed.any (·.flags.held), !closed.isEmpty && valued.isEmpty, closed.any (·.flags.stop),
        closed.any (·.flags.sat)⟩ ∧
      (valued = [] → p.mean = 0 ∧ p.least = 0 ∧ p.most = 0) ∧
      (valued ≠ [] → p.mean = roundDiv (valued.map (·.mean)).sum valued.length ∧ p.least ≤ p.mean ∧ p.mean ≤ p.most ∧
        (∀ x ∈ valued, p.least ≤ x.least ∧ x.most ≤ p.most) ∧ (∃ x ∈ valued, x.least = p.least) ∧
        ∃ x ∈ valued, x.most = p.most) := by
  intro closed valued p
  have hacc := foldl_add lo hi sparse bs
  obtain ⟨h0, hv0, hv⟩ := point_cases (bs.foldl PointAcc.add ⟨lo, hi, sparse, 0, 0, 0, 0, none, false, false, false⟩)
  rw [hacc] at h0 hv0 hv
  simp only [List.length_eq_zero_iff, ne_eq] at h0 hv0 hv
  have hp : p = PointAcc.point _ := congrArg PointAcc.point hacc
  have hpart : closed ≠ [] → decide (0 < bs.length - closed.length) = (!closed.isEmpty && decide (closed.length < bs.length)) := fun h => by
    rw [List.isEmpty_eq_false_iff.2 h, Bool.not_false, Bool.true_and, decide_eq_decide]
    omega
  by_cases hc : closed = []
  · have hnone : valued = [] := by
      change (closed.filter _) = []
      rw [hc]
      rfl
    rw [hp, h0 hc, hc, hnone]
    exact ⟨rfl, rfl, rfl, rfl, fun _ => ⟨rfl, rfl, rfl⟩, fun h => absurd rfl h⟩
  · have hc' : closed.isEmpty = false := List.isEmpty_eq_false_iff.2 hc
    by_cases hn : valued = []
    · rw [hp, hv0 hc hn, hn, ← hpart hc]
      have hall : ∀ x ∈ closed, x.flags.void = true := fun x hx => by
        have := List.filter_eq_nil_iff.1 hn x hx
        simpa using this
      have hheld : closed.any (·.flags.held) = false := List.any_eq_false.2 fun x hx => by
        simp [(hvoid _ (mem_availableBins.1 hx) x rfl (hall x hx)).1]
      have hsat : closed.any (·.flags.sat) = false := List.any_eq_false.2 fun x hx => by
        simp [(hvoid _ (mem_availableBins.1 hx) x rfl (hall x hx)).2]
      rw [hheld, hsat, hc']
      exact ⟨rfl, rfl, rfl, rfl, fun _ => ⟨rfl, rfl, rfl⟩, fun h => absurd rfl h⟩
    · have hord : ∀ x ∈ valued, x.least ≤ x.mean ∧ x.mean ≤ x.most := fun x hx => by
        obtain ⟨hx, hvx⟩ := List.mem_filter.1 hx
        exact horder _ (mem_availableBins.1 hx) x rfl (by simpa using hvx)
      obtain ⟨least, most, hext, hall, hmin, hmax⟩ := extremaOf_spec valued (fun x hx => (hord x hx).1.trans (hord x hx).2) hn
      rw [hp, hv hc hn, ← hpart hc, hc', List.isEmpty_eq_false_iff.2 hn]
      change extremaOf (valuedBins bs) = _ at hext
      rw [hext]
      obtain ⟨h1, h2⟩ := mean_between hn fun x hx => ⟨(hall x hx).1.trans (hord x hx).1, (hord x hx).2.trans (hall x hx).2⟩
      exact ⟨rfl, rfl, rfl, rfl, fun h => absurd h hn, fun _ => ⟨rfl, h1, h2, hall, hmin, hmax⟩⟩

/-! ### The bins of a page (R112) -/

theorem PointAcc.add_range (a : PointAcc) (b : BinClass) : (a.add b).kLo = a.kLo ∧ (a.add b).kHi = a.kHi := by
  cases b with
  | closed x =>
    unfold PointAcc.add
    simp only
    split <;> exact ⟨rfl, rfl⟩
  | expired => exact ⟨rfl, rfl⟩
  | unclosed => exact ⟨rfl, rfl⟩

/-- The bins of a page from its place `k` on that a point uses, in order. -/
theorem feed_from (j : Nat) : ∀ (bins : List BinClass) (k : Nat) (a : PointAcc),
    (bins.zipIdx k).foldl (fun a x => if a.kLo ≤ 64 * j + x.2 ∧ 64 * j + x.2 ≤ a.kHi then a.add x.1 else a) a =
      ((List.range' k bins.length).filterMap fun n =>
        if a.kLo ≤ 64 * j + n ∧ 64 * j + n ≤ a.kHi then bins[n - k]? else none).foldl PointAcc.add a
  | [], _, _ => rfl
  | b :: bins, k, a => by
    have hrest : (List.range' (k + 1) bins.length).filterMap (fun n =>
        if a.kLo ≤ 64 * j + n ∧ 64 * j + n ≤ a.kHi then (b :: bins)[n - k]? else none) =
        (List.range' (k + 1) bins.length).filterMap fun n =>
          if a.kLo ≤ 64 * j + n ∧ 64 * j + n ≤ a.kHi then bins[n - (k + 1)]? else none := by
      refine List.filterMap_congr fun n hn => ?_
      obtain ⟨hn, _⟩ := List.mem_range'_1.1 hn
      have hsub : n - k = n - (k + 1) + 1 := by omega
      rw [hsub, List.getElem?_cons_succ]
    rw [List.zipIdx_cons, List.foldl_cons, List.length_cons, List.range'_succ, List.filterMap_cons, hrest]
    by_cases hin : a.kLo ≤ 64 * j + k ∧ 64 * j + k ≤ a.kHi
    · obtain ⟨hlo, hhi⟩ := a.add_range b
      simp only [if_pos hin, Nat.sub_self, List.getElem?_cons_zero, List.foldl_cons]
      rw [feed_from j bins (k + 1) (a.add b), hlo, hhi]
    · simp only [if_neg hin]
      exact feed_from j bins (k + 1) a

theorem feed_eq {bins : List BinClass} (h : bins.length = 64) (j : Nat) (a : PointAcc) : a.feed j bins =
    ((List.range 64).filterMap fun n => if a.kLo ≤ 64 * j + n ∧ 64 * j + n ≤ a.kHi then bins[n]? else none).foldl PointAcc.add a := by
  have := feed_from j bins 0 a
  rw [h] at this
  rw [List.range_eq_range']
  exact this

theorem foldl_add_range (bs : List BinClass) (a : PointAcc) : (bs.foldl PointAcc.add a).kLo = a.kLo ∧ (bs.foldl PointAcc.add a).kHi = a.kHi := by
  induction bs generalizing a with
  | nil => exact ⟨rfl, rfl⟩
  | cons b bs ih =>
    obtain ⟨h1, h2⟩ := ih (a.add b)
    obtain ⟨h3, h4⟩ := a.add_range b
    exact ⟨h1.trans h3, h2.trans h4⟩

/-- The pages from `p` on that hold a used bin of a point. -/
theorem pageFrom_of_point {a : PointAcc} {p j : Nat} : a.pageFrom p = some j ↔ p ≤ a.kHi / 64 ∧ j = max (a.kLo / 64) p := by
  unfold PointAcc.pageFrom
  by_cases h : a.kHi / 64 < p
  · rw [if_pos h]
    exact iff_of_false (by simp) fun hc => absurd hc.1 (Nat.not_le.2 h)
  · rw [if_neg h, Option.some_inj]
    exact ⟨fun hj => ⟨Nat.not_lt.1 h, hj.symm⟩, fun hj => hj.2.symm⟩

/-- The next page of an evaluation is the least from `p` on that holds a used bin. -/
theorem pageFrom_used {points : List PointAcc} (hr : ∀ a ∈ points, a.kLo ≤ a.kHi) (p : Nat) :
    (∀ j, p ≤ j → (∃ a ∈ points, a.kLo / 64 ≤ j ∧ j ≤ a.kHi / 64) →
      (∀ i, p ≤ i → i < j → ¬ ∃ a ∈ points, a.kLo / 64 ≤ i ∧ i ≤ a.kHi / 64) → pageFrom points p = some j) ∧
    ((∀ j, p ≤ j → ¬ ∃ a ∈ points, a.kLo / 64 ≤ j ∧ j ≤ a.kHi / 64) → pageFrom points p = none) := by
  have hfound : ∀ q, pageFrom points p = some q → p ≤ q ∧ ∃ a ∈ points, a.kLo / 64 ≤ q ∧ q ≤ a.kHi / 64 := fun q hq => by
    obtain ⟨⟨a, ha, haq⟩, _⟩ := pageFrom_some hq
    obtain ⟨hp, rfl⟩ := pageFrom_of_point.1 haq
    have := Nat.div_le_div_right (c := 64) (hr a ha)
    exact ⟨Nat.le_max_right .., a, ha, Nat.le_max_left .., by omega⟩
  refine ⟨fun j hpj ⟨a, ha, hlo, hhi⟩ hfirst => ?_, fun hnone => ?_⟩
  · have haj : a.pageFrom p = some (max (a.kLo / 64) p) := pageFrom_of_point.2 ⟨hpj.trans hhi, rfl⟩
    cases hq : pageFrom points p with
    | none =>
      rw [pageFrom_none.1 hq a ha] at haj
      cases haj
    | some q =>
      obtain ⟨hpq, hused⟩ := hfound q hq
      have hle := (pageFrom_some hq).2 a ha _ haj
      have hge : j ≤ q := by
        by_contra hlt
        exact hfirst q hpq (Nat.not_le.1 hlt) hused
      exact congrArg some (by omega)
  · cases hq : pageFrom points p with
    | none => rfl
    | some q =>
      obtain ⟨hpq, hused⟩ := hfound q hq
      exact absurd hused (hnone q hpq)

/-- Settles O39: the point of its bins, and the page that follows. -/
theorem pointFromUsedBins : Obligations.PointFromUsedBins := by
  refine ⟨point_of_bins, fun ev bins hlen hr => ?_⟩
  intro fed used
  have hfed : ev.points.map (PointAcc.feed ev.page bins) = fed := List.map_congr_left fun a _ => feed_eq hlen ev.page a
  have hrange : ∀ j, (∃ a ∈ fed, a.kLo / 64 ≤ j ∧ j ≤ a.kHi / 64) ↔ used j := fun j => by
    simp only [fed, used, List.mem_map, exists_exists_and_eq_and, foldl_add_range]
  have hr' : ∀ a ∈ fed, a.kLo ≤ a.kHi := fun a ha => by
    obtain ⟨p, hp, rfl⟩ := List.mem_map.1 ha
    obtain ⟨h1, h2⟩ := foldl_add_range ((List.range 64).filterMap fun n =>
      if p.kLo ≤ 64 * ev.page + n ∧ 64 * ev.page + n ≤ p.kHi then bins[n]? else none) p
    rw [h1, h2]
    exact hr p hp
  obtain ⟨hsome, hnone⟩ := pageFrom_used hr' (ev.page + 1)
  simp only [hrange] at hsome hnone
  unfold Eval.feed
  rw [hfed]
  refine ⟨fun j hj hu hfirst => ?_, fun h => ?_⟩
  · simp only [hsome j hj hu hfirst]
  · simp only [hnone h]

end Sys2Proof.Machine

/-! PROOFS. Payloads written are read back (R99, R183, 12.3, 12.4). -/

namespace Sys2Proof.Machine

/-! ### Numbers as bytes (R183) -/

@[simp] theorem beBytes_length (n v : Nat) : (beBytes n v).length = n := by
  induction n with
  | zero => rfl
  | succ n ih => exact congrArg (· + 1) ih

theorem foldl_bytes (bs : List Byte) (a : Nat) : bs.foldl (fun a b => a * 256 + b.toNat) a = a * 256 ^ bs.length + beNat bs := by
  induction bs generalizing a with
  | nil => simp [beNat]
  | cons b bs ih =>
    have h0 : beNat (b :: bs) = (0 * 256 + b.toNat) * 256 ^ bs.length + beNat bs := ih _
    rw [List.foldl_cons, ih, h0, List.length_cons, pow_succ]
    ring

theorem beNat_cons (b : Byte) (bs : List Byte) : beNat (b :: bs) = b.toNat * 256 ^ bs.length + beNat bs := by
  have h : beNat (b :: bs) = bs.foldl (fun a b => a * 256 + b.toNat) (0 * 256 + b.toNat) := rfl
  rw [h, foldl_bytes, Nat.zero_mul, Nat.zero_add]

theorem beNat_beBytes_mod (n v : Nat) : beNat (beBytes n v) = v % 256 ^ n := by
  induction n with
  | zero => simp [beBytes, beNat, Nat.mod_one]
  | succ n ih =>
    have hb : beBytes (n + 1) v = BitVec.ofNat 8 (v / 256 ^ n) :: beBytes n v := rfl
    have hpow : 256 ^ (n + 1) = 256 ^ n * 256 := pow_succ ..
    rw [hb, beNat_cons, ih, beBytes_length, BitVec.toNat_ofNat, hpow, Nat.mod_mul, Nat.add_comm, Nat.mul_comm]

theorem beNat_beBytes {n v : Nat} (h : v < 256 ^ n) : beNat (beBytes n v) = v := by
  rw [beNat_beBytes_mod, Nat.mod_eq_of_lt h]

/-! ### Fields of a payload in parts -/

theorem field_skip {a : List Byte} {off : Nat} (b : List Byte) (h : a.length ≤ off) (n : Nat) :
    field (a ++ b) off n = field b (off - a.length) n := by
  unfold field
  rw [List.drop_append, List.drop_eq_nil_iff.2 h, List.nil_append]

theorem field_after (a b : List Byte) (k n : Nat) : field (a ++ b) (a.length + k) n = field b k n := by
  rw [field_skip b (Nat.le_add_right ..), Nat.add_sub_cancel_left]

theorem field_cons (x : Byte) (b : List Byte) (k n : Nat) : field (x :: b) (k + 1) n = field b k n := rfl

theorem field_first (x : Byte) (b : List Byte) : field (x :: b) 0 1 = x.toNat := by
  simp [field, beNat]

/-- A field that holds a number of its width. -/
theorem field_bytes {n v : Nat} (b : List Byte) (h : v < 256 ^ n) : field (beBytes n v ++ b) 0 n = v := by
  unfold field
  rw [List.drop_zero, List.take_left' (beBytes_length n v), beNat_beBytes h]

/-! ### Coil fields -/

@[simp] theorem coilBytes_length (high : Nat) (c : Coil) : (coilBytes high c).length = 5 := by
  simp [coilBytes]

theorem coil_byte {high : Nat} (h : high < 4) (c : Coil) (b : List Byte) : field (coilBytes high c ++ b) 0 1 = high * 64 + c.station.toNat := by
  have hst := c.station.isLt
  have hb : coilBytes high c ++ b = BitVec.ofNat 8 (high * 64 + c.station.toNat) :: (beBytes 4 c.seq.toNat ++ b) := rfl
  rw [hb, field_first, BitVec.toNat_ofNat]
  omega

theorem coilAt_coilBytes {high : Nat} (h : high < 4) (c : Coil) (b : List Byte) : coilAt (coilBytes high c ++ b) 0 = c := by
  have hst := c.station.isLt
  have hseq : field (coilBytes high c ++ b) (0 + 1) 4 = c.seq.toNat := field_bytes b c.seq.isLt
  unfold coilAt
  rw [coil_byte h, hseq, Nat.mul_comm, show 64 = 4 * 16 from rfl]
  have hmod : (4 * 16 * high + c.station.toNat) % (4 * 16) = c.station.toNat := by omega
  rw [hmod, BitVec.ofNat_toNat, BitVec.ofNat_toNat, BitVec.setWidth_eq, BitVec.setWidth_eq]

theorem highBits_coilBytes {high : Nat} (h : high < 4) (c : Coil) (b : List Byte) : highBits (coilBytes high c ++ b) 0 = high := by
  have hst := c.station.isLt
  unfold highBits
  rw [coil_byte h]
  omega

theorem coilAt_after (a b : List Byte) (k : Nat) : coilAt (a ++ b) (a.length + k) = coilAt b k := by
  unfold coilAt
  rw [field_after, Nat.add_assoc, field_after]

theorem highBits_after (a b : List Byte) (k : Nat) : highBits (a ++ b) (a.length + k) = highBits b k := by
  unfold highBits
  rw [field_after]

theorem parseCoil_coilBytes (c : Coil) : parseCoil (coilBytes 0 c) = some c := by
  have hhigh := highBits_coilBytes (high := 0) (by omega) c []
  have hcoil := coilAt_coilBytes (high := 0) (by omega) c []
  rw [List.append_nil] at hhigh hcoil
  unfold parseCoil
  rw [if_pos ⟨coilBytes_length 0 c, hhigh⟩, hcoil]

theorem parseTime_beBytes {v : Nat} (h : v < 2 ^ 48) : parseTime (beBytes 6 v) = some v := by
  unfold parseTime
  rw [if_pos (beBytes_length 6 v), beNat_beBytes h]

theorem parseFetch_fetchBytes (f : Fetch) (h1 : f.quantity < 256) (h2 : f.posFrom < 2 ^ 32) (h3 : f.posTo < 2 ^ 32) (h4 : f.count < 256) :
    parseFetch (fetchBytes f) = some f := by
  have hbytes : fetchBytes f = coilBytes 0 f.coil ++ (beBytes 1 f.quantity ++ (beBytes 4 f.posFrom ++ (beBytes 4 f.posTo ++
      (beBytes 1 f.count ++ [])))) := by
    simp [fetchBytes]
  have hq : field (fetchBytes f) 5 1 = f.quantity := by
    rw [hbytes]
    exact (field_after (coilBytes 0 f.coil) _ 0 1).trans (field_bytes _ h1)
  have hfrom : field (fetchBytes f) 6 4 = f.posFrom := by
    rw [hbytes, field_skip _ (by simp), field_skip _ (by simp)]
    simp only [coilBytes_length, beBytes_length]
    exact field_bytes _ h2
  have hto : field (fetchBytes f) 10 4 = f.posTo := by
    rw [hbytes, field_skip _ (by simp), field_skip _ (by simp), field_skip _ (by simp)]
    simp only [coilBytes_length, beBytes_length]
    exact field_bytes _ h3
  have hcount : field (fetchBytes f) 14 1 = f.count := by
    rw [hbytes, field_skip _ (by simp), field_skip _ (by simp), field_skip _ (by simp), field_skip _ (by simp)]
    simp only [coilBytes_length, beBytes_length]
    exact field_bytes _ h4
  have hlen : (fetchBytes f).length = 15 := by simp [fetchBytes]
  have hhigh : highBits (fetchBytes f) 0 = 0 := by
    rw [hbytes]
    exact highBits_coilBytes (by omega) ..
  have hcoil : coilAt (fetchBytes f) 0 = f.coil := by
    rw [hbytes]
    exact coilAt_coilBytes (by omega) ..
  unfold parseFetch
  rw [if_pos ⟨hlen, hhigh⟩, hq, hfrom, hto, hcount, hcoil]

/-! ### Flag bits -/

theorem three_flags : ∀ a b c : Bool, let v := bitOf a 1 + bitOf b 2 + bitOf c 4
    v < 8 ∧ bitSet v 0 = a ∧ bitSet v 1 = b ∧ bitSet v 2 = c := by
  decide

theorem four_flags : ∀ a b c d : Bool, let v := bitOf a 1 + bitOf b 2 + bitOf c 4 + bitOf d 8
    v < 16 ∧ bitSet v 0 = a ∧ bitSet v 1 = b ∧ bitSet v 2 = c ∧ bitSet v 3 = d := by
  decide

theorem parsePresence_presenceBytes (p : Presence) (h : p.codes.length ≤ 32) : parsePresence (presenceBytes p) = some p := by
  obtain ⟨hv, ha, hc, hf⟩ := three_flags p.answer p.cold p.fault
  have hbyte : field (presenceBytes p) 0 1 = bitOf p.answer 1 + bitOf p.cold 2 + bitOf p.fault 4 := field_bytes _ (by omega)
  have hlen : (presenceBytes p).length = 1 + p.codes.length := by simp [presenceBytes]
  have hok : ¬ ((presenceBytes p).length < 1 ∨ 33 < (presenceBytes p).length ∨ 8 ≤ field (presenceBytes p) 0 1) := by
    rw [hlen, hbyte]
    omega
  unfold parsePresence
  simp only
  rw [if_neg hok, hbyte, ha, hc, hf]
  rfl

theorem parseLineageAnswer_short (c : Coil) : parseLineageAnswer (lineageAnswerBytes (.unknown c)) = some (.unknown c) ∧
    parseLineageAnswer (lineageAnswerBytes (.notMine c)) = some (.notMine c) := by
  have hhigh : ∀ high < 4, highBits (coilBytes high c) 0 = high := fun high h => by
    have := highBits_coilBytes h c []
    rwa [List.append_nil] at this
  have hcoil : ∀ high < 4, coilAt (coilBytes high c) 0 = c := fun high h => by
    have := coilAt_coilBytes h c []
    rwa [List.append_nil] at this
  unfold parseLineageAnswer lineageAnswerBytes
  simp only [hhigh 2 (by omega), hhigh 3 (by omega), coilBytes_length, hcoil 2 (by omega), hcoil 3 (by omega)]
  exact ⟨rfl, rfl⟩

theorem parseLineageAnswer_pending (c : Coil) {len close : Nat} (hl : len < 2 ^ 32) (hc : close < 2 ^ 48) :
    parseLineageAnswer (lineageAnswerBytes (.pending c len close)) = some (.pending c len close) := by
  have hbytes : lineageAnswerBytes (.pending c len close) = coilBytes 1 c ++ (beBytes 4 len ++ (beBytes 6 close ++ [])) := by
    simp [lineageAnswerBytes]
  have hlen : field (coilBytes 1 c ++ (beBytes 4 len ++ (beBytes 6 close ++ []))) 5 4 = len :=
    (field_after (coilBytes 1 c) _ 0 4).trans (field_bytes _ hl)
  have hclose : field (coilBytes 1 c ++ (beBytes 4 len ++ (beBytes 6 close ++ []))) 9 6 = close := by
    rw [field_skip _ (by simp), field_skip _ (by simp)]
    simp only [coilBytes_length, beBytes_length]
    exact field_bytes _ hc
  rw [hbytes]
  unfold parseLineageAnswer
  rw [highBits_coilBytes (by omega), hlen, hclose, coilAt_coilBytes (by omega)]
  simp

end Sys2Proof.Machine

/-! PROOFS. Records, fetch results and child lists written are read back (12.3, 12.4, R184). -/

namespace Sys2Proof.Machine

/-! ### Pieces (12.4) -/

theorem pieceBytes_length (p : Piece) : (pieceBytes p).length = 18 := by
  simp [pieceBytes]

theorem pieceAt_after (a b : List Byte) (k n0 : Nat) : pieceAt (a ++ b) (a.length + k) n0 = pieceAt b k n0 := by
  unfold pieceAt
  simp only [Nat.add_assoc, field_after, highBits_after, coilAt_after]

theorem pieceAt_pieceBytes {p : Piece} (h1 : p.n1 < 2 ^ 32) (h2 : p.sLo < 2 ^ 32) (h3 : p.sHi < 2 ^ 32) (rest : List Byte) :
    pieceAt (pieceBytes p ++ rest) 0 p.n0 = some p := by
  obtain ⟨hv, f0, f1, f2, f3⟩ := four_flags p.reversed p.unscaled p.broken p.merged
  let v := bitOf p.reversed 1 + bitOf p.unscaled 2 + bitOf p.broken 4 + bitOf p.merged 8
  have hbytes : pieceBytes p ++ rest = beBytes 4 p.n1 ++ (coilBytes 0 p.source ++ (beBytes 4 p.sLo ++ (beBytes 4 p.sHi ++
      (BitVec.ofNat 8 v :: rest)))) := by
    simp [pieceBytes, v]
  have hn1 : field (pieceBytes p ++ rest) 0 4 = p.n1 := by
    rw [hbytes]
    exact field_bytes _ h1
  have hhigh : highBits (pieceBytes p ++ rest) (0 + 4) = 0 := by
    rw [hbytes]
    exact (highBits_after (beBytes 4 p.n1) _ 0).trans (highBits_coilBytes (by omega) ..)
  have hcoil : coilAt (pieceBytes p ++ rest) (0 + 4) = p.source := by
    rw [hbytes]
    exact (coilAt_after (beBytes 4 p.n1) _ 0).trans (coilAt_coilBytes (by omega) ..)
  have hlo : field (pieceBytes p ++ rest) (0 + 9) 4 = p.sLo := by
    rw [hbytes, field_skip _ (by simp), field_skip _ (by simp)]
    simp only [coilBytes_length, beBytes_length]
    exact field_bytes _ h2
  have hhi : field (pieceBytes p ++ rest) (0 + 13) 4 = p.sHi := by
    rw [hbytes, field_skip _ (by simp), field_skip _ (by simp), field_skip _ (by simp)]
    simp only [coilBytes_length, beBytes_length]
    exact field_bytes _ h3
  have hflags : field (pieceBytes p ++ rest) (0 + 17) 1 = v := by
    rw [hbytes, field_skip _ (by simp), field_skip _ (by simp), field_skip _ (by simp), field_skip _ (by simp)]
    simp only [coilBytes_length, beBytes_length]
    refine (field_first ..).trans ?_
    rw [BitVec.toNat_ofNat]
    exact Nat.mod_eq_of_lt (by omega)
  have hok : ¬ (highBits (pieceBytes p ++ rest) (0 + 4) ≠ 0 ∨ 16 ≤ field (pieceBytes p ++ rest) (0 + 17) 1) := by
    rw [hhigh, hflags]
    exact fun h => h.elim (· rfl) (Nat.not_le.2 hv)
  unfold pieceAt
  simp only
  rw [if_neg hok, hn1, hcoil, hlo, hhi, hflags, f0, f1, f2, f3]

theorem piecesAt_pieceBytes : ∀ (ps : List Piece) (pre : List Byte) (n0 : Nat),
    (∀ p ∈ ps, p.n1 < 2 ^ 32 ∧ p.sLo < 2 ^ 32 ∧ p.sHi < 2 ^ 32) → (∀ p ∈ ps.head?, p.n0 = n0) →
    ps.IsChain (fun p q => p.n1 = q.n0) → piecesAt (pre ++ ps.flatMap pieceBytes) ps.length pre.length n0 = some ps
  | [], _, _, _, _, _ => rfl
  | p :: ps, pre, n0, hb, hhead, hchain => by
    obtain ⟨h1, h2, h3⟩ := hb p List.mem_cons_self
    obtain rfl := hhead p rfl
    obtain ⟨hlink, hchain⟩ := List.isChain_cons.1 hchain
    have hp : pieceAt (pre ++ (p :: ps).flatMap pieceBytes) pre.length p.n0 = some p :=
      (pieceAt_after pre _ 0 p.n0).trans (pieceAt_pieceBytes h1 h2 h3 _)
    have hps := piecesAt_pieceBytes ps (pre ++ pieceBytes p) p.n1 (fun q hq => hb q (List.mem_cons_of_mem _ hq))
      (fun q hq => (hlink q hq).symm) hchain
    rw [List.length_append, pieceBytes_length, List.append_assoc] at hps
    unfold piecesAt
    simp only [List.length_cons, hp, Option.bind_eq_bind, Option.bind_some]
    rw [List.flatMap_cons, hps]
    rfl

/-! ### Lineage records (R184) -/

theorem lane_byte {lane lanes : Nat} (h1 : 1 ≤ lane) (h8 : lane ≤ 8) (k1 : 1 ≤ lanes) (k8 : lanes ≤ 8) (timedOut : Bool) :
    let v := (laneByte lane lanes timedOut).toNat
    v < 128 ∧ v % 8 + 1 = lane ∧ v / 8 % 8 + 1 = lanes ∧ bitSet v 6 = timedOut := by
  intro v
  have hv : v = lane - 1 + (lanes - 1) * 8 + bitOf timedOut 64 := by
    change (BitVec.ofNat 8 ((lane - 1) % 8 + (lanes - 1) % 8 * 8 + bitOf timedOut 64)).toNat = _
    rw [BitVec.toNat_ofNat, Nat.mod_eq_of_lt (a := lane - 1) (by omega), Nat.mod_eq_of_lt (a := lanes - 1) (by omega)]
    refine Nat.mod_eq_of_lt ?_
    cases timedOut <;> simp only [bitOf, if_true, Bool.false_eq_true, if_false] <;> omega
  unfold bitSet
  cases timedOut <;> simp only [bitOf, if_true, Bool.false_eq_true, if_false] at hv <;> simp <;> omega

theorem flatMap_pieceBytes_length (ps : List Piece) : (ps.flatMap pieceBytes).length = 18 * ps.length := by
  induction ps with
  | nil => rfl
  | cons p ps ih =>
    rw [List.flatMap_cons, List.length_append, ih, pieceBytes_length, List.length_cons]
    ring

theorem parseRecord_recordBytes {r : LineageRec} {high : Nat} (hhigh : high < 4) (hclose : r.close < 2 ^ 48) (hstop : r.stop < 2 ^ 32)
    (h1 : 1 ≤ r.lane) (h8 : r.lane ≤ 8) (k1 : 1 ≤ r.lanes) (k8 : r.lanes ≤ 8) (p1 : 1 ≤ r.pieces.length) (p8 : r.pieces.length ≤ 8)
    (hb : ∀ p ∈ r.pieces, p.n1 < 2 ^ 32 ∧ p.sLo < 2 ^ 32 ∧ p.sHi < 2 ^ 32) (hhead : (r.pieces.map (·.n0)).head? = some 0)
    (hchain : r.pieces.IsChain (fun p q => p.n1 = q.n0)) (hlast : (r.pieces.map (·.n1)).getLast? = some r.length) :
    parseRecord (recordBytes high r) = some r := by
  obtain ⟨hv, hlane, hlanes, htimed⟩ := lane_byte h1 h8 k1 k8 r.timedOut
  have hbytes : recordBytes high r = coilBytes high r.coil ++ (beBytes 6 r.close ++ (beBytes 4 r.stop ++
      (laneByte r.lane r.lanes r.timedOut :: r.pieces.flatMap pieceBytes))) := by
    simp [recordBytes]
  have hlen : (recordBytes high r).length = 16 + 18 * r.pieces.length := by
    simp only [hbytes, List.length_append, List.length_cons, coilBytes_length, beBytes_length, flatMap_pieceBytes_length]
    omega
  have hcoil : coilAt (recordBytes high r) 0 = r.coil := by
    rw [hbytes]
    exact coilAt_coilBytes hhigh ..
  have hcl : field (recordBytes high r) 5 6 = r.close := by
    rw [hbytes]
    exact (field_after (coilBytes high r.coil) _ 0 6).trans (field_bytes _ hclose)
  have hst : field (recordBytes high r) 11 4 = r.stop := by
    rw [hbytes, field_skip _ (by simp), field_skip _ (by simp)]
    simp only [coilBytes_length, beBytes_length]
    exact field_bytes _ hstop
  have hby : field (recordBytes high r) 15 1 = (laneByte r.lane r.lanes r.timedOut).toNat := by
    rw [hbytes, field_skip _ (by simp), field_skip _ (by simp), field_skip _ (by simp)]
    simp only [coilBytes_length, beBytes_length]
    exact field_first ..
  have hpieces : piecesAt (recordBytes high r) r.pieces.length 16 0 = some r.pieces := by
    have hpre : (coilBytes high r.coil ++ (beBytes 6 r.close ++ (beBytes 4 r.stop ++ [laneByte r.lane r.lanes r.timedOut]))).length = 16 := by
      simp
    have := piecesAt_pieceBytes r.pieces (coilBytes high r.coil ++ (beBytes 6 r.close ++ (beBytes 4 r.stop ++
      [laneByte r.lane r.lanes r.timedOut]))) 0 hb (fun p hp => by
        rw [List.head?_map, hp] at hhead
        exact Option.some.inj hhead) hchain
    rw [hpre] at this
    rw [hbytes]
    simpa using this
  have hcount : ((recordBytes high r).length - 16) / 18 = r.pieces.length := by
    rw [hlen]
    omega
  have hend : lastEnd r.pieces = r.length := by
    unfold lastEnd
    rw [← List.getLast?_map, hlast]
    rfl
  have hok : ¬ ((recordBytes high r).length ≠ 16 + 18 * r.pieces.length ∨ r.pieces.length < 1 ∨ 8 < r.pieces.length ∨
      128 ≤ field (recordBytes high r) 15 1) := by
    rw [hby]
    omega
  unfold parseRecord
  simp only [hcount]
  rw [if_neg hok, hpieces]
  simp only [Option.bind_eq_bind, Option.bind_some, hcoil, hcl, hst, hby, hend, hlane, hlanes, htimed]
  rfl

theorem highBits_recordBytes {high : Nat} (h : high < 4) (r : LineageRec) : highBits (recordBytes high r) 0 = high := by
  have hbytes : recordBytes high r = coilBytes high r.coil ++ (beBytes 6 r.close ++ (beBytes 4 r.stop ++
      (laneByte r.lane r.lanes r.timedOut :: r.pieces.flatMap pieceBytes))) := by
    simp [recordBytes]
  rw [hbytes]
  exact highBits_coilBytes h ..

/-! ### Fetch results (R115, 12.3) -/

@[simp] theorem signedBytes_length (v : Int) : (signedBytes v).length = 2 := beBytes_length ..

theorem signedField_after (a b : List Byte) (k : Nat) : signedField (a ++ b) (a.length + k) = signedField b k := by
  unfold signedField
  rw [field_after]

theorem signedField_skip {a : List Byte} {off : Nat} (b : List Byte) (h : a.length ≤ off) :
    signedField (a ++ b) off = signedField b (off - a.length) := by
  unfold signedField
  rw [field_skip b h]

theorem signedField_signedBytes {v : Int} (hlo : -32768 ≤ v) (hhi : v ≤ 32767) (b : List Byte) : signedField (signedBytes v ++ b) 0 = v := by
  have hf : field (signedBytes v ++ b) 0 2 = (BitVec.ofInt 16 v).toNat := field_bytes b (BitVec.ofInt 16 v).isLt
  unfold signedField
  rw [hf, BitVec.ofNat_toNat, BitVec.setWidth_eq]
  exact BitVec.toInt_ofInt_eq_self (by omega) (by simpa using hlo) (by simp; omega)

theorem pointBytes_length (p : Point) : (pointBytes p).length = 8 := by
  simp [pointBytes]

theorem pointAt_after (a b : List Byte) (k : Nat) : pointAt (a ++ b) (a.length + k) = pointAt b k := by
  unfold pointAt
  simp only [Nat.add_assoc, field_after, signedField_after]

theorem pointAt_pointBytes {p : Point} (h : -32768 ≤ p.mean ∧ p.mean ≤ 32767 ∧ -32768 ≤ p.least ∧ p.least ≤ 32767 ∧ -32768 ≤ p.most ∧
    p.most ≤ 32767) (rest : List Byte) : pointAt (pointBytes p ++ rest) 0 = some p := by
  obtain ⟨m0, m1, l0, l1, g0, g1⟩ := h
  obtain ⟨hb, b0, b1, b2, b3⟩ := four_flags p.flags.held p.flags.void p.flags.stop p.flags.sat
  obtain ⟨hp, p0, p1, p2⟩ := three_flags p.sparse p.partly p.expired
  have hbytes : pointBytes p ++ rest = signedBytes p.mean ++ (signedBytes p.least ++ (signedBytes p.most ++
      (beBytes 1 (binFlagsByte p.flags) ++ (beBytes 1 (bitOf p.sparse 1 + bitOf p.partly 2 + bitOf p.expired 4) ++ rest)))) := by
    simp [pointBytes]
  have hmean : signedField (pointBytes p ++ rest) 0 = p.mean := by
    rw [hbytes]
    exact signedField_signedBytes m0 m1 _
  have hleast : signedField (pointBytes p ++ rest) (0 + 2) = p.least := by
    rw [hbytes]
    exact (signedField_after (signedBytes p.mean) _ 0).trans (signedField_signedBytes l0 l1 _)
  have hmost : signedField (pointBytes p ++ rest) (0 + 4) = p.most := by
    rw [hbytes, signedField_skip _ (by simp), signedField_skip _ (by simp)]
    simp only [signedBytes_length]
    exact signedField_signedBytes g0 g1 _
  have hbf : field (pointBytes p ++ rest) (0 + 6) 1 = binFlagsByte p.flags := by
    rw [hbytes, field_skip _ (by simp), field_skip _ (by simp), field_skip _ (by simp)]
    simp only [signedBytes_length]
    exact field_bytes _ (lt_trans hb (by omega))
  have hpf : field (pointBytes p ++ rest) (0 + 7) 1 = bitOf p.sparse 1 + bitOf p.partly 2 + bitOf p.expired 4 := by
    rw [hbytes, field_skip _ (by simp), field_skip _ (by simp), field_skip _ (by simp), field_skip _ (by simp)]
    simp only [signedBytes_length, beBytes_length]
    exact field_bytes _ (by omega)
  have hok : ¬ (16 ≤ field (pointBytes p ++ rest) (0 + 6) 1 ∨ 8 ≤ field (pointBytes p ++ rest) (0 + 7) 1) := by
    rw [hbf, hpf]
    exact fun h => h.elim (Nat.not_le.2 hb) (Nat.not_le.2 hp)
  unfold pointAt
  simp only
  rw [if_neg hok, hmean, hleast, hmost, hbf, hpf, p0, p1, p2]
  unfold binFlagsByte
  rw [b0, b1, b2, b3]

theorem pointsAt_pointBytes : ∀ (ps : List Point) (pre : List Byte),
    (∀ p ∈ ps, -32768 ≤ p.mean ∧ p.mean ≤ 32767 ∧ -32768 ≤ p.least ∧ p.least ≤ 32767 ∧ -32768 ≤ p.most ∧ p.most ≤ 32767) →
    pointsAt (pre ++ ps.flatMap pointBytes) ps.length pre.length = some ps
  | [], _, _ => rfl
  | p :: ps, pre, hb => by
    have hp : pointAt (pre ++ (p :: ps).flatMap pointBytes) pre.length = some p :=
      (pointAt_after pre _ 0).trans (pointAt_pointBytes (hb p List.mem_cons_self) _)
    have hps := pointsAt_pointBytes ps (pre ++ pointBytes p) fun q hq => hb q (List.mem_cons_of_mem _ hq)
    rw [List.length_append, pointBytes_length, List.append_assoc] at hps
    unfold pointsAt
    simp only [List.length_cons, hp, Option.bind_eq_bind, Option.bind_some]
    rw [List.flatMap_cons, hps]
    rfl

theorem status_code (st : FetchStatus) : st.code < 6 ∧
    [FetchStatus.data, .unknown, .notMine, .noQuantity, .storeFault, .badRequest][st.code]? = some st := by
  cases st <;> decide

theorem head_byte {code count : Nat} (hc : code < 6) (hn : count ≤ 14) (clamped : Bool) :
    let v := code * 32 + bitOf clamped 16 + count
    v < 256 ∧ v % 16 = count ∧ v / 32 = code ∧ bitSet v 4 = clamped := by
  intro v
  have hv : v = code * 32 + bitOf clamped 16 + count := rfl
  unfold bitSet
  cases clamped <;> simp only [bitOf, if_true, Bool.false_eq_true, if_false] at hv <;> simp <;> omega

theorem parseFetchResult_fetchResultBytes {x : FetchResult}
    (hx : x.status = .data ∧ 1 ≤ x.points.length ∧ x.points.length ≤ 14 ∨ x.status ≠ .data ∧ x.points = [])
    (hb : ∀ p ∈ x.points, -32768 ≤ p.mean ∧ p.mean ≤ 32767 ∧ -32768 ≤ p.least ∧ p.least ≤ 32767 ∧ -32768 ≤ p.most ∧ p.most ≤ 32767) :
    parseFetchResult (fetchResultBytes x) = some x := by
  obtain ⟨hcode, hstatus⟩ := status_code x.status
  have hn : x.points.length ≤ 14 := by
    rcases hx with ⟨_, _, h⟩ | ⟨_, h⟩
    · exact h
    · rw [h]
      exact Nat.zero_le _
  obtain ⟨hv, hcount, hdiv, hclamped⟩ := head_byte hcode hn x.clamped
  have hhead : field (fetchResultBytes x) 0 1 = x.status.code * 32 + bitOf x.clamped 16 + x.points.length := field_bytes _ hv
  have hlen : (fetchResultBytes x).length = 1 + 8 * x.points.length := by
    have hpts : ∀ ps : List Point, (ps.flatMap pointBytes).length = 8 * ps.length := fun ps => by
      induction ps with
      | nil => rfl
      | cons p ps ih =>
        rw [List.flatMap_cons, List.length_append, ih, pointBytes_length, List.length_cons]
        ring
    unfold fetchResultBytes
    rw [List.length_append, beBytes_length, hpts]
  have hpoints : pointsAt (fetchResultBytes x) x.points.length 1 = some x.points := by
    have := pointsAt_pointBytes x.points (beBytes 1 (x.status.code * 32 + bitOf x.clamped 16 + x.points.length)) hb
    rw [beBytes_length] at this
    exact this
  have hok : ¬ (x.status = .data ∧ (x.points.length < 1 ∨ Config.groupCap < x.points.length) ∨ x.status ≠ .data ∧ x.points.length ≠ 0) := by
    rintro (⟨hd, hc⟩ | ⟨hd, hc⟩)
    · rcases hx with ⟨_, h1, h14⟩ | ⟨h, _⟩
      · exact hc.elim (by omega) (Nat.not_lt.2 h14)
      · exact h hd
    · rcases hx with ⟨h, _⟩ | ⟨_, h⟩
      · exact hd h
      · exact hc (by rw [h]; rfl)
  unfold parseFetchResult
  simp only [hhead, hcount, hdiv]
  rw [if_neg (not_not.2 hlen), hstatus]
  simp only [Option.bind_eq_bind, Option.bind_some]
  rw [if_neg hok, hpoints]
  simp only [Option.bind_some, hclamped]
  rfl

/-! ### Child lists (R106, R107, 12.3) -/

theorem childBytes_length (c : Child) : (childBytes c).length = 10 := by
  simp [childBytes]

theorem childAt_after (a b : List Byte) (k : Nat) : childAt (a ++ b) (a.length + k) = childAt b k := by
  unfold childAt
  simp only [Nat.add_assoc, field_after, highBits_after, coilAt_after]

theorem child_byte {lane : Nat} (h1 : 1 ≤ lane) (h8 : lane ≤ 8) (pending : Bool) :
    let v := (lane - 1) % 8 + bitOf pending 128
    v < 256 ∧ v % 128 / 8 = 0 ∧ v % 8 + 1 = lane ∧ bitSet v 7 = pending := by
  intro v
  have hv : v = (lane - 1) % 8 + bitOf pending 128 := rfl
  unfold bitSet
  cases pending <;> simp only [bitOf, if_true, Bool.false_eq_true, if_false] at hv <;> simp <;> omega

theorem childAt_childBytes {c : Child} (h1 : 1 ≤ c.lane) (h8 : c.lane ≤ 8) (hl : c.length < 2 ^ 32) (rest : List Byte) :
    childAt (childBytes c ++ rest) 0 = some c := by
  obtain ⟨hv, hzero, hlane, hpending⟩ := child_byte h1 h8 c.pending
  have hbytes : childBytes c ++ rest = coilBytes 0 c.coil ++ (beBytes 1 ((c.lane - 1) % 8 + bitOf c.pending 128) ++
      (beBytes 4 c.length ++ rest)) := by
    simp [childBytes]
  have hhigh : highBits (childBytes c ++ rest) 0 = 0 := by
    rw [hbytes]
    exact highBits_coilBytes (by omega) ..
  have hcoil : coilAt (childBytes c ++ rest) 0 = c.coil := by
    rw [hbytes]
    exact coilAt_coilBytes (by omega) ..
  have hbyte : field (childBytes c ++ rest) (0 + 5) 1 = (c.lane - 1) % 8 + bitOf c.pending 128 := by
    rw [hbytes]
    exact (field_after (coilBytes 0 c.coil) _ 0 1).trans (field_bytes _ hv)
  have hlength : field (childBytes c ++ rest) (0 + 6) 4 = c.length := by
    rw [hbytes, field_skip _ (by simp), field_skip _ (by simp)]
    simp only [coilBytes_length, beBytes_length]
    exact field_bytes _ hl
  have hok : ¬ (highBits (childBytes c ++ rest) 0 ≠ 0 ∨ field (childBytes c ++ rest) (0 + 5) 1 % 128 / 8 ≠ 0) := by
    rw [hhigh, hbyte]
    exact fun h => h.elim (· rfl) (· hzero)
  unfold childAt
  simp only
  rw [if_neg hok, hcoil, hbyte, hlength, hlane, hpending]

theorem childrenAt_childBytes : ∀ (cs : List Child) (pre : List Byte), (∀ c ∈ cs, 1 ≤ c.lane ∧ c.lane ≤ 8 ∧ c.length < 2 ^ 32) →
    childrenAt (pre ++ cs.flatMap childBytes) cs.length pre.length = some cs
  | [], _, _ => rfl
  | c :: cs, pre, hb => by
    obtain ⟨h1, h8, hl⟩ := hb c List.mem_cons_self
    have hc : childAt (pre ++ (c :: cs).flatMap childBytes) pre.length = some c :=
      (childAt_after pre _ 0).trans (childAt_childBytes h1 h8 hl _)
    have hcs := childrenAt_childBytes cs (pre ++ childBytes c) fun q hq => hb q (List.mem_cons_of_mem _ hq)
    rw [List.length_append, childBytes_length, List.append_assoc] at hcs
    unfold childrenAt
    simp only [List.length_cons, hc, Option.bind_eq_bind, Option.bind_some]
    rw [List.flatMap_cons, hcs]
    rfl

theorem part_byte {index : Nat} (h : index < 128) (more : Bool) :
    let v := bitOf more 128 + index % 128
    v < 256 ∧ v % 128 = index ∧ bitSet v 7 = more := by
  intro v
  have hv : v = bitOf more 128 + index % 128 := rfl
  unfold bitSet
  cases more <;> simp only [bitOf, if_true, Bool.false_eq_true, if_false] at hv <;> simp <;> omega

theorem parseDescentPart_descentPartBytes {d : DescentPart} (hi : d.index < 128) (h1 : 1 ≤ d.children.length)
    (h10 : d.children.length ≤ 10) (hb : ∀ c ∈ d.children, 1 ≤ c.lane ∧ c.lane ≤ 8 ∧ c.length < 2 ^ 32) :
    parseDescentPart (descentPartBytes d) = some d := by
  obtain ⟨hv, hindex, hmore⟩ := part_byte hi d.more
  have hhead : field (descentPartBytes d) 0 1 = bitOf d.more 128 + d.index % 128 := field_bytes _ hv
  have hlen : (descentPartBytes d).length = 1 + 10 * d.children.length := by
    have hcs : ∀ cs : List Child, (cs.flatMap childBytes).length = 10 * cs.length := fun cs => by
      induction cs with
      | nil => rfl
      | cons c cs ih =>
        rw [List.flatMap_cons, List.length_append, ih, childBytes_length, List.length_cons]
        ring
    unfold descentPartBytes
    rw [List.length_append, beBytes_length, hcs]
  have hcount : ((descentPartBytes d).length - 1) / 10 = d.children.length := by
    rw [hlen]
    omega
  have hchildren : childrenAt (descentPartBytes d) d.children.length 1 = some d.children := by
    have := childrenAt_childBytes d.children (beBytes 1 (bitOf d.more 128 + d.index % 128)) hb
    rw [beBytes_length] at this
    exact this
  have hok : ¬ ((descentPartBytes d).length ≠ 1 + 10 * d.children.length ∨ d.children.length < 1 ∨ Config.childCap < d.children.length) :=
    fun h => h.elim (· hlen) fun h => h.elim (by omega) (Nat.not_lt.2 h10)
  unfold parseDescentPart
  simp only [hcount]
  rw [if_neg hok, hchildren]
  simp only [Option.bind_eq_bind, Option.bind_some, hhead, hindex, hmore]
  rfl

/-- Settles O40: each payload, read field by field. -/
theorem payloadsRoundTrip : Obligations.PayloadsRoundTrip := by
  refine ⟨parseCoil_coilBytes, fun v h => parseTime_beBytes h, parseFetch_fetchBytes, parsePresence_presenceBytes, fun c len close hl hc =>
    ⟨parseLineageAnswer_pending c hl hc, parseLineageAnswer_short c⟩, ?_, fun x hx hb => parseFetchResult_fetchResultBytes hx hb,
    fun d hi h1 h10 hb => parseDescentPart_descentPartBytes hi h1 h10 hb⟩
  intro r hclose hstop h1 h8 k1 k8 p1 p8 hb hhead hchain hlast
  have hr : parseRecord (recordBytes 0 r) = some r :=
    parseRecord_recordBytes (by omega) hclose hstop h1 h8 k1 k8 p1 p8 hb hhead hchain hlast
  refine ⟨?_, hr⟩
  unfold lineageAnswerBytes parseLineageAnswer
  simp only [highBits_recordBytes (high := 0) (by omega) r, hr]
  rfl

end Sys2Proof.Machine

/-! PROOFS. A LINEAGE-REPLY reaches the cache and the tracker (R41, R75, R101). -/

namespace Sys2Proof.Machine

/-- The cache after a LINEAGE-REPLY (R73, R75, R76). -/
def State.replyCache (s : State) (source : BitVec 6) (a : LineageAnswer) : List LineageRec :=
  match a with
  | .record r => if r.passes s.settings.station source then (r :: s.lch.cache.filter fun y => y.coil != r.coil).take 256 else s.lch.cache
  | _ => s.lch.cache

theorem takeLineageReply_eq {source : BitVec 6} {payload : List Byte} {a : LineageAnswer} (ha : parseLineageAnswer payload = some a)
    (tag : Byte) (s : State) : takeLineageReply source tag payload s =
      let kept : State := { s with lch := { s.lch with cache := s.replyCache source a } }
      if tag.toNat / 64 = 1 then queryReply source tag a kept else if tag.toNat / 64 = 2 then lengthReply source tag a kept else kept := by
  unfold takeLineageReply State.replyCache
  rw [ha]
  cases a with
  | record r =>
    by_cases hp : r.passes s.settings.station source = true
    · simp only [State.keepRecord, if_pos hp]
      rfl
    · simp only [State.keepRecord, if_neg hp]
      rfl
  | pending c len close => rfl
  | unknown c => rfl
  | notMine c => rfl

theorem exec_lineageReply {s : State} {source dest : BitVec 6} {tag : Byte} {payload : List Byte} {a : LineageAnswer}
    (hwf : (Instr.lineageReply source dest tag payload).wf = true) (h0 : source ≠ 0) (h63 : source ≠ 63)
    (hdest : dest = s.settings.station ∨ dest = 63) (ha : parseLineageAnswer payload = some a) :
    exec (.lineageReply source dest tag payload) s = whenReceiving s
      (let kept : State := { s.heardFrom source with lch := { s.lch with cache := s.replyCache source a } }
      if tag.toNat / 64 = 1 then queryReply source tag a kept else if tag.toNat / 64 = 2 then lengthReply source tag a kept else kept) := by
  change whenReceiving s (frameArrives (some .lineageReply) source dest tag payload s) = _
  rw [frameArrives_wf hwf, receiveFrame_dispatch h0 h63 (.inr (by simp)) hdest]
  exact congrArg (whenReceiving s) (takeLineageReply_eq ha tag (s.heardFrom source))

/-- A length noted with the end of a query (R41). -/
theorem updateLength_or (c : Ctr) (id : Nat) (lq : LengthState) (len : Option Nat) : c.updateLength id lq len = { c with
    decls := c.decls.map fun d => if d.id = id then { d with lq, length := d.length.or len } else d
    entries := c.entries.map fun e => if e.id = id then { e with lq, length := e.length.or len } else e } := by
  have hor : ∀ a b : Option Nat, (a <|> b) = a.or b := fun a b => by cases a <;> rfl
  unfold Ctr.updateLength
  simp only [hor]

/-- A reply ends the length query of its slot (R41, R101). -/
theorem lengthReply_ends {s : State} {source : BitVec 6} {tag : Byte} {b : LengthBusy}
    (hslot : s.ctr.slots[tag.toNat / 4 % 16]? = some ⟨BitVec.ofNat 2 (tag.toNat % 4), some b⟩) (hst : b.coil.station = source)
    (a : LineageAnswer) : lengthReply source tag a s = { s with
      ctr := { s.ctr with
        slots := s.ctr.slots.set (tag.toNat / 4 % 16) ⟨BitVec.ofNat 2 (tag.toNat % 4), none⟩
        decls := s.ctr.decls.map fun d => if d.id = b.link then
          { d with lq := .none, length := d.length.or (replyLength s.settings.station source b.coil a) } else d
        entries := s.ctr.entries.map fun e => if e.id = b.link then
          { e with lq := .none, length := e.length.or (replyLength s.settings.station source b.coil a) } else e }
      bus := { s.bus with waiting := s.bus.waiting.filter fun e => e.owner != .ctrQuery (tag.toNat / 4 % 16) } } := by
  have hslot' : s.ctr.slots[tagSlot tag]? = some ⟨tagGen tag, some b⟩ := hslot
  unfold lengthReply
  rw [hslot']
  refine (if_pos ⟨rfl, hst⟩).trans ?_
  unfold endLengthQuery
  rw [updateLength_or, hslot']
  rfl

/-- A reply that matches no busy slot has no effect on the slots (R101). -/
theorem lengthReply_passed {s : State} {source : BitVec 6} {tag : Byte}
    (h : ∀ b, s.ctr.slots[tag.toNat / 4 % 16]? = some ⟨BitVec.ofNat 2 (tag.toNat % 4), some b⟩ → b.coil.station ≠ source)
    (a : LineageAnswer) : lengthReply source tag a s = s := by
  unfold lengthReply
  split
  · rename_i gen b hslot
    refine if_neg ?_
    rintro ⟨rfl, hst⟩
    exact h b hslot hst
  · rfl

/-- Settles O41: the cache, and the length query that the reply ends or passes. -/
theorem lineageReplyToTracker : Obligations.LineageReplyToTracker := by
  intro s source dest tag payload a hr hwf h0 h63 hdest ha passes cache heard gen slot
  have hcache : s.replyCache source a = cache := by
    cases a <;> rfl
  rw [exec_lineageReply hwf h0 h63 hdest ha, hcache]
  refine ⟨fun b hunit hslot hst => ?_, fun h => receiving_of_eq hr ?_⟩
  · have hone : ¬ tag.toNat / 64 = 1 := by omega
    have hends := lengthReply_ends (s := heard) hslot hst a
    obtain ⟨t, ht, hc⟩ := receiving_of_eq (s := s) hr ((if_neg hone).trans ((if_pos hunit).trans hends))
    refine ⟨t, _, ht, hc, ?_, ?_, ?_⟩
    · rintro r rfl
      rfl
    · rintro c n x rfl
      rfl
    · rintro c (rfl | rfl) <;> rfl
  · have hone : ¬ tag.toNat / 64 = 1 := by omega
    refine (if_neg hone).trans ?_
    by_cases htwo : tag.toNat / 64 = 2
    · have hno := (h.resolve_left (by omega)).resolve_left (by omega)
      exact (if_pos htwo).trans (lengthReply_passed (s := heard) hno.2 a)
    · exact if_neg htwo

end Sys2Proof.Machine

/-! PROOFS. Plant time and the roster (R117 to R127). -/

namespace Sys2Proof.Machine

/-! ### Plant time (R124 to R127) -/

theorem takeTime_eq (payload : List Byte) (s : State) : takeTime payload s = { s with ros := { s.ros with
    clock := if payload.length = 6 ∧ beNat payload ≠ 0 ∧ s.settings.timeSource = false then beNat payload else s.ros.clock } } := by
  unfold takeTime parseTime
  by_cases hlen : payload.length = 6
  · rw [if_pos hlen]
    simp only
    by_cases hskip : (s.settings.timeSource || beNat payload == 0) = true
    · have hno : ¬ (payload.length = 6 ∧ beNat payload ≠ 0 ∧ s.settings.timeSource = false) := by
        rintro ⟨_, hv, hs⟩
        simp [hv, hs] at hskip
      rw [if_pos hskip, if_neg hno]
    · have hyes : payload.length = 6 ∧ beNat payload ≠ 0 ∧ s.settings.timeSource = false := by
        rw [Bool.or_eq_true, not_or, beq_iff_eq, Bool.not_eq_true] at hskip
        exact ⟨hlen, hskip.2, hskip.1⟩
      rw [if_neg hskip, if_pos hyes]
  · have hno : ¬ (payload.length = 6 ∧ beNat payload ≠ 0 ∧ s.settings.timeSource = false) := fun h => hlen h.1
    rw [if_neg hlen, if_neg hno]

/-- The bus after frames of one owner are withdrawn (R93). -/
theorem withdraw_owner (o : Owner) (s : State) : s.withdraw (fun w => w == o) = { s with bus := { s.bus with
    queue := (s.bus.queue.filter fun e => e.owner != o || e.onLine).map fun e => if e.owner = o then { e with withdrawn := true } else e
    waiting := s.bus.waiting.filter fun e => e.owner != o } } := by
  unfold State.withdraw
  simp only [beq_iff_eq]
  rfl

/-- ROS sends a TIME (R126): it replaces an older one not yet sent, and MUTED refuses it. -/
theorem sendTime_muted {s : State} (hm : s.bus.muted = true) : sendTime s = { s with ros := { s.ros with timeTimer := 0 } } := if_pos hm

theorem sendTime_clear {s : State} (hm : s.bus.muted = false) : sendTime s = { s with
    ros := { s.ros with timeTimer := 0 }
    bus := { s.bus with
      queue := (s.bus.queue.filter fun e => e.owner != .rosTime || e.onLine).map fun e =>
        if e.owner = .rosTime then { e with withdrawn := true } else e
      waiting := (s.bus.waiting.filter fun e => e.owner != .rosTime) ++
        [⟨⟨.time, 63, 0, beBytes 6 s.ros.clock⟩, .rosTime, 0, 0, false, false⟩] } } := by
  have hno : ¬ s.bus.muted = true := by simp [hm]
  refine (if_neg hno).trans ?_
  rw [withdraw_owner]
  rfl

/-- Settles O42: the TIME taken, the time-frame timer, and the wrap of the clock. -/
theorem timeFramesAndClockWrap : Obligations.TimeFramesAndClockWrap := by
  refine ⟨fun s source dest tag payload hr hwf h0 h63 hdest => ?_, fun s => ⟨fun hrun hsrc htimer => ?_, fun hpart htop => ?_⟩⟩
  · change ∃ t, whenReceiving s (frameArrives (some .time) source dest tag payload s) = _ ∧ _
    rw [frameArrives_wf hwf, receiveFrame_dispatch h0 h63 (.inr (by simp)) hdest]
    exact receiving_of_eq hr (takeTime_eq payload (s.heardFrom source))
  · have hdue : (s.countsFrames && decide (Config.timeFramePeriod ≤ s.ros.timeTimer)) = true := by
      rw [Bool.and_eq_true, decide_eq_true_iff]
      exact ⟨by unfold State.countsFrames; rw [hrun, hsrc]; rfl, htimer⟩
    have hexec : exec .timeFrameTimer s = commit s (some (sendTime s)) := congrArg (commit s) (if_pos hdue)
    rw [hexec]
    exact ⟨fun hm => commit_of_eq (congrArg some (sendTime_muted hm)), fun hm => commit_of_eq (congrArg some (sendTime_clear hm))⟩
  · have hticks : s.sup.part.ticks = true := by
      rcases hpart with h | h | h | h
      · rw [h]; rfl
      · rw [h]; rfl
      · rw [h]; rfl
      · rcases State.running_cases h with h | h <;> rw [h] <;> rfl
    have hdue : (s.sup.part.ticks && decide (Config.max48 ≤ s.ros.clock)) = true := by
      rw [hticks, Bool.true_and, decide_eq_true_iff]
      exact htop
    exact commit_of_eq (if_pos hdue)

/-! ### Roll-call (R78, R119, R123) -/

theorem presenceWaits_iff (s : State) : s.presenceWaits = false ↔
    ∀ e ∈ s.bus.queue ++ s.bus.waiting, e.owner ≠ .rosStart ∧ e.owner ≠ .rosAnswer := by
  have howner : ∀ e : TxEntry, e.owner.rosPresence = false ↔ e.owner ≠ .rosStart ∧ e.owner ≠ .rosAnswer := fun e => by
    cases h : e.owner <;> simp [Owner.rosPresence]
  unfold State.presenceWaits
  rw [← List.any_append, List.any_eq_false]
  simp only [Bool.not_eq_true, howner]

theorem answerStart_silent {s : State} (h : ¬ (s.bus.muted = false ∧ s.presenceWaits = false)) : answerStart s = s := by
  refine if_pos ?_
  rw [Bool.or_eq_true]
  by_contra hc
  rw [not_or, Bool.not_eq_true, Bool.not_eq_true] at hc
  exact h hc

theorem answerStart_offers {s : State} (hm : s.bus.muted = false) (hw : s.presenceWaits = false) :
    answerStart s = s.offer (ownPresence s true false) .rosAnswer := by
  refine if_neg ?_
  rw [hm, hw]
  simp

theorem ownPresence_answer (s : State) : ownPresence s true false = ⟨.presence, 63, 0, BitVec.ofNat 8 (if s.tsc.storeFault then 5 else 1) ::
    s.settings.channels.map fun d => BitVec.ofNat 8 d.quantity⟩ := by
  have hhead : ∀ fault : Bool, beBytes 1 (bitOf true 1 + bitOf false 2 + bitOf fault 4) = [BitVec.ofNat 8 (if fault then 5 else 1)] := by
    decide
  unfold ownPresence presenceBytes
  simp only [hhead]
  rfl

/-- The roster, and the cache, after a PRESENCE of another station (R78, R119). -/
theorem takePresence_eq {s : State} {source : BitVec 6} (h0 : source ≠ 0) (h63 : source ≠ 63) (hown : source ≠ s.settings.station)
    (p : Presence) : takePresence source p (s.heardFrom source) =
      let taken : State := { s.hunting with
        ros := { s.ros with roster := s.ros.roster.set (source.toNat - 1) ⟨if p.fault then .degraded else .present, some p.codes⟩ }
        lch := if p.answer = false ∧ p.cold = true then
          { s.lch with cache := s.lch.cache.filter fun r => r.coil.station != source } else s.lch }
      if p.answer then taken else answerStart taken := by
  have hon : ¬ (source = 0 ∨ source = 63 ∨ source = (s.heardFrom source).settings.station) := fun h => h.elim h0 (·.elim h63 hown)
  have hroster : (s.heardFrom source).updateRoster source (RosterEntry.presence p) = { s.hunting with
      ros := { s.ros with roster := s.ros.roster.set (source.toNat - 1) ⟨if p.fault then .degraded else .present, some p.codes⟩ } } := by
    rw [updateRoster_eq, if_neg hon, heardFrom_other hown]
    simp only [List.set_set]
    rfl
  unfold takePresence
  simp only [hroster]
  cases p.answer with
  | true => rfl
  | false =>
    cases p.cold with
    | true => rfl
    | false => rfl

/-- Settles O43: the PRESENCE taken, answered where it is a START, or only heard. -/
theorem presenceTaken : Obligations.PresenceTaken := by
  intro s source dest tag payload hr hwf h0 h63 hown hdest line own quiet
  have hexec : exec (.presence source dest tag payload) s = whenReceiving s (match parsePresence payload with
      | none => s.heardFrom source
      | some p => takePresence source p (s.heardFrom source)) := by
    change whenReceiving s (frameArrives (some .presence) source dest tag payload s) = _
    rw [frameArrives_wf hwf, receiveFrame_dispatch h0 h63 (.inl hown) hdest]
    refine congrArg (whenReceiving s) ?_
    unfold dispatch
    simp only
    cases parsePresence payload with
    | none => rfl
    | some p => exact if_neg hown
  rw [hexec]
  refine ⟨fun p hp => ?_, fun hp => receiving_of_eq hr ?_⟩
  · intro entry taken
    have htaken := takePresence_eq h0 h63 hown p
    have hquiet : quiet ↔ taken.bus.muted = false ∧ taken.presenceWaits = false := and_congr_right fun _ => (presenceWaits_iff taken).symm
    rw [hp]
    refine ⟨fun h => receiving_of_eq hr (htaken.trans ?_), fun hanswer hq => receiving_of_eq hr (htaken.trans ?_)⟩
    · cases hanswer : p.answer with
      | true => simp only [if_true, hanswer, taken]; rfl
      | false =>
        have hno := h.resolve_left (by simp [hanswer])
        simp only [Bool.false_eq_true, if_false]
        rw [answerStart_silent]
        · simp only [hanswer, taken]
          rfl
        · exact fun hc => hno (hquiet.2 hc)
    · obtain ⟨hm, hw⟩ := hquiet.1 hq
      simp only [hanswer, Bool.false_eq_true, if_false, true_and]
      rw [answerStart_offers (by exact hm) (by exact hw), ownPresence_answer]
      simp only [taken, hanswer, true_and]
      rfl
  · rw [hp]
    exact heardFrom_other hown

end Sys2Proof.Machine

/-! PROOFS. The console link (chapter 11): how a request reaches its block, and a PLAYBACK taken by the idle engine (chapter 8). -/

namespace Sys2Proof.Machine

/-! ### A request record with the assembler hunting (R170 to R172) -/

/-- A whole record to an assembler that hunts. -/
theorem conWhole_hunting {s : State} (ha : s.con.assembler = none) (rec : ConRecord) (kind : Byte) (payload : List Byte) :
    conWhole rec kind payload s = conReceive rec s := by
  unfold conWhole
  rw [ha]

theorem requestArrives_hunting {s : State} (ha : s.con.assembler = none) (q : Request) :
    requestArrives q s = commit s (some (conReceive (judgeRequest q.kind (some q)) s)) :=
  congrArg (fun u => commit s (some u)) (conWhole_hunting ha ..)

theorem judgeRequest_good {q : Request} (h : q.inRange = true) (kind : Byte) : judgeRequest kind (some q) = .request q := by
  simp [judgeRequest, Option.filter_some, h]

theorem judgeRequest_bad {q : Request} (h : q.inRange = false) (kind : Byte) : judgeRequest kind (some q) = .badFormat kind := by
  simp [judgeRequest, Option.filter_some, h]

/-- A record that completes with the link running and the buffer free (R171). -/
theorem conReceive_free {s : State} (hl : s.linkRuns = true) (hc : s.con.complete = none) (rec : ConRecord) :
    conReceive rec s = processRecord rec s := by
  simp [conReceive, hl, hc]

/-- A good request arrives with the link running, the assembler hunting and the buffer free. -/
theorem requestArrives_taken {s : State} (hl : s.linkRuns = true) (ha : s.con.assembler = none) (hc : s.con.complete = none)
    {q : Request} (hq : q.inRange = true) : requestArrives q s = commit s (some (takeRequestRecord q s)) := by
  rw [requestArrives_hunting ha, judgeRequest_good hq, conReceive_free hl hc]
  rfl

/-- A request in a running part (R172 rows 5 to 7). -/
theorem takeRequestRecord_running {s : State} (hr : s.running = true) {q : Request} (hq : q ≠ .status) : takeRequestRecord q s =
    match q with
    | .status => s.answer (.request q) .report
    | .playback c quantity a b step depth => passToReq q (takePlayback c quantity a b step depth) s
    | .genealogy c up depth => passToReq q (takeGenealogy c up depth) s
    | .coilList mode unstamped => passToReq q (takeCoilList mode unstamped) s
    | .abort => takeAbort s
    | .clearFault => takeClearFault s
    | .setTime clock => takeSetTime clock s := by
  unfold takeRequestRecord
  rw [if_neg hq, hr]
  cases q <;> rfl

section
variable {s : State} (hr : s.receives = true) (ha : s.con.assembler = none) (hc : s.con.complete = none)
include hr ha hc

theorem exec_playback (hidle : s.req.engine = .idle) {coil : Coil} {quantity : Byte} {a b step : BitVec 32} {depth : Byte}
    (h1 : 1 ≤ step.toNat) (h2 : step.toNat ≤ 1000000) (hd : depth.toNat ≤ 4) : exec (.playback coil quantity a b step depth) s =
      commit s (some (takePlayback coil quantity.toNat a.toNat b.toNat step.toNat depth.toNat s)) := by
  refine (requestArrives_taken (State.linkRuns_of_receives hr) ha hc (q := .playback coil quantity.toNat a.toNat b.toNat step.toNat
    depth.toNat) (by simpa [Request.inRange] using ⟨h1, h2, hd⟩)).trans ?_
  rw [takeRequestRecord_running (State.running_of_receives hr) (by simp)]
  exact congrArg (fun u => commit s (some u)) (if_pos hidle)

end

/-! ### A lineage query starts (R130) -/

theorem startQuery_clear {i : Nat} {c : Coil} {serves : Serves} {s : State} {gen : BitVec 2}
    (hx : s.req.queries[i]? = some ⟨gen, none⟩) (hm : s.bus.muted = false) : startQuery i c serves s = { s with
      req := { s.req with queries := s.req.queries.set i ⟨gen + 1, some {
        coil := c, serves, tries := 1, dropped := false, timer := none
        allowed := if (s.rosterEntry c.station).state = .silent then 1 else 1 + s.settings.retryLimit }⟩ }
      bus := { s.bus with waiting := s.bus.waiting ++ [⟨⟨.lineageQuery, c.station,
        BitVec.ofNat 8 (64 + i * 4 + (gen + 1).toNat), coilBytes 0 c⟩, .reqQuery i, 0, 0, false, false⟩] } } := by
  unfold startQuery
  rw [hx]
  exact (if_neg (by simp [State.setReq, hm])).trans rfl

/-! ### Resolution (R129) -/

theorem ExitRec.recState_pending {r : ExitRec} {os : List Overlap} {n : Nat} (h : r.body = .pending os n) :
    r.recState = .pending r.close := by simp [ExitRec.recState, ExitRec.lineage, h]

theorem ExitRec.recState_final {r : ExitRec} {ps : List Piece} {m : Bool} (h : r.body = .final ps m) :
    r.recState = .record ⟨r.coil, r.oEnd - r.oStart, r.close, r.stop, r.lane, r.lanes, r.timedOut, ps⟩ := by
  simp [ExitRec.recState, ExitRec.lineage, h, ExitRec.length]

section
variable {c : Coil} {s : State}

theorem resolve_off (h : c.station = 0 ∨ c.station = 63) : resolve c s = refuse .unknownCoil s := by
  rcases h with h | h <;> simp [resolve, busStation, h]

variable (h0 : c.station ≠ 0) (h63 : c.station ≠ 63)
include h0 h63

theorem resolve_ownMissing (hown : c.station = s.settings.station) (h : s.findExit c = none) :
    resolve c s = refuse .unknownCoil s := by
  unfold resolve
  rw [busStation_of h0 h63, if_neg (by decide), if_pos hown, h]

theorem resolve_ownExit (hown : c.station = s.settings.station) {r : ExitRec} (h : s.findExit c = some r) :
    resolve c s = acceptPlayback r.length r.recState s := by
  unfold resolve
  rw [busStation_of h0 h63, if_neg (by decide), if_pos hown, h]

variable (hother : c.station ≠ s.settings.station)
include hother

theorem resolve_cached {r : LineageRec} (h : s.lch.cache.find? (fun x => x.coil == c) = some r) :
    resolve c s = acceptPlayback r.length (.record r)
      { s with lch := { s.lch with cache := r :: s.lch.cache.filter fun x => x.coil != c } } := by
  unfold resolve
  rw [busStation_of h0 h63, if_neg (by decide), if_neg hother, lookupCache_hit h]

theorem resolve_unasked (h : s.lch.cache.find? (fun x => x.coil == c) = none)
    (hno : s.bus.muted = true ∨ ∀ x ∈ s.req.queries, x.busy.isSome) : resolve c s = refuse .unreachable s := by
  unfold resolve
  rw [busStation_of h0 h63, if_neg (by decide), if_neg hother, lookupCache_miss h]
  rcases hno with hm | hbusy
  · exact if_pos hm
  · have hidle : idleQuery s.req = none := List.findIdx?_eq_none_iff.2 fun x hx => by
      obtain ⟨b, hb⟩ := Option.isSome_iff_exists.1 (hbusy x hx)
      rw [hb]
      rfl
    simp only [hidle, ite_self]

theorem resolve_asked (h : s.lch.cache.find? (fun x => x.coil == c) = none) (hm : s.bus.muted = false) {i : Nat}
    (hi : idleQuery s.req = some i) : resolve c s = startQuery i c .resolution s := by
  unfold resolve
  rw [busStation_of h0 h63, if_neg (by decide), if_neg hother, lookupCache_miss h]
  simp only [hm, hi, Bool.false_eq_true, if_false]

end

/-- The idle slot of lowest number (assumption 21). -/
theorem idleQuery_first {r : Req} {i : Nat} {gen : BitVec 2} (hi : r.queries[i]? = some ⟨gen, none⟩)
    (hbefore : ∀ (j : Nat) (x : QuerySlot), j < i → r.queries[j]? = some x → x.busy.isSome) : idleQuery r = some i :=
  findIdx?_first hi rfl fun j y hj hy => by
    obtain ⟨b, hb⟩ := Option.isSome_iff_exists.1 (hbefore j y hj hy)
    rw [hb]
    rfl

/-- Settles O44, by the case of R129 that applies. -/
theorem playbackTaken : Obligations.PlaybackTaken := by
  intro s coil quantity a b step depth hr ha hc hidle h1 h2 hd c taken refused own held
  have hexec : exec c s = commit s (some (resolve coil taken)) := exec_playback hr ha hc hidle h1 h2 hd
  have hrun : ∀ u, resolve coil taken = u → ∃ t, exec c s = .next t ∧ Carried u t := fun u hu => by
    rw [hexec]
    exact commit_of_eq (congrArg some hu)
  refine ⟨fun h => hrun _ ?_, fun r h0 h63 hown hf => ⟨fun os n hb => hrun _ ?_, fun ps m hb => hrun _ ?_⟩,
    fun h0 h63 hother => ⟨fun r hh => hrun _ ?_, fun hh hno => hrun _ ?_, fun i gen hh hm hi hbefore => hrun _ ?_⟩⟩
  · by_cases hoff : coil.station = 0 ∨ coil.station = 63
    · exact resolve_off hoff
    · obtain ⟨h0, h63⟩ := not_or.1 hoff
      obtain ⟨hown, hnone⟩ := (or_assoc.2 h).resolve_left hoff
      exact resolve_ownMissing (s := taken) h0 h63 hown hnone
  · rw [resolve_ownExit (s := taken) h0 h63 hown hf, ExitRec.recState_pending hb]
    rfl
  · rw [resolve_ownExit (s := taken) h0 h63 hown hf, ExitRec.recState_final hb]
    rfl
  · exact resolve_cached (s := taken) h0 h63 hother hh
  · exact resolve_unasked (s := taken) h0 h63 hother hh hno
  · rw [resolve_asked (s := taken) h0 h63 hother hh hm (idleQuery_first hi hbefore), startQuery_clear (s := taken) hi hm]
    rfl

end Sys2Proof.Machine

/-! PROOFS. ABORT, the requests that CON serves, and the records that CON and REQ place (chapter 11, 9.6, 9.7, 10.4). -/

namespace Sys2Proof.Machine

/-! ### ABORT (R132, R155, R169, R175) -/

theorem exec_abort {s : State} (hr : s.receives = true) (ha : s.con.assembler = none) (hc : s.con.complete = none) :
    exec .abort s = commit s (some (takeAbort s)) := by
  refine (requestArrives_taken (State.linkRuns_of_receives hr) ha hc (q := .abort) rfl).trans ?_
  rw [takeRequestRecord_running (State.running_of_receives hr) (by simp)]

theorem takeAbort_busy {s : State} (h : s.req.engine ≠ .idle) : takeAbort s = abortRequest s := if_neg h

theorem abortRequest_resolving {s : State} (h : s.req.engine = .resolving) : abortRequest s = abortResolving s := by
  unfold abortRequest
  rw [h]

theorem abortRequest_playing {s : State} (h : s.req.engine = .playing) : abortRequest s = abortPlaying s := by
  unfold abortRequest
  rw [h]

theorem abortRequest_walk {s : State} (h : s.req.engine = .walkingUp ∨ s.req.engine = .walkingDown ∨ s.req.engine = .listing) :
    abortRequest s = abortWalk s := by
  unfold abortRequest
  rcases h with h | h | h <;> rw [h]

/-- ABORT again leaves the request as it is. -/
theorem abortRequest_again {s : State} (h : s.req.engine = .resolving ∧ s.req.refusal = some .aborted ∨
    s.req.engine ≠ .idle ∧ s.req.engine ≠ .resolving ∧ s.req.aborting = true) : abortRequest s = s := by
  rcases h with ⟨he, hrefused⟩ | ⟨hidle, hres, hab⟩
  · rw [abortRequest_resolving he]
    exact if_pos hrefused
  · have hwalk := abortRequest_walk (s := s)
    cases he : s.req.engine with
    | idle => exact absurd he hidle
    | resolving => exact absurd he hres
    | playing => rw [abortRequest_playing he]; exact if_pos hab
    | walkingUp => rw [hwalk (.inl he)]; exact if_pos hab
    | walkingDown => rw [hwalk (.inr (.inl he))]; exact if_pos hab
    | listing => rw [hwalk (.inr (.inr he))]; exact if_pos hab

/-- Settles O54, state by state of the engine. -/
theorem abortEndsRequest : Obligations.AbortEndsRequest := by
  intro s hr ha hc next queries isQuery isFetch
  have hnext : ∀ u, s.req.engine ≠ .idle → abortRequest s = u → next u := fun u he hu => by
    change ∃ t, _
    rw [exec_abort hr ha hc, takeAbort_busy he]
    exact commit_of_eq (congrArg some hu)
  refine ⟨fun he hno => hnext _ (by simp [he]) ?_, fun he hno => hnext _ (by simp [he]) ?_,
    fun he hno => hnext _ (by rcases he with he | he | he <;> simp [he]) ?_,
    fun h => hnext _ (by rcases h with ⟨he, _⟩ | ⟨he, _⟩ <;> simp [he]) (abortRequest_again h)⟩
  · rw [abortRequest_resolving he]
    exact if_neg hno
  · rw [abortRequest_playing he]
    exact if_neg (by simp [hno])
  · rw [abortRequest_walk he]
    exact if_neg (by simp [hno])

/-! ### Answers of CON (R171 to R174) -/

/-- With an entry free and no overrun pending, a placed answer joins the output queue at once. -/
theorem answer_place {s : State} (ho : s.con.overrun = none) (rec : ConRecord) (r : Response) :
    s.answer rec (.place r) = { s with con := s.con.answered rec r } := by
  unfold State.answer conStep State.outFree Con.answered
  by_cases hout : s.con.out.length < 16
  · simp [State.setCon, hout, ho, State.emit, Config.outCap]
  · simp [State.setCon, hout, ho, Config.outCap]

theorem conStep_full {s : State} (h : 16 ≤ s.con.out.length) : conStep s = none :=
  if_pos (by simp [State.outFree, Config.outCap, Nat.not_lt.2 h])

theorem conStep_none {s : State} (ho : s.con.overrun = none) (hc : s.con.complete = none) : conStep s = none := by
  simp [conStep, ho, hc]

section
variable {s : State} (hout : s.con.out.length < 16)
include hout

theorem conStep_overrun {kind : Byte} (ho : s.con.overrun = some kind) :
    conStep s = some { s with con := { s.con with overrun := none, out := s.con.out ++ [.refuse kind .overrun] } } := by
  simp [conStep, State.outFree, Config.outCap, hout, ho, State.setCon, State.emit]

theorem conStep_place {rec : ConRecord} {r : Response} (ho : s.con.overrun = none) (hc : s.con.complete = some ⟨rec, .place r⟩) :
    conStep s = some { s with con := { s.con with complete := none, out := s.con.out ++ [r] } } := by
  simp [conStep, State.outFree, Config.outCap, hout, ho, hc, State.setCon, State.emit]

theorem conStep_report {rec : ConRecord} (ho : s.con.overrun = none) (hc : s.con.complete = some ⟨rec, .report⟩) :
    conStep s = some { s with
      con := { s.con with complete := none, out := s.con.out ++ [.statusReport (assembleStatus s)] }, freeSeq := s.freeSeq + 2 } := by
  simp [conStep, State.outFree, Config.outCap, hout, ho, hc, State.setCon, State.emit]

end

/-! ### STATUS-REPORT (R174) -/

theorem sending_false {s : State} (h : ∀ e ∈ s.bus.queue, e.onLine = false) : s.sending = false := by
  unfold State.sending
  rw [onLinePlace_none h]
  rfl

theorem assembleStatus_reports (s : State) : s.Reports (assembleStatus s) := by
  refine ⟨rfl, fun h => ?_⟩
  have hs := sending_false h
  refine ⟨by simp [assembleStatus, State.drivenNow, hs], fun hr hrx => ?_⟩
  simp [assembleStatus, State.observedNow, State.lineRests, hs, hr, hrx]

end Sys2Proof.Machine

/-! PROOFS. The requests that CON serves, and the records that CON and REQ place (chapters 9 to 11). -/

namespace Sys2Proof.Machine

/-! ### The requests that CON serves (R125, R126, R174, R175) -/

/-- The answer of a record that found the buffer free is placed, and the buffer is free again. -/
theorem Con.freed {c : Con} (h : c.complete = none) (out : List Response) : { c with complete := none, out } = { c with out } := by
  rw [← h]

section
variable {s : State} (hl : s.linkRuns = true) (ha : s.con.assembler = none) (hc : s.con.complete = none)
include hl ha hc

theorem exec_status : exec .status s = commit s (some (s.answer (.request .status) .report)) := by
  refine (requestArrives_taken hl ha hc (q := .status) rfl).trans ?_
  exact congrArg (fun u => commit s (some u)) (if_pos rfl)

theorem exec_clearFault : exec .clearFault s = commit s (some (takeRequestRecord .clearFault s)) :=
  requestArrives_taken hl ha hc (q := .clearFault) rfl

theorem exec_setTime (clock : BitVec 48) :
    exec (.setTime clock) s = commit s (some (takeRequestRecord (.setTime clock.toNat) s)) :=
  requestArrives_taken hl ha hc (q := .setTime clock.toNat) (by
    exact decide_eq_true (Nat.le_of_lt_succ clock.isLt))

end

/-- A request of a part that does not run (R172 row 5). -/
theorem takeRequestRecord_notRunning {s : State} (hr : s.running = false) (ho : s.con.overrun = none) {q : Request}
    (hq : q ≠ .status) : takeRequestRecord q s = { s with con := s.con.answered (.request q) (.refuse q.kind .notRunning) } := by
  unfold takeRequestRecord
  rw [if_neg hq, hr]
  exact answer_place ho ..

theorem answer_report {s : State} (ho : s.con.overrun = none) (hc : s.con.complete = none) (rec : ConRecord) :
    (s.con.out.length < 16 → s.answer rec .report = { s with
      con := { s.con with out := s.con.out ++ [.statusReport (assembleStatus s)] }, freeSeq := s.freeSeq + 2 }) ∧
    (16 ≤ s.con.out.length → s.answer rec .report = { s with con := { s.con with complete := some ⟨rec, .report⟩ } }) := by
  let held : State := { s with con := { s.con with complete := some ⟨rec, .report⟩ } }
  have hanswer : s.answer rec .report = (conStep held).getD held := rfl
  refine ⟨fun hout => ?_, fun hout => ?_⟩
  · rw [hanswer, conStep_report (s := held) hout ho rfl, ← Con.freed hc]
    rfl
  · rw [hanswer, conStep_full (s := held) hout]
    rfl

/-- SET-TIME at the time source (R125, R126). -/
theorem setClock_zero (s : State) : setClock 0 s = { s with ros := { s.ros with clock := 0, timeTimer := 0 } } := if_pos rfl

theorem setClock_muted {s : State} {n : Nat} (h : n ≠ 0) (hm : s.bus.muted = true) :
    setClock n s = { s with ros := { s.ros with clock := n, timeTimer := 0 } } :=
  (if_neg h).trans (sendTime_muted (s := { s with ros := { s.ros with clock := n } }) hm)

theorem setClock_sends {s : State} {n : Nat} (h : n ≠ 0) (hm : s.bus.muted = false) : setClock n s = { s with
    ros := { s.ros with clock := n, timeTimer := 0 }
    bus := { (s.withdraw fun o => o == .rosTime).bus with
      waiting := (s.withdraw fun o => o == .rosTime).bus.waiting ++
        [⟨⟨.time, 63, 0, beBytes 6 n⟩, .rosTime, 0, 0, false, false⟩] } } :=
  (if_neg h).trans ((if_neg (by simp [hm])).trans rfl)

theorem placeDone_eq {s : State} (ho : s.con.overrun = none) (q : Request) :
    placeDone q s = { s with con := s.con.answered (.request q) (.done q.kind) } := answer_place ho ..

section
variable {s : State} (ho : s.con.overrun = none) (clock : Nat)
include ho

theorem takeSetTime_source (hsrc : s.settings.timeSource = true) : takeSetTime clock s = { setClock clock s with
    con := s.con.answered (.request (.setTime clock)) (.done 7) } := by
  have hcon : (setClock clock s).con = s.con := by
    unfold setClock sendTime
    split
    · rfl
    · simp only
      split <;> rfl
  unfold takeSetTime
  rw [if_pos hsrc, placeDone_eq (by rw [hcon]; exact ho), hcon]
  rfl

theorem takeSetTime_elsewhere (hsrc : s.settings.timeSource = false) : takeSetTime clock s = { s with
    con := s.con.answered (.request (.setTime clock)) (.refuse 7 .notTimeSource) } := by
  unfold takeSetTime
  rw [if_neg (by simp [hsrc])]
  exact answer_place ho ..

end

/-! ### REQ's records (R132, R133, R152, R153, R162, R166, R168) -/

/-- REQ's next record joins where an entry is free and CON wants none. -/
theorem emitStep_free {s : State} (hout : s.con.out.length < 16) (ho : s.con.overrun = none) (hc : s.con.complete = none) :
    emitStep s = (nextRecord s.req).map fun x => { s with req := x.2, con := { s.con with out := s.con.out ++ [x.1] } } := by
  unfold emitStep State.outFree
  rw [if_pos (by simp [hout, ho, hc, Config.outCap])]
  rfl

theorem emitStep_held {s : State} (h : 16 ≤ s.con.out.length ∨ s.con.overrun.isSome ∨ s.con.complete.isSome) : emitStep s = none := by
  refine if_neg ?_
  simp only [State.outFree, Bool.and_eq_true, Option.isNone_iff_eq_none]
  rintro ⟨⟨hout, ho⟩, hc⟩
  have hout : s.con.out.length < 16 := of_decide_eq_true hout
  rcases h with h | h | h
  · omega
  · simp [ho] at h
  · simp [hc] at h

section
variable {r : Req}

theorem nextTrace_accept (h : r.acceptDue = true) : nextTrace r =
    some (.accept r.play.points r.play.depth r.play.bound (decide (r.play.bound < r.play.b)), { r with acceptDue := false }) := if_pos h

variable (hd : r.acceptDue = false)
include hd

theorem nextTrace_aborted (h : r.aborting = true) : nextTrace r = some (.playbackEnd true r.counts, r.idled) := by
  simp [nextTrace, hd, h]

variable (hab : r.aborting = false)
include hab

theorem nextTrace_end (h : r.play.depth < r.emitDepth) : nextTrace r = some (.playbackEnd false r.counts, r.idled) := by
  simp [nextTrace, hd, hab, h]

variable (hle : r.emitDepth ≤ r.play.depth)
include hle

theorem nextTrace_unplanned (h : r.depths[r.emitDepth]? = none) : nextTrace r = none := by
  simp only [nextTrace, hd, hab, Nat.not_lt.2 hle, h, Bool.false_eq_true, if_false]

variable {t : DepthTable} (ht : r.depths[r.emitDepth]? = some t)
include ht

theorem nextTrace_absent (h : t.results[r.emitIndex]? = some none) : nextTrace r = none := by
  simp only [nextTrace, hd, hab, Nat.not_lt.2 hle, ht, h, Bool.false_eq_true, if_false]

theorem nextTrace_point {x : Result} (h : t.results[r.emitIndex]? = some (some x)) :
    nextTrace r = some (.tracePoint r.emitDepth r.emitIndex x,
      { r with emitIndex := r.emitIndex + 1, counts := r.counts.modify r.emitDepth (· + 1) }) := by
  simp only [nextTrace, hd, hab, Nat.not_lt.2 hle, ht, h, Bool.false_eq_true, if_false]

theorem nextTrace_depthEnd (h : t.results.length ≤ r.emitIndex) :
    nextTrace r = some (traceEnd r.emitDepth t, { r with emitDepth := r.emitDepth + 1, emitIndex := 0 }) := by
  simp only [nextTrace, hd, hab, Nat.not_lt.2 hle, ht, List.getElem?_eq_none h, Bool.false_eq_true, if_false]

end

/-- The results with data of a depth, counted (R153). -/
theorem traceEnd_eq (depth : Nat) (t : DepthTable) : traceEnd depth t =
    let data := t.results.countP fun x => match x with
      | some y => y.outcome.isNone && !y.expired
      | none => false
    .traceEnd depth data (t.results.length - data) := by
  have hp : (fun x : Option Result => (x.map Result.hasData).getD false) = fun x => match x with
      | some y => y.outcome.isNone && !y.expired
      | none => false := by
    funext x
    cases x <;> rfl
  simp only [traceEnd, hp, List.countP_eq_length_filter]

section
variable {r : Req}

theorem nextGen_aborted (h : r.aborting = true) : nextGen r = some (.genEnd .aborted r.emitted r.walk.dropped, r.idled) := if_pos h

variable (hab : r.aborting = false)
include hab

theorem nextGen_place {p : Place} (h : r.walk.places[r.emitted]? = some p) :
    nextGen r = p.entry.map fun e => (.genEntry e, { r with emitted := r.emitted + 1 }) := by
  simp only [nextGen, hab, h, Bool.false_eq_true, if_false]

theorem nextGen_wait (h : r.walk.places.length ≤ r.emitted)
    (hdue : r.walk.expanded < r.walk.places.length ∨ r.collector.state ≠ .idle) : nextGen r = none := by
  simp only [nextGen, hab, List.getElem?_eq_none h, Bool.false_eq_true, if_false]
  refine if_neg fun ⟨hexp, hcol⟩ => ?_
  rcases hdue with hdue | hdue
  · omega
  · exact hdue hcol

theorem nextGen_end (h : r.walk.places.length ≤ r.emitted) (hexp : r.walk.places.length ≤ r.walk.expanded)
    (hcol : r.collector.state = .idle) : nextGen r =
      some (.genEnd (if r.walk.truncated then .truncated else .complete) r.emitted r.walk.dropped, r.idled) := by
  simp only [nextGen, hab, List.getElem?_eq_none h, Bool.false_eq_true, if_false]
  exact if_pos ⟨hexp, hcol⟩

theorem nextList_entry {x : ExitRec} (h : r.listing[r.emitted]? = some x) :
    nextList r = some (.listEntry x, { r with emitted := r.emitted + 1 }) := by
  simp only [nextList, hab, h, Bool.false_eq_true, if_false]

theorem nextList_end (h : r.listing.length ≤ r.emitted) : nextList r = some (.listEnd false r.emitted, r.idled) := by
  simp only [nextList, hab, List.getElem?_eq_none h, Bool.false_eq_true, if_false]

end

theorem nextRecord_resolving {r : Req} (h : r.engine = .resolving) :
    nextRecord r = r.refusal.map fun why => (.refuse 0x01 why, r.idled) := by
  unfold nextRecord
  rw [h]

theorem nextRecord_playing {r : Req} (h : r.engine = .playing) : nextRecord r = nextTrace r := by
  unfold nextRecord
  rw [h]

theorem nextRecord_walking {r : Req} (h : r.engine = .walkingUp ∨ r.engine = .walkingDown) : nextRecord r = nextGen r := by
  unfold nextRecord
  rcases h with h | h <;> rw [h]

theorem nextRecord_listing {r : Req} (h : r.engine = .listing) : nextRecord r = nextList r := by
  unfold nextRecord
  rw [h]

/-- CON's requests: STATUS, CLEAR-FAULT, SET-TIME and ABORT without a request in hand (R125, R126, R174, R175). -/
theorem conServes (s : State) :
    let next (c : Instr) (u : State) : Prop := ∃ t, exec c s = .next t ∧ Carried u t
    s.con.assembler = none → s.con.complete = none → s.con.overrun = none → s.receives = true →
      next .clearFault { s with
        con := s.con.answered (.request .clearFault) (.done 6)
        sup := { s.sup with fault := none, faultCount := 0, markBad := false, markService := false, markLf := false } } ∧
      (s.req.engine = .idle → next .abort { s with con := s.con.answered (.request .abort) (.done 5) }) ∧
      ∀ clock : BitVec 48,
        ∃ t, exec (.setTime clock) s = .next t ∧ Carried (takeSetTime clock.toNat s) t := by
  intro next ha hc ho hr
  have hl := State.linkRuns_of_receives hr
  have hrun := State.running_of_receives hr
  refine ⟨?_, fun he => ?_, fun clock => ?_⟩
  · change ∃ t, _
    rw [exec_clearFault hl ha hc, takeRequestRecord_running hrun (by simp)]
    exact commit_of_eq (congrArg some (placeDone_eq (s := { s with sup := s.sup.clearFaults }) ho .clearFault))
  · change ∃ t, _
    rw [exec_abort hr ha hc]
    exact commit_of_eq (congrArg some ((if_pos he).trans (placeDone_eq ho .abort)))
  · rw [exec_setTime hl ha hc, takeRequestRecord_running hrun (by simp)]
    exact commit_of_eq rfl

/-- Settles O53: CON's requests, CON's own record, and REQ's records state by state of the engine. -/
theorem consoleRequestsServed : Obligations.ConsoleRequestsServed := by
  refine ⟨?_, ?_, ?_⟩
  · intro s next
    refine ⟨fun hne => ?_, fun ha hc ho => ⟨fun hl hout => ?_, fun hl hout => ?_, fun hr => ?_⟩, fun hl hrun ha hc ho => ⟨?_, ?_⟩⟩
    · exact commit_of_eq (if_neg (by simpa using hne))
    · refine ⟨assembleStatus s, ?_, assembleStatus_reports s⟩
      change ∃ t, _
      rw [exec_status hl ha hc]
      exact commit_of_eq (congrArg some ((answer_report ho hc _).1 hout))
    · change ∃ t, _
      rw [exec_status hl ha hc]
      exact commit_of_eq (congrArg some ((answer_report ho hc _).2 hout))
    · obtain ⟨hclear, habort, htime⟩ := conServes s ha hc ho hr
      refine ⟨hclear, habort, ?_⟩
      intro clock answered
      have hset : ∀ u, takeSetTime clock.toNat s = u → next (.setTime clock) u := fun u hu => hu ▸ htime clock
      have hpos : clock ≠ 0 → clock.toNat ≠ 0 := fun h h0 => h (BitVec.eq_of_toNat_eq h0)
      refine ⟨fun hsrc => hset _ (takeSetTime_elsewhere ho _ hsrc), fun hsrc h0 => hset _ ?_, fun hsrc h0 hm => hset _ ?_,
        fun hsrc h0 hm => hset _ ?_⟩
      · subst h0
        exact (takeSetTime_source ho _ hsrc).trans (congrArg (fun u : State => { u with con := answered (.done 7) }) (setClock_zero s))
      · rw [takeSetTime_source ho _ hsrc, setClock_muted (hpos h0) hm]
      · rw [takeSetTime_source ho _ hsrc, setClock_sends (hpos h0) hm]
    · change ∃ t, _
      rw [exec_clearFault hl ha hc]
      exact commit_of_eq (congrArg some (takeRequestRecord_notRunning hrun ho (by simp)))
    · change ∃ t, exec .abort s = _ ∧ _
      rw [show exec .abort s = _ from requestArrives_taken hl ha hc (q := .abort) rfl]
      exact commit_of_eq (congrArg some (takeRequestRecord_notRunning hrun ho (by simp)))
  · intro s
    refine ⟨fun h => h.elim conStep_full fun ⟨ho, hc⟩ => conStep_none ho hc,
      fun hout => ⟨fun kind ho => conStep_overrun hout ho, fun rec r ho hc => conStep_place hout ho hc, fun rec ho hc =>
        ⟨assembleStatus s, assembleStatus_reports s, conStep_report hout ho hc⟩⟩⟩
  · intro s r idle
    refine ⟨emitStep_held, ?_⟩
    intro hout ho hc emits
    have hemit : ∀ {x after}, nextRecord r = some (x, after) → emits x after := fun h => by
      change emitStep s = _
      rw [emitStep_free hout ho hc, h]
      rfl
    have hnone : nextRecord r = none → emitStep s = none := fun h => by
      rw [emitStep_free hout ho hc, h]
      rfl
    refine ⟨fun he => ?_, fun he => ?_, fun he => ?_, fun he => ?_, fun he => ?_⟩
    · exact hnone (by unfold nextRecord; rw [he])
    · have hn := nextRecord_resolving he
      exact ⟨fun h => hnone (by rw [hn, h]; rfl), fun why h => hemit (by rw [hn, h]; rfl)⟩
    · have hn := nextRecord_playing he
      refine ⟨fun hd => hemit (hn.trans (nextTrace_accept hd)), fun hd hab => hemit (hn.trans (nextTrace_aborted hd hab)),
        fun hd hab => ⟨fun h => hemit (hn.trans (nextTrace_end hd hab h)),
          fun hle h => hnone (hn.trans (nextTrace_unplanned hd hab hle h)), fun t hle ht =>
          ⟨fun h => hnone (hn.trans (nextTrace_absent hd hab hle ht h)),
            fun x h => hemit (hn.trans (nextTrace_point hd hab hle ht h)), ?_⟩⟩⟩
      intro h data
      exact hemit ((hn.trans (nextTrace_depthEnd hd hab hle ht h)).trans (congrArg (fun x => some (x, _)) (traceEnd_eq _ t)))
    · have hn := nextRecord_walking he
      refine ⟨fun hab => hemit (hn.trans (nextGen_aborted hab)), fun hab => ⟨?_, fun h =>
        ⟨fun hdue => hnone (hn.trans (nextGen_wait hab h hdue)),
          fun hexp hcol => hemit (hn.trans (nextGen_end hab h hexp hcol))⟩⟩⟩
      intro p hp entry
      have hplace := hn.trans (nextGen_place hab hp)
      obtain ⟨coil, depth, parent, link, o⟩ := p
      cases o with
      | looking => exact hnone hplace
      | record y => exact hemit hplace
      | pending length close stop lane => exact hemit hplace
      | unknown => exact hemit hplace
      | unreachable => exact hemit hplace
      | origin => exact hemit hplace
      | child lane length pending => exact hemit hplace
      | root => exact hemit hplace
    · have hn := nextRecord_listing he
      exact ⟨fun hab => hemit (hn.trans (if_pos hab)), fun hab => ⟨fun x h => hemit (hn.trans (nextList_entry hab h)),
        fun h => hemit (hn.trans (nextList_end hab h))⟩⟩

end Sys2Proof.Machine

/-! PROOFS. A LINEAGE-REPLY reaches the lineage-query slot it matches (R101, R131, R132, R136, R160). -/

namespace Sys2Proof.Machine

/-- A reply ends the lineage query of its slot (R101, R131). -/
theorem queryReply_ends {s : State} {source : BitVec 6} {tag : Byte} {b : QueryBusy}
    (hslot : s.req.queries[tag.toNat / 4 % 16]? = some ⟨BitVec.ofNat 2 (tag.toNat % 4), some b⟩) (hst : b.coil.station = source)
    (a : LineageAnswer) : queryReply source tag a s = settleQuery b (answerOutcome s.settings.station source b.coil a) { s with
      bus := (s.withdraw fun o => o == .reqQuery (tag.toNat / 4 % 16)).bus
      req := { s.req with
        queries := s.req.queries.set (tag.toNat / 4 % 16) ⟨BitVec.ofNat 2 (tag.toNat % 4), none⟩ } } := by
  have hslot' : s.req.queries[tagSlot tag]? = some ⟨tagGen tag, some b⟩ := hslot
  unfold queryReply
  rw [hslot']
  exact if_pos ⟨rfl, hst⟩

/-- A reply that matches no busy slot has no effect on the slots (R101). -/
theorem queryReply_passed {s : State} {source : BitVec 6} {tag : Byte}
    (h : ∀ b, s.req.queries[tag.toNat / 4 % 16]? = some ⟨BitVec.ofNat 2 (tag.toNat % 4), some b⟩ → b.coil.station ≠ source)
    (a : LineageAnswer) : queryReply source tag a s = s := by
  unfold queryReply
  split
  · rename_i gen b hslot
    refine if_neg ?_
    rintro ⟨rfl, hst⟩
    exact h b hslot hst
  · rfl

/-- The state of a listed LOOKING coil is set (R136). -/
theorem map_looking (c : Coil) (o : RecState) (l : List (Coil × RecState)) :
    (l.map fun x => if x.1 = c ∧ x.2 = .looking then (x.1, o) else x) = l.map fun x => if x = (c, .looking) then (c, o) else x := by
  refine List.map_congr_left fun x _ => ?_
  by_cases hx : x = (c, .looking)
  · rw [if_pos hx, if_pos (by rw [hx]; exact ⟨rfl, rfl⟩), hx]
  · rw [if_neg hx, if_neg fun h => hx (Prod.ext h.1 h.2)]

section
variable {b : QueryBusy} (o : QueryOutcome) (s : State)

theorem settleQuery_resolution (h : b.serves = .resolution) : settleQuery b o s = resolveWith o s := by
  unfold settleQuery
  rw [h]

theorem settleQuery_coilList (h : b.serves = .coilList) : settleQuery b o s = { s with
    req := { s.req with plan := s.req.plan.map fun p =>
      { p with coils := p.coils.map fun x => if x = (b.coil, .looking) then (b.coil, o.recState) else x } } } := by
  unfold settleQuery
  rw [h]
  simp only [map_looking]
  rfl

theorem settleQuery_place (h : b.serves = .place) : settleQuery b o s = { s with
    req := { s.req with walk := { s.req.walk with places := s.req.walk.places.map fun p =>
      if p.coil = b.coil ∧ p.outcome = .looking then { p with outcome := o.place } else p } } } := by
  unfold settleQuery
  rw [h]
  rfl

end

/-- What a record, PENDING, UNKNOWN or NOT-MINE says of the coil asked for (R131). -/
theorem answerOutcome_had {own source : BitVec 6} {c : Coil} {r : LineageRec} (hc : r.coil = c) (hp : r.passes own source = true) :
    answerOutcome own source c (.record r) = .had r := if_pos ⟨hc, hp⟩

theorem answerOutcome_other {own source : BitVec 6} {c : Coil} {r : LineageRec} (h : r.coil ≠ c ∨ r.passes own source = false) :
    answerOutcome own source c (.record r) = .unknown := by
  refine if_neg ?_
  rintro ⟨hc, hp⟩
  rcases h with h | h
  · exact h hc
  · rw [h] at hp
    cases hp

/-- Settles O49: the query that the reply ends, by what the reply says and what the slot serves, or the reply passed. -/
theorem lineageReplyToRequest : Obligations.LineageReplyToRequest := by
  intro s source dest tag payload a hr hwf h0 h63 hdest ha hunit passes heard gen i
  have hcache : { s.heardFrom source with lch := { s.lch with cache := s.replyCache source a } } = heard := by
    cases a <;> rfl
  rw [exec_lineageReply hwf h0 h63 hdest ha, hcache]
  have hone : ∀ u v, queryReply source tag a heard = u →
      ∃ t, whenReceiving s (if tag.toNat / 64 = 1 then queryReply source tag a heard else v) = .next t ∧ Carried u t :=
    fun u v hu => receiving_of_eq hr ((if_pos hunit).trans hu)
  refine ⟨?_, fun h => hone _ _ (queryReply_passed (s := heard) h a)⟩
  intro b hslot hst idle listed placed next
  have hends : ∀ o, answerOutcome s.settings.station source b.coil a = o → ∀ u, settleQuery b o idle = u → next u :=
    fun o ho u hu => hone _ _ ((queryReply_ends (s := heard) hslot hst a).trans (ho ▸ hu))
  refine ⟨?_, ?_, ?_⟩
  · intro r hrec hcoil hpass
    have ho : answerOutcome s.settings.station source b.coil a = .had r := hrec ▸ answerOutcome_had hcoil hpass
    exact ⟨fun hs => hends _ ho _ (settleQuery_resolution _ idle hs), fun hs => hends _ ho _ (settleQuery_coilList _ idle hs),
      fun hs => hends _ ho _ (settleQuery_place _ idle hs)⟩
  · intro c len close hpend
    have ho : answerOutcome s.settings.station source b.coil a = .pending len close := hpend ▸ rfl
    exact ⟨fun hs => hends _ ho _ (settleQuery_resolution _ idle hs), fun hs => hends _ ho _ (settleQuery_coilList _ idle hs),
      fun hs => hends _ ho _ (settleQuery_place _ idle hs)⟩
  · intro h
    have ho : answerOutcome s.settings.station source b.coil a = .unknown := by
      rcases h with ⟨c, h | h⟩ | ⟨r, h, hne⟩
      · rw [h]; rfl
      · rw [h]; rfl
      · rw [h]; exact answerOutcome_other hne
    exact ⟨fun hs => hends _ ho _ (settleQuery_resolution _ idle hs), fun hs => hends _ ho _ (settleQuery_coilList _ idle hs),
      fun hs => hends _ ho _ (settleQuery_place _ idle hs)⟩

end Sys2Proof.Machine

/-! PROOFS. The fetch window: slots given and begun, the local evaluator, and a SAMPLE-REPLY (R101, R144 to R150). -/

namespace Sys2Proof.Machine

/-- A fetch slot that ends with a result (R148, R149, R150). -/
theorem endFetch_eq (i : Nat) (gen : BitVec 2) (g : Group) (make : Nat → Attr → Result) (s : State) :
    endFetch i gen g make s = { s with
      bus := (s.withdraw fun o => o == .reqFetch i).bus
      req := { s.req with
        fetches := s.req.fetches.set i ⟨gen, none⟩
        depths := s.req.depths.modify g.depth fun t => t.fill g.first make g.count } } := rfl

/-! ### A SAMPLE-REPLY (R101, R149) -/

theorem exec_sampleReply {s : State} {source dest : BitVec 6} {tag : Byte} {payload : List Byte} {x : FetchResult}
    (hwf : (Instr.sampleReply source dest tag payload).wf = true) (h0 : source ≠ 0) (h63 : source ≠ 63)
    (hdest : dest = s.settings.station ∨ dest = 63) (hx : parseFetchResult payload = some x) :
    exec (.sampleReply source dest tag payload) s = whenReceiving s (fetchReply source tag x (s.heardFrom source)) := by
  change whenReceiving s (frameArrives (some .sampleReply) source dest tag payload s) = _
  rw [frameArrives_wf hwf, receiveFrame_dispatch h0 h63 (.inr (by simp)) hdest]
  simp only [dispatch, hx]

/-- A reply ends the fetch of its slot. -/
theorem fetchReply_ends {s : State} {source : BitVec 6} {tag : Byte} {b : FetchBusy} (hunit : tag.toNat / 64 = 0)
    (hslot : s.req.fetches[tag.toNat / 4 % 16]? = some ⟨BitVec.ofNat 2 (tag.toNat % 4), some b⟩) (hremote : b.isLocal = false)
    (hst : b.group.coil.station = source) (x : FetchResult) : fetchReply source tag x s =
      endFetch (tag.toNat / 4 % 16) (BitVec.ofNat 2 (tag.toNat % 4)) b.group (resultOf b.group.count x) s := by
  have hslot' : s.req.fetches[tagSlot tag]? = some ⟨tagGen tag, some b⟩ := hslot
  unfold fetchReply
  rw [hslot']
  exact if_pos ⟨hunit, rfl, by simp [hremote], hst⟩

/-- A reply that matches no busy REMOTE slot has no effect on the slots (R101). -/
theorem fetchReply_passed {s : State} {source : BitVec 6} {tag : Byte} (h : tag.toNat / 64 ≠ 0 ∨
    ∀ b, s.req.fetches[tag.toNat / 4 % 16]? = some ⟨BitVec.ofNat 2 (tag.toNat % 4), some b⟩ →
      b.isLocal = true ∨ b.group.coil.station ≠ source) (x : FetchResult) : fetchReply source tag x s = s := by
  unfold fetchReply
  split
  · rename_i gen b hslot
    refine if_neg ?_
    rintro ⟨hunit, rfl, hremote, hst⟩
    rcases h with h | h
    · exact h hunit
    · rcases h b hslot with hl | hne
      · simp [hl] at hremote
      · exact hne hst
  · rfl

/-! ### The next slot in rotation (R144, R145) -/

theorem nextFetchSlot_first {r : Req} {n : Nat} {gen : BitVec 2} (hn : n < 16)
    (hidle : r.fetches[(r.lastGiven + 1 + n) % 16]? = some ⟨gen, none⟩)
    (hbefore : ∀ k < n, ∀ x, r.fetches[(r.lastGiven + 1 + k) % 16]? = some x → x.busy.isSome) :
    nextFetchSlot r = some ((r.lastGiven + 1 + n) % 16) := by
  unfold nextFetchSlot
  rw [List.find?_eq_some_iff_getElem]
  refine ⟨by simp [hidle], n, by simpa using hn, by simp, fun k hk => ?_⟩
  rw [List.getElem_map, List.getElem_range]
  cases hx : r.fetches[(r.lastGiven + 1 + k) % 16]? with
  | none => rfl
  | some x =>
    obtain ⟨b, hb⟩ := Option.isSome_iff_exists.1 (hbefore k hk x hx)
    simp [hb]

theorem nextFetchSlot_none {r : Req} (h : ∀ x ∈ r.fetches, x.busy.isSome) : nextFetchSlot r = none := by
  unfold nextFetchSlot
  rw [List.find?_eq_none]
  intro i _ hi
  cases hx : r.fetches[i]? with
  | none => simp [hx] at hi
  | some x =>
    obtain ⟨b, hb⟩ := Option.isSome_iff_exists.1 (h x (List.mem_of_getElem? hx))
    simp [hx, hb] at hi

section
variable {s : State} {g : Group} {rest : List Group} {i : Nat} {gen : BitVec 2} (hissue : s.req.issue = g :: rest)
  (hnext : nextFetchSlot s.req = some i) (hidle : s.req.fetches[i]? = some ⟨gen, none⟩)
include hissue hnext hidle

/-- A slot given to a group of the own station joins the local evaluator's order (R146). -/
theorem assignStep_local (hst : g.coil.station = s.settings.station) : assignStep s = some { s with
    req := { s.req with
      issue := rest, lastGiven := i, fetches := s.req.fetches.set i ⟨gen + 1, some ⟨g, true, 0, false, none⟩⟩
      localOrder := s.req.localOrder ++ [i] } } := by
  have hl : (g.coil.station == s.settings.station) = true := beq_iff_eq.2 hst
  simp only [assignStep, hissue, hnext, hidle, hl, if_true]
  rfl

/-- A slot given to a group of another station offers its first attempt, which MUTED refuses (R98, R147). -/
theorem assignStep_remote (hst : g.coil.station ≠ s.settings.station) : assignStep s =
    let given : State := { s with req := { s.req with
      issue := rest, lastGiven := i, fetches := s.req.fetches.set i ⟨gen + 1, some ⟨g, false, 1, false, none⟩⟩ } }
    if s.bus.muted then some (failFetch i true given)
    else some (given.offer (fetchFrame given.req i (gen + 1) g) (.reqFetch i)) := by
  have hl : (g.coil.station == s.settings.station) = false := beq_eq_false_iff_ne.2 hst
  simp only [assignStep, hissue, hnext, hidle, hl, Bool.false_eq_true, if_false]
  rfl

end

theorem assignStep_none {s : State} (h : s.req.issue = [] ∨ ∀ x ∈ s.req.fetches, x.busy.isSome) : assignStep s = none := by
  unfold assignStep
  rcases h with h | h
  · rw [h]
  · rw [nextFetchSlot_none h]
    cases s.req.issue <;> rfl

/-! ### The local evaluator (R116, R146) -/

section
variable {s : State} {i : Nat} {rest : List Nat} {gen : BitVec 2} {b : FetchBusy} (hidle : s.req.localEval = .idle)
  (horder : s.req.localOrder = i :: rest) (hslot : s.req.fetches[i]? = some ⟨gen, some b⟩)
include hidle horder hslot

theorem localStep_go {ev : Eval} (h : startEval s (fetchOf s.req b.group) = .go ev) :
    localStep s = some { s with req := { s.req with localOrder := rest, localEval := .running i ev } } := by
  unfold localStep
  rw [hidle, horder]
  change (match s.req.fetches[i]? with | some ⟨_, some b⟩ => _ | _ => _) = _
  rw [hslot]
  change (match startEval s (fetchOf s.req b.group) with | .stop st => _ | .go ev => _) = _
  rw [h]
  rfl

theorem localStep_stop {st : FetchStatus} (h : startEval s (fetchOf s.req b.group) = .stop st) :
    localStep s = some (endFetch i gen b.group (resultOf b.group.count (.stopped st))
      { s with req := { s.req with localOrder := rest, localEval := .idle } }) := by
  unfold localStep
  rw [hidle, horder]
  change (match s.req.fetches[i]? with | some ⟨_, some b⟩ => _ | _ => _) = _
  rw [hslot]
  change (match startEval s (fetchOf s.req b.group) with | .stop st => _ | .go ev => _) = _
  rw [h]
  unfold endLocal
  change some (match s.req.fetches[i]? with | some ⟨_, some b⟩ => _ | _ => _) = _
  rw [hslot]
  rfl

end

/-- Settles O48: the reply, the slots given, and the local evaluator. -/
theorem sampleReplyTaken : Obligations.SampleReplyTaken := by
  refine ⟨?_, fun s => ⟨?_, assignStep_none, ?_⟩⟩
  · intro s source dest tag payload x hr hwf h0 h63 hdest hx heard gen i
    rw [exec_sampleReply hwf h0 h63 hdest hx]
    refine ⟨fun b hunit hslot hremote hst => ?_, fun h => receiving_of_eq hr (fetchReply_passed (s := heard) h x)⟩
    obtain ⟨t, ht, hc⟩ := receiving_of_eq hr (fetchReply_ends (s := heard) hunit hslot hremote hst x)
    exact ⟨_, t, ht, hc, rfl, groupFilled_resultOf s.req.depths b.group x⟩
  · intro g rest n gen hissue hn i hidle hbefore given
    have hnext := nextFetchSlot_first hn hidle hbefore
    refine ⟨fun hst => assignStep_local hissue hnext hidle hst, fun hst hm => ?_, fun hst hm => ?_⟩
    · rw [assignStep_remote hissue hnext hidle hst]
      refine (if_neg (by simp [hm])).trans (congrArg some ?_)
      simp only [fetchFrame, makeTag, Nat.zero_mul, Nat.zero_add]
      rfl
    · rw [assignStep_remote hissue hnext hidle hst]
      obtain ⟨depths, hfail, hfill⟩ := failFetch_lost (s := { s with req := given ⟨g, false, 1, false, none⟩ }) (i := i)
        (gen := gen + 1) (b := ⟨g, false, 1, false, none⟩)
        (List.getElem?_set_self (List.getElem?_eq_some_iff.1 hidle).1) (.inr hm)
      refine ⟨depths, (if_pos hm).trans (congrArg some (hfail.trans ?_)), ?_⟩
      · simp only [given, List.set_set]
        rfl
      · rw [if_pos hm] at hfill
        exact hfill
  · intro i rest gen b hidle horder hslot fetch
    refine ⟨fun ev h => localStep_go hidle horder hslot h, fun st hne h => ⟨_, localStep_stop hidle horder hslot h, rfl, ?_⟩⟩
    have hfill := groupFilled_resultOf s.req.depths b.group (.stopped st)
    rw [if_neg fun h => hne h.1] at hfill
    exact hfill

end Sys2Proof.Machine

/-! PROOFS. Fetch groups of a depth (R140, R141). -/

namespace Sys2Proof.Machine

/-- An entry is traced. -/
def Attr.isTraced : Attr → Bool
  | .traced .. => true
  | .ended .. => false

/-- The grid indices of a group. -/
def Group.places (g : Group) : List Nat := List.range' g.first g.count

/-- Group `g` of a depth with attribution `all` is a run of entries that follow one another (R140, R141). -/
structure Group.Run (depth : Nat) (all : List Attr) (g : Group) : Prop where
  pos   : 1 ≤ g.count
  cap   : g.count ≤ 14
  depth : g.depth = depth
  fresh : g.allowed = 0
  head  : ∃ tb sp un br sh, all[g.first]? = some (.traced g.coil g.posFrom tb sp un br sh)
  last  : ∃ ta sp un br sh, all[g.first + g.count - 1]? = some (.traced g.coil ta g.posTo sp un br sh)
  coil  : ∀ i, g.first ≤ i → i < g.first + g.count → ∃ ta tb sp un br sh, all[i]? = some (.traced g.coil ta tb sp un br sh)
  links : ∀ i a b, g.first ≤ i → i + 1 < g.first + g.count → all[i]? = some a → all[i + 1]? = some b → a.follows b = true

/-- The group ends where the next entry does not follow, or with 14 entries (R141). -/
def Group.Closed (all : List Attr) (g : Group) : Prop :=
  g.count < 14 → ∀ a b, all[g.first + g.count - 1]? = some a → all[g.first + g.count]? = some b → a.follows b = false

theorem Attr.follows_iff {c c' : Coil} {ta t t' tb : Nat} {sp un br sh sp' un' br' sh' : Bool} :
    (Attr.traced c ta t sp un br sh).follows (.traced c' t' tb sp' un' br' sh') = true ↔
      c = c' ∧ sp = false ∧ sp' = false ∧ sh = false ∧ sh' = false ∧ (ta < t ∧ t' < tb ∨ t < ta ∧ tb < t') ∧ t' = t := by
  simp only [Attr.follows, Bool.and_eq_true, Bool.or_eq_true, Bool.not_eq_true', beq_iff_eq, decide_eq_true_eq]
  tauto

theorem Attr.follows_ended (a : Attr) (flag : Outcome) (c : Coil) : a.follows (.ended flag c) = false := by
  cases a <;> rfl

/-- A single traced entry is a run. -/
theorem Group.run_single {depth i : Nat} {all : List Attr} {c : Coil} {ta tb : Nat} {sp un br sh : Bool}
    (h : all[i]? = some (.traced c ta tb sp un br sh)) : Group.Run depth all ⟨depth, i, 1, c, ta, tb, 0⟩ where
  pos := Nat.le_refl 1
  cap := Nat.le_add_left 1 13
  depth := rfl
  fresh := rfl
  head := ⟨_, _, _, _, _, h⟩
  last := ⟨_, _, _, _, _, h⟩
  coil := fun j h1 h2 => by
    obtain rfl : j = i := by dsimp only at h1 h2; omega
    exact ⟨_, _, _, _, _, _, h⟩
  links := fun j a b h1 h2 => by
    dsimp only at h1 h2
    omega

/-- A run with room takes the entry that follows its last one. -/
theorem Group.Run.extend {depth i : Nat} {all : List Attr} {g : Group} (hg : g.Run depth all) (hi : g.first + g.count = i)
    {prev : Attr} (hprev : all[i - 1]? = some prev) {c : Coil} {ta tb : Nat} {sp un br sh : Bool}
    (h : all[i]? = some (.traced c ta tb sp un br sh)) (hf : prev.follows (.traced c ta tb sp un br sh) = true)
    (hroom : g.count < 14) : Group.Run depth all { g with count := g.count + 1, posTo := tb } := by
  have hpos := hg.pos
  have hcoil : c = g.coil := by
    obtain ⟨ta', sp', un', br', sh', hlast⟩ := hg.last
    rw [hi, hprev] at hlast
    obtain rfl := Option.some.inj hlast
    exact (Attr.follows_iff.1 hf).1.symm
  subst hcoil
  constructor
  case pos => exact Nat.le_add_left 1 _
  case cap => exact hroom
  case depth => exact hg.depth
  case fresh => exact hg.fresh
  case head => exact hg.head
  case last =>
    refine ⟨ta, sp, un, br, sh, ?_⟩
    rw [← h]
    exact congrArg (all[·]?) (by dsimp only; omega)
  case coil =>
    intro j h1 h2
    by_cases hj : j = i
    · subst hj
      exact ⟨_, _, _, _, _, _, h⟩
    · exact hg.coil j h1 (by dsimp only at h2; omega)
  case links =>
    intro j a b h1 h2 ha hb
    by_cases hj : j + 1 = i
    · have hja : j = i - 1 := by omega
      rw [hj, h] at hb
      rw [hja, hprev] at ha
      rw [← Option.some.inj ha, ← Option.some.inj hb]
      exact hf
    · exact hg.links j a b h1 (by dsimp only at h2; omega) ha hb

/-! ### The groups of the entries from index `i` on -/

section
variable (depth i : Nat) (as : List Attr)

theorem groupsFrom_ended (cur : Option (Group × Attr)) (flag : Outcome) (c : Coil) :
    groupsFrom depth i cur (.ended flag c :: as) = (cur.map (·.1)).toList ++ groupsFrom depth (i + 1) none as := by
  cases cur <;> rfl

theorem groupsFrom_first (c : Coil) (ta tb : Nat) (sp un br sh : Bool) :
    groupsFrom depth i none (.traced c ta tb sp un br sh :: as) =
      groupsFrom depth (i + 1) (some (⟨depth, i, 1, c, ta, tb, 0⟩, .traced c ta tb sp un br sh)) as := rfl

theorem groupsFrom_next (g : Group) (prev : Attr) (c : Coil) (ta tb : Nat) (sp un br sh : Bool) :
    groupsFrom depth i (some (g, prev)) (.traced c ta tb sp un br sh :: as) =
      let a := Attr.traced c ta tb sp un br sh
      if prev.follows a = true ∧ g.count < 14 then
        groupsFrom depth (i + 1) (some ({ g with count := g.count + 1, posTo := tb }, a)) as
      else g :: groupsFrom depth (i + 1) (some (⟨depth, i, 1, c, ta, tb, 0⟩, a)) as := rfl

end

/-- The group under way and its last entry stand just before index `i`. -/
def RunsTo (depth : Nat) (all : List Attr) (i : Nat) (cur : Option (Group × Attr)) : Prop :=
  ∀ g prev, cur = some (g, prev) → g.Run depth all ∧ g.first + g.count = i ∧ all[i - 1]? = some prev

theorem RunsTo.none (depth : Nat) (all : List Attr) (i : Nat) : RunsTo depth all i none := by
  intro g prev h
  cases h

theorem RunsTo.single {depth i : Nat} {all : List Attr} {c : Coil} {ta tb : Nat} {sp un br sh : Bool}
    (h : all[i]? = some (.traced c ta tb sp un br sh)) :
    RunsTo depth all (i + 1) (some (⟨depth, i, 1, c, ta, tb, 0⟩, .traced c ta tb sp un br sh)) := by
  intro g prev he
  cases he
  exact ⟨Group.run_single h, rfl, h⟩

/-- The traced indices from `i` on. -/
def tracedFrom (all : List Attr) (i n : Nat) : List Nat :=
  (List.range' i n).filter fun j => (all[j]?.map Attr.isTraced).getD false

theorem tracedFrom_succ (all : List Attr) (i n : Nat) {a : Attr} (h : all[i]? = some a) :
    tracedFrom all i (n + 1) = (if a.isTraced then [i] else []) ++ tracedFrom all (i + 1) n := by
  unfold tracedFrom
  rw [List.range'_succ, List.filter_cons, h]
  cases a <;> rfl

theorem groupsFrom_spec (depth : Nat) (all : List Attr) : ∀ (as : List Attr) (i : Nat) (cur : Option (Group × Attr)),
    (∀ k, as[k]? = all[i + k]?) → RunsTo depth all i cur →
    (groupsFrom depth i cur as).flatMap Group.places = (cur.map (·.1)).toList.flatMap Group.places ++ tracedFrom all i as.length ∧
      ∀ g ∈ groupsFrom depth i cur as, g.Run depth all ∧ g.Closed all := by
  intro as
  induction as with
  | nil =>
    intro i cur hfit hcur
    cases cur with
    | none => exact ⟨rfl, fun g hg => nomatch hg⟩
    | some x =>
      obtain ⟨hrun, hend, -⟩ := hcur x.1 x.2 rfl
      refine ⟨(List.append_nil _).symm, fun g hg => ?_⟩
      obtain rfl := List.mem_singleton.1 hg
      refine ⟨hrun, fun _ a b _ hb => ?_⟩
      rw [hend, ← Nat.add_zero i, ← hfit 0] at hb
      cases hb
  | cons a as ih =>
    intro i cur hfit hcur
    have hat : all[i]? = some a := (hfit 0).symm
    have hrest : ∀ k, as[k]? = all[i + 1 + k]? := fun k => by
      rw [Nat.add_assoc, Nat.add_comm 1 k]
      exact hfit (k + 1)
    rw [List.length_cons, tracedFrom_succ all i as.length hat]
    cases a with
    | ended flag c =>
      rw [groupsFrom_ended]
      obtain ⟨hplaces, hall⟩ := ih (i + 1) none hrest (.none depth all _)
      refine ⟨by rw [List.flatMap_append, hplaces]; rfl, fun g hg => ?_⟩
      rcases List.mem_append.1 hg with hg | hg
      · obtain ⟨⟨g, prev⟩, rfl, rfl⟩ := Option.map_eq_some_iff.1 (Option.mem_toList.1 hg)
        obtain ⟨hrun, hend, -⟩ := hcur g prev rfl
        refine ⟨hrun, fun _ x y _ hy => ?_⟩
        rw [hend, hat] at hy
        rw [← Option.some.inj hy]
        exact x.follows_ended ..
      · exact hall g hg
    | traced c ta tb sp un br sh =>
      have hsingle := ih (i + 1) _ hrest (.single (depth := depth) hat)
      cases cur with
      | none => exact hsingle
      | some x =>
        obtain ⟨g, prev⟩ := x
        obtain ⟨hrun, hend, hprev⟩ := hcur g prev rfl
        rw [groupsFrom_next]
        by_cases hf : prev.follows (.traced c ta tb sp un br sh) = true ∧ g.count < 14
        · obtain ⟨hplaces, hall⟩ := ih (i + 1) (some ({ g with count := g.count + 1, posTo := tb }, _)) hrest (by
            rintro _ _ ⟨⟩
            exact ⟨hrun.extend hend hprev hat hf.1 hf.2, by dsimp only; omega, hat⟩)
          rw [if_pos hf]
          refine ⟨hplaces.trans ?_, hall⟩
          simp only [Option.map_some, Option.toList_some, List.flatMap_cons, List.flatMap_nil, List.append_nil, Group.places,
            List.range'_concat, Nat.one_mul, hend, List.append_assoc]
          rfl
        · rw [if_neg hf]
          refine ⟨?_, fun y hy => ?_⟩
          · rw [List.flatMap_cons, hsingle.1]
            simp only [Option.map_some, Option.toList_some, List.flatMap_cons, List.flatMap_nil, List.append_nil]
            rfl
          · rcases List.mem_cons.1 hy with rfl | hy
            · refine ⟨hrun, fun hroom x z hx hz => ?_⟩
              rw [hend, hprev] at hx
              rw [hend, hat] at hz
              rw [← Option.some.inj hx, ← Option.some.inj hz]
              exact Bool.eq_false_iff.2 fun h => hf ⟨h, hroom⟩
            · exact hsingle.2 y hy

/-- The groups of a whole depth. -/
theorem groupsFrom_all (depth : Nat) (all : List Attr) :
    (groupsFrom depth 0 none all).flatMap Group.places = tracedFrom all 0 all.length ∧
      ∀ g ∈ groupsFrom depth 0 none all, g.Run depth all ∧ g.Closed all :=
  groupsFrom_spec depth all all 0 none (fun k => by rw [Nat.zero_add]) (.none depth all 0)

/-- Settles O46, from the runs that `groupsFrom` builds. -/
theorem groupsOfDepth : Obligations.GroupsOfDepth := by
  intro depth attrs gs
  obtain ⟨hplaces, hall⟩ := groupsFrom_all depth attrs
  refine ⟨hplaces.trans ?_, fun g hg => ?_⟩
  · rw [tracedFrom, ← List.range_eq_range']
    refine List.filter_congr fun j _ => ?_
    cases attrs[j]? with
    | none => rfl
    | some a => cases a <;> rfl
  · obtain ⟨hrun, hclosed⟩ := hall g hg
    refine ⟨hrun.pos, hrun.cap, hrun.depth, hrun.head, hrun.last, fun i h1 h2 => ?_, ?_⟩
    · obtain ⟨ta, t, sp, un, br, sh, ha⟩ := hrun.coil i h1 (by omega)
      obtain ⟨t', tb, sp', un', br', sh', hb⟩ := hrun.coil (i + 1) (by omega) h2
      obtain ⟨-, rfl, rfl, rfl, rfl, hway, rfl⟩ := Attr.follows_iff.1 (hrun.links i _ _ h1 h2 ha hb)
      exact ⟨ta, t', tb, un, br, un', br', ha, hb, hway.imp_right fun ⟨h1, h2⟩ => ⟨h2, h1⟩⟩
    · intro hroom c ta t sp un br sh c' t' tb sp' un' br' sh' ha hb
      have hno := hclosed hroom _ _ ha hb
      by_contra hcon
      simp only [not_or, Bool.not_eq_true, ne_eq, not_not] at hcon
      obtain ⟨hc, hsp, hsp', hsh, hsh', ht, hway⟩ := hcon
      exact Bool.eq_false_iff.1 hno (Attr.follows_iff.2 ⟨hc, hsp, hsp', hsh, hsh', or_iff_not_and_not.2 hway, ht.symm⟩)

end Sys2Proof.Machine

/-! PROOFS. A planned depth: its table, its groups handed to the fetch window, and the results of those not sent (R142, R143, R151). -/

namespace Sys2Proof.Machine

/-! ### Groups sent and not sent (R142) -/

/-- A group with the attempts its station's roster entry allows; a local group makes none (R142, R147). -/
def State.sent (s : State) (g : Group) : Group := { g with
  allowed := if g.coil.station = s.settings.station then 0
             else if (s.rosterEntry g.coil.station).state = .silent then 1 else 1 + s.settings.retryLimit }

theorem decideGroup_eq (s : State) {g : Group} (hg : g.allowed = 0) : decideGroup s g =
    match s.unsent g.coil.station with
    | some o => .inr o
    | none => .inl (s.sent g) := by
  unfold decideGroup State.unsent State.sent
  by_cases hown : g.coil.station = s.settings.station
  · rw [if_pos hown, if_pos hown, if_pos hown, ← hg]
  · rw [if_neg hown, if_neg hown, if_neg hown]
    by_cases hm : s.bus.muted = true
    · rw [if_pos hm, if_pos hm]
    · rw [if_neg hm, if_neg hm]
      simp only
      by_cases hd : (s.rosterEntry g.coil.station).state = .degraded
      · rw [if_pos hd, if_pos hd]
      · rw [if_neg hd, if_neg hd]
        cases hc : (s.rosterEntry g.coil.station).codes with
        | none => rfl
        | some cs =>
          by_cases hq : BitVec.ofNat 8 s.req.play.quantity ∈ cs
          · simp only [Option.map_some, Option.getD_some, hq, List.contains_iff_mem.2 hq, Bool.not_true, if_pos]
            rfl
          · simp [hq]

/-- The tables after group `g` where it is not sent (R142, R151). -/
def State.tablesWith (s : State) (ds : List DepthTable) (g : Group) : List DepthTable :=
  match s.unsent g.coil.station with
  | some o => ds.modify g.depth fun t => t.fill g.first (fun _ a => a.result none false (some o)) g.count
  | none => ds

theorem handGroup_eq {s : State} {r : Req} {g : Group} (hq : r.play.quantity = s.req.play.quantity) (hg : g.allowed = 0) :
    handGroup { s with req := r } g = { s with req := { r with
      issue := r.issue ++ if (s.unsent g.coil.station).isNone then [s.sent g] else []
      depths := s.tablesWith r.depths g } } := by
  have hsame : State.unsent { s with req := r } g.coil.station = s.unsent g.coil.station := by
    unfold State.unsent
    rw [hq]
    rfl
  unfold handGroup State.tablesWith
  rw [decideGroup_eq _ hg, hsame]
  cases s.unsent g.coil.station with
  | some o => simp [State.setReq, Req.fill]
  | none => rfl

/-- The groups of a depth are handed on one by one (R143). -/
theorem foldl_handGroup (s : State) : ∀ (gs : List Group) (r : Req), r.play.quantity = s.req.play.quantity →
    (∀ g ∈ gs, g.allowed = 0) → gs.foldl handGroup { s with req := r } = { s with req := { r with
      issue := r.issue ++ (gs.filter fun g => (s.unsent g.coil.station).isNone).map s.sent
      depths := gs.foldl s.tablesWith r.depths } }
  | [], r, _, _ => by simp
  | g :: gs, r, hq, hgs => by
    rw [List.foldl_cons, handGroup_eq hq (hgs g (.head _))]
    refine (foldl_handGroup s gs { r with
      issue := r.issue ++ if (s.unsent g.coil.station).isNone then [s.sent g] else []
      depths := s.tablesWith r.depths g } hq fun x hx => hgs x (.tail _ hx)).trans ?_
    by_cases hu : (s.unsent g.coil.station).isNone = true <;> simp [hu]

/-! ### The table of the depth (R151) -/

/-- The table after group `g` where it is not sent. -/
def State.tableWith (s : State) (t : DepthTable) (g : Group) : DepthTable :=
  match s.unsent g.coil.station with
  | some o => t.fill g.first (fun _ a => a.result none false (some o)) g.count
  | none => t

theorem modify_last {α : Type} (f : α → α) (x : α) : ∀ l : List α, (l ++ [x]).modify l.length f = l ++ [f x]
  | [] => rfl
  | _ :: l => congrArg (_ :: ·) (modify_last f x l)

theorem foldl_tablesWith (s : State) (ds : List DepthTable) : ∀ (gs : List Group) (t : DepthTable),
    (∀ g ∈ gs, g.depth = ds.length) → gs.foldl s.tablesWith (ds ++ [t]) = ds ++ [gs.foldl s.tableWith t]
  | [], _, _ => rfl
  | g :: gs, t, hgs => by
    have hone : s.tablesWith (ds ++ [t]) g = ds ++ [s.tableWith t g] := by
      unfold State.tablesWith State.tableWith
      cases s.unsent g.coil.station with
      | none => rfl
      | some o => rw [hgs g (.head _)]; exact modify_last _ t ds
    rw [List.foldl_cons, List.foldl_cons, hone]
    exact foldl_tablesWith s ds gs _ fun x hx => hgs x (.tail _ hx)

/-- The result of entry `n`, with attribution `a`, after group `g` where it is not sent. -/
def State.entryWith (s : State) (a : Attr) (n : Nat) (r : Option Result) (g : Group) : Option Result :=
  if n ∈ g.places then r.or ((s.unsent g.coil.station).map fun o => a.result none false (some o)) else r

theorem Group.mem_places {g : Group} {n : Nat} : n ∈ g.places ↔ g.first ≤ n ∧ n < g.first + g.count := by
  unfold Group.places
  rw [List.mem_range'_1]

theorem tableWith_entry (s : State) {t : DepthTable} (g : Group) {n : Nat} {a : Attr} (ha : t.attrs[n]? = some a)
    {r : Option Result} (hr : t.results[n]? = some r) : (s.tableWith t g).results[n]? = some (s.entryWith a n r g) := by
  unfold State.tableWith State.entryWith
  cases s.unsent g.coil.station with
  | none => simp [hr]
  | some o =>
    simp only [DepthTable.fill_results, ha, hr, Option.map_some, Option.elim_some, Group.mem_places]
    by_cases hn : g.first ≤ n ∧ n < g.first + g.count
    · rw [if_pos hn, if_pos hn]
      cases r <;> rfl
    · rw [if_neg hn, if_neg hn]

theorem tableWith_shape (s : State) (t : DepthTable) (g : Group) :
    (s.tableWith t g).attrs = t.attrs ∧ (s.tableWith t g).results.length = t.results.length := by
  unfold State.tableWith
  cases s.unsent g.coil.station with
  | none => exact ⟨rfl, rfl⟩
  | some o => simp [DepthTable.fill]

theorem foldl_tableWith_shape (s : State) (gs : List Group) (t : DepthTable) :
    (gs.foldl s.tableWith t).attrs = t.attrs ∧ (gs.foldl s.tableWith t).results.length = t.results.length := by
  induction gs generalizing t with
  | nil => exact ⟨rfl, rfl⟩
  | cons g gs ih =>
    obtain ⟨h1, h2⟩ := tableWith_shape s t g
    obtain ⟨h3, h4⟩ := ih (s.tableWith t g)
    exact ⟨h3.trans h1, h4.trans h2⟩

theorem foldl_tableWith_entry (s : State) {n : Nat} {a : Attr} (gs : List Group) : ∀ {t : DepthTable} {r : Option Result},
    t.attrs[n]? = some a → t.results[n]? = some r →
    (gs.foldl s.tableWith t).results[n]? = some (gs.foldl (s.entryWith a n) r) := by
  induction gs with
  | nil => exact fun _ hr => hr
  | cons g gs ih => exact fun {t r} ha hr => ih (by rw [(tableWith_shape s t g).1, ha]) (tableWith_entry s g ha hr)

/-- A present result stays (R151). -/
theorem foldl_entryWith_some (s : State) (a : Attr) (n : Nat) (x : Result) (gs : List Group) :
    gs.foldl (s.entryWith a n) (some x) = some x := by
  induction gs with
  | nil => rfl
  | cons g gs ih =>
    have hone : s.entryWith a n (some x) g = some x := by simp [State.entryWith]
    rw [List.foldl_cons, hone, ih]

/-- An absent result of an entry with source coil `c` is present exactly where a group of it holds the entry and is not sent. -/
theorem foldl_entryWith_none (s : State) (a : Attr) (n : Nat) (c : Coil) : ∀ gs : List Group,
    (∀ g ∈ gs, n ∈ g.places → g.coil = c) → gs.foldl (s.entryWith a n) none =
      if ∃ g ∈ gs, n ∈ g.places then (s.unsent c.station).map fun o => a.result none false (some o) else none
  | [], _ => by simp
  | g :: gs, h => by
    have hrest := foldl_entryWith_none s a n c gs fun x hx => h x (.tail _ hx)
    rw [List.foldl_cons]
    by_cases hn : n ∈ g.places
    · have hone : s.entryWith a n none g = (s.unsent c.station).map fun o => a.result none false (some o) := by
        rw [← h g (.head _) hn]
        simp [State.entryWith, hn]
      rw [hone, if_pos ⟨g, .head _, hn⟩]
      cases hu : s.unsent c.station with
      | some o => exact foldl_entryWith_some ..
      | none =>
        rw [hu] at hrest
        simpa using hrest
    · have hone : s.entryWith a n none g = none := by simp [State.entryWith, hn]
      rw [hone, hrest]
      refine if_congr ⟨fun ⟨x, hx, hm⟩ => ⟨x, .tail _ hx, hm⟩, ?_⟩ rfl rfl
      rintro ⟨x, hx, hm⟩
      rcases List.mem_cons.1 hx with rfl | hx
      · exact absurd hm hn
      · exact ⟨x, hx, hm⟩

/-! ### A planned depth (R142, R143, R144, R151) -/

theorem ofAttrs_entry {as : List Attr} {n : Nat} {a : Attr} (ha : as[n]? = some a) : (DepthTable.ofAttrs as).results[n]? =
    some (if a.isTraced then none else some (a.result none false none)) := by
  simp only [DepthTable.ofAttrs, List.getElem?_map, ha, Option.map_some]
  cases a <;> rfl

/-- Every traced entry belongs to a group of its own source coil (R140). -/
theorem traced_grouped {depth n : Nat} {as : List Attr} {c : Coil} {ta tb : Nat} {sp un br sh : Bool}
    (h : as[n]? = some (.traced c ta tb sp un br sh)) :
    (∃ g ∈ groupsFrom depth 0 none as, n ∈ g.places) ∧ ∀ g ∈ groupsFrom depth 0 none as, n ∈ g.places → g.coil = c := by
  obtain ⟨hplaces, hall⟩ := groupsFrom_all depth as
  refine ⟨?_, fun g hg hn => ?_⟩
  · have hlt : n < as.length := (List.getElem?_eq_some_iff.1 h).1
    have hmem : n ∈ tracedFrom as 0 as.length := by
      rw [tracedFrom, List.mem_filter]
      exact ⟨List.mem_range'_1.2 ⟨Nat.zero_le n, by omega⟩, by rw [h]; rfl⟩
    exact List.mem_flatMap.1 (hplaces ▸ hmem)
  · obtain ⟨h1, h2⟩ := Group.mem_places.1 hn
    obtain ⟨ta', tb', sp', un', br', sh', hc⟩ := (hall g hg).1.coil n h1 h2
    rw [h] at hc
    cases hc
    rfl

/-- What adding a depth changes: its table stands last, and the groups that are sent join the issue list. -/
theorem addDepth_eq (as : List Attr) (s : State) : addDepth as s = { s with req := { s.req with
    depths := s.req.depths ++ [(groupsFrom s.req.depths.length 0 none as).foldl s.tableWith (.ofAttrs as)]
    issue := s.req.issue ++
      ((groupsFrom s.req.depths.length 0 none as).filter fun g => (s.unsent g.coil.station).isNone).map s.sent } } := by
  have hall := (groupsFrom_all s.req.depths.length as).2
  refine (foldl_handGroup s (groupsFrom s.req.depths.length 0 none as) { s.req with depths := s.req.depths ++ [.ofAttrs as] } rfl
    fun g hg => (hall g hg).1.fresh).trans ?_
  rw [foldl_tablesWith s s.req.depths _ _ fun g hg => (hall g hg).1.depth]

theorem depthAdded (as : List Attr) (s : State) : DepthAdded s as (addDepth as s).req := by
  rw [addDepth_eq]
  obtain ⟨hattrs, hlen⟩ := foldl_tableWith_shape s (groupsFrom s.req.depths.length 0 none as) (.ofAttrs as)
  refine ⟨⟨_, congrArg (fun x => s.req.depths ++ [DepthTable.mk x _]) hattrs, hlen.trans (List.length_map _), fun n a ha => ?_⟩, rfl⟩
  · rw [foldl_tableWith_entry s _ ha (ofAttrs_entry ha)]
    cases a with
    | ended flag c => exact congrArg some (foldl_entryWith_some ..)
    | traced c ta tb sp un br sh =>
      obtain ⟨hin, hcoil⟩ := traced_grouped (depth := s.req.depths.length) ha
      exact congrArg some ((foldl_entryWith_none s _ n c _ hcoil).trans (if_pos hin))

end Sys2Proof.Machine

/-! PROOFS. Acceptance and planning of a playback, and the coils asked for (chapter 8). -/

namespace Sys2Proof.Machine

/-! ### The grid (R133, R134) -/

theorem ceilDiv_bounds {d step : Nat} (hs : 1 ≤ step) : d ≤ ceilDiv d step * step ∧ ceilDiv d step * step < d + step := by
  have hdiv := Nat.div_add_mod (d + step - 1) step
  have hmod := Nat.mod_lt (d + step - 1) hs
  unfold ceilDiv
  rw [Nat.mul_comm]
  omega

/-- The last point is shorter than the step exactly where the length is no multiple of it. -/
theorem mod_ne_zero_iff {d step : Nat} (hs : 1 ≤ step) : d % step ≠ 0 ↔ d < ceilDiv d step * step := by
  obtain ⟨hle, hlt⟩ := ceilDiv_bounds (d := d) hs
  refine ⟨fun hm => lt_of_le_of_ne hle fun he => hm ?_, fun h hm => ?_⟩
  · rw [he]
    exact Nat.mul_mod_left ..
  · obtain ⟨k, rfl⟩ := Nat.dvd_of_mod_eq_zero hm
    rw [Nat.mul_comm step k] at h hlt
    have h1 : k < ceilDiv (k * step) step := Nat.lt_of_mul_lt_mul_right h
    have h2 : ceilDiv (k * step) step < k + 1 := Nat.lt_of_mul_lt_mul_right (a := step) (by rw [Nat.succ_mul]; exact hlt)
    omega

theorem gridAttrs_eq {p : PlayRequest} (hs : 1 ≤ p.step) (hb : p.a < p.bound) (hp : p.points = ceilDiv (p.bound - p.a) p.step) :
    gridAttrs p = (List.range p.points).map fun i =>
      .traced p.coil (p.a + i * p.step) (min (p.a + (i + 1) * p.step) p.bound) false false false
        (decide (i + 1 = p.points ∧ p.bound < p.a + p.points * p.step)) := by
  have hshort : ((p.bound - p.a) % p.step != 0) = decide (p.bound < p.a + p.points * p.step) := by
    rw [Bool.eq_iff_iff, bne_iff_ne, decide_eq_true_iff, mod_ne_zero_iff hs, hp]
    omega
  unfold gridAttrs
  refine List.map_congr_left fun i _ => ?_
  rw [hshort, Bool.decide_and]
  rfl

/-! ### Acceptance (R133) -/

section
variable {len : Nat} (copy : RecState) {s : State}

theorem acceptPlayback_range (h : min s.req.play.b len ≤ s.req.play.a) :
    acceptPlayback len copy s = { s with req := { s.req with refusal := some .range } } := if_pos h

variable (ha : s.req.play.a < min s.req.play.b len)
include ha

theorem acceptPlayback_tooMany (h : 4096 < ceilDiv (min s.req.play.b len - s.req.play.a) s.req.play.step) :
    acceptPlayback len copy s = { s with req := { s.req with refusal := some .tooMany } } :=
  (if_neg (Nat.not_le.2 ha)).trans (if_pos h)

theorem acceptPlayback_grid (h : ceilDiv (min s.req.play.b len - s.req.play.a) s.req.play.step ≤ 4096) :
    acceptPlayback len copy s =
      let p := s.req.play
      let bound := min p.b len
      let taken : PlayRequest := { p with length := len, bound, points := ceilDiv (bound - p.a) p.step, copy }
      addDepth (gridAttrs taken) { s with req := { s.req with
        engine := .playing, play := taken, acceptDue := true, depths := []
        plan := if p.depth = 0 then none else some ⟨1, [(p.coil, copy)]⟩ } } :=
  (if_neg (Nat.not_le.2 ha)).trans (if_neg (Nat.not_lt.2 h))

end

theorem acceptPlayback_req (len : Nat) (copy : RecState) (s : State) : { acceptPlayback len copy s with req := s.req } = s := by
  by_cases hr : min s.req.play.b len ≤ s.req.play.a
  · rw [acceptPlayback_range copy hr]
  · by_cases hm : 4096 < ceilDiv (min s.req.play.b len - s.req.play.a) s.req.play.step
    · rw [acceptPlayback_tooMany copy (Nat.not_le.1 hr) hm]
    · rw [acceptPlayback_grid copy (Nat.not_le.1 hr) (Nat.not_lt.1 hm)]
      exact congrArg (fun u : State => { u with req := s.req }) (addDepth_eq ..)

/-! ### The coil list (R135, R136) -/

/-- The cache after the use of a listed coil's record (R77, R136). -/
def State.usedNow (s : State) (cache : List LineageRec) (x : Coil × RecState) : List LineageRec :=
  match x.2 with
  | .record r => if x.1.station = s.settings.station then cache else r :: cache.filter fun y => y.coil != x.1
  | _ => cache

/-- A listed coil is in the state R136 gives it. -/
def State.Listed (s : State) (x : Coil × RecState) : Prop :=
  let own := s.ctr.exits.find? fun r => r.coil == x.1
  let held := s.lch.cache.find? fun r => r.coil == x.1
  (x.1.station = s.settings.station → own = none → x.2 = .unknown) ∧
  (∀ r os n, x.1.station = s.settings.station → own = some r → r.body = .pending os n → x.2 = .pending r.close) ∧
  (∀ r ps m, x.1.station = s.settings.station → own = some r → r.body = .final ps m → x.2 = .record (r.lineageWith ps)) ∧
  (∀ r, x.1.station ≠ s.settings.station → held = some r → x.2 = .record r) ∧
  (x.1.station ≠ s.settings.station → held = none → x.2 = if s.bus.muted then .unreachable else .looking)

/-- A record brought to the front does not change what the cache holds (R77). -/
theorem find?_touched {cache : List LineageRec} {c : Coil} {r : LineageRec} (h : (cache.find? fun y => y.coil == c) = some r)
    (d : Coil) : ((r :: cache.filter fun y => y.coil != c).find? fun y => y.coil == d) = cache.find? fun y => y.coil == d := by
  have hr : r.coil = c := by simpa using List.find?_some h
  by_cases hd : c = d
  · rw [List.find?_cons_of_pos (by simp [hr, hd]), ← hd, h]
  · rw [List.find?_cons_of_neg (by simpa [hr] using hd), List.find?_filter]
    congr 1
    funext y
    by_cases hy : y.coil = d
    · simp [hy, Ne.symm hd]
    · simp [hy]

theorem lookupRecord_listed (c : Coil) (s : State) : s.Listed (c, (lookupRecord c s).1) ∧
    (lookupRecord c s).2 = { s with lch := { s.lch with cache := s.usedNow s.lch.cache (c, (lookupRecord c s).1) } } ∧
    ∀ d, ((s.usedNow s.lch.cache (c, (lookupRecord c s).1)).find? fun y => y.coil == d) = s.lch.cache.find? fun y => y.coil == d := by
  by_cases hown : c.station = s.settings.station
  · cases hf : s.findExit c with
    | none =>
      have h : lookupRecord c s = (.unknown, s) := by simp only [lookupRecord, if_pos hown, hf]
      have hf : (s.ctr.exits.find? fun r => r.coil == c) = none := hf
      rw [h]
      exact ⟨⟨fun _ _ => rfl, fun r _ _ _ h => (by rw [hf] at h; cases h), fun r _ _ _ h => (by rw [hf] at h; cases h),
        fun _ h => absurd hown h, fun h => absurd hown h⟩, rfl, fun _ => rfl⟩
    | some r =>
      have h : lookupRecord c s = (r.recState, s) := by simp only [lookupRecord, if_pos hown, hf]
      have hf : (s.ctr.exits.find? fun r => r.coil == c) = some r := hf
      have hcache : s.usedNow s.lch.cache (c, r.recState) = s.lch.cache := by
        unfold State.usedNow
        split
        · exact if_pos hown
        · rfl
      rw [h]
      refine ⟨⟨fun _ h => (by rw [hf] at h; cases h), fun r' os n _ h hb => ?_, fun r' ps m _ h hb => ?_,
        fun _ h => absurd hown h, fun h => absurd hown h⟩, by rw [hcache], fun _ => by rw [hcache]⟩
      · rw [hf] at h
        cases h
        exact ExitRec.recState_pending hb
      · rw [hf] at h
        cases h
        exact ExitRec.recState_final hb
  · cases hf : s.lch.cache.find? fun y => y.coil == c with
    | none =>
      have h : lookupRecord c s = (if s.bus.muted then .unreachable else .looking, s) := by
        simp only [lookupRecord, if_neg hown, lookupCache_miss hf]
      have hcache : s.usedNow s.lch.cache (c, if s.bus.muted then .unreachable else .looking) = s.lch.cache := by
        cases hm : s.bus.muted <;> rfl
      rw [h]
      exact ⟨⟨fun h => absurd h hown, fun _ _ _ h => absurd h hown, fun _ _ _ h => absurd h hown,
        fun _ _ h => (by rw [hf] at h; cases h), fun _ _ => rfl⟩, by rw [hcache], fun _ => by rw [hcache]⟩
    | some r =>
      have h : lookupRecord c s = (.record r, { s with lch := { s.lch with cache := r :: s.lch.cache.filter fun x => x.coil != c } }) := by
        simp only [lookupRecord, if_neg hown, lookupCache_hit hf]
      have hcache : s.usedNow s.lch.cache (c, .record r) = r :: s.lch.cache.filter fun x => x.coil != c := if_neg hown
      rw [h]
      refine ⟨⟨fun h => absurd h hown, fun _ _ _ h => absurd h hown, fun _ _ _ h => absurd h hown, fun r' _ h => ?_, fun _ h =>
        (by rw [hf] at h; cases h)⟩, by rw [hcache], fun d => by rw [hcache]; exact find?_touched hf d⟩
      rw [hf] at h
      cases h
      rfl

/-- The coils of traced entries in order (R135). -/
def tracedCoils (as : List Attr) : List Coil :=
  as.filterMap fun a => match a with
    | Attr.traced c .. => some c
    | Attr.ended .. => none

/-- A coil joins the list where it is new and the list has room (R135). -/
def listCoil (l : List Coil) (c : Coil) : List Coil := if c ∈ l ∨ 64 ≤ l.length then l else l ++ [c]

theorem Listed.of_find {s u : State} (hs : u.settings = s.settings) (hc : u.ctr = s.ctr) (hm : u.bus.muted = s.bus.muted)
    (hf : ∀ d, (u.lch.cache.find? fun y => y.coil == d) = s.lch.cache.find? fun y => y.coil == d) {x : Coil × RecState}
    (h : u.Listed x) : s.Listed x := by
  unfold State.Listed at h ⊢
  rwa [hs, hc, hm, hf x.1] at h

theorem listCoils_spec : ∀ (as : List Attr) (l : List (Coil × RecState)) (s : State), ∃ new,
    listCoils as l s = (l ++ new, { s with lch := { s.lch with cache := new.foldl s.usedNow s.lch.cache } }) ∧
    (l ++ new).map (·.1) = (tracedCoils as).foldl listCoil (l.map (·.1)) ∧ ∀ x ∈ new, s.Listed x
  | [], l, s => ⟨[], by rw [List.append_nil]; rfl, by rw [List.append_nil]; rfl, fun x hx => nomatch hx⟩
  | .ended .. :: as, l, s => listCoils_spec as l s
  | .traced c _ _ _ _ _ _ :: as, l, s => by
    have hmem : (l.any fun x => x.1 == c) = true ↔ c ∈ l.map (·.1) := by simp
    by_cases hskip : (l.any fun x => x.1 == c) = true ∨ 64 ≤ l.length
    · obtain ⟨new, hlist, hnames, hnew⟩ := listCoils_spec as l s
      refine ⟨new, (if_pos hskip).trans hlist, hnames.trans ?_, hnew⟩
      have hl : listCoil (l.map (·.1)) c = l.map (·.1) :=
        if_pos (hskip.imp hmem.1 fun h => h.trans (Nat.le_of_eq (List.length_map _).symm))
      exact congrArg (fun m => (tracedCoils as).foldl listCoil m) hl.symm
    · obtain ⟨hlisted, hstate, hfind⟩ := lookupRecord_listed c s
      generalize hx : (lookupRecord c s).1 = o at hlisted hstate hfind
      obtain ⟨new, hlist, hnames, hnew⟩ := listCoils_spec as (l ++ [(c, o)]) (lookupRecord c s).2
      refine ⟨(c, o) :: new, (if_neg hskip).trans ?_, ?_, ?_⟩
      · change listCoils as (l ++ [(c, (lookupRecord c s).1)]) (lookupRecord c s).2 = _
        rw [hx, hlist, hstate, List.append_assoc]
        rfl
      · have hl : listCoil (l.map (·.1)) c = l.map (·.1) ++ [c] :=
          if_neg fun h => hskip (h.imp hmem.2 fun h => h.trans (Nat.le_of_eq (List.length_map _)))
        rw [List.append_cons, hnames, List.map_append]
        exact congrArg (fun m => (tracedCoils as).foldl listCoil m) hl.symm
      · intro x hm
        rcases List.mem_cons.1 hm with rfl | hm
        · exact hlisted
        · have hy := hnew x hm
          rw [hstate] at hy
          exact Listed.of_find (s := s) (u := { s with lch := { s.lch with cache := s.usedNow s.lch.cache (c, o) } }) rfl rfl rfl hfind hy

end Sys2Proof.Machine

/-! PROOFS. A playback accepted, planned, traced, and its coils asked for (R130, R133 to R139, R142 to R144, R160). -/

namespace Sys2Proof.Machine

/-! ### Planning of a depth (R137, R143) -/

theorem planStep_looking {s : State} {p : Plan} (hp : s.req.plan = some p) (h : ∃ x ∈ p.coils, x.2 = .looking) : planStep s = none := by
  have hany : (p.coils.any fun x => x.2 == .looking) = true := by
    obtain ⟨x, hx, hl⟩ := h
    exact List.any_eq_true.2 ⟨x, hx, beq_iff_eq.2 hl⟩
  simp only [planStep, hp, if_pos hany]

section
variable {s : State} {p : Plan} (hp : s.req.plan = some p) (h : ∀ x ∈ p.coils, x.2 ≠ .looking)
include hp h

/-- The tables and groups of the depth, and then the coil list of the next one or the end of planning. -/
theorem planStep_settled : planStep s =
    let u := addDepth (s.req.lastAttrs.map (traceEntry p.coils)) s
    if p.depth < u.req.play.depth then
      let l := listCoils (s.req.lastAttrs.map (traceEntry p.coils)) [] u
      some { l.2 with req := { l.2.req with plan := some ⟨p.depth + 1, l.1⟩ } }
    else some { u with req := { u.req with plan := none } } := by
  have hany : ¬ (p.coils.any fun x => x.2 == .looking) = true := fun hany => by
    obtain ⟨x, hx, hl⟩ := List.any_eq_true.1 hany
    exact h x hx (beq_iff_eq.1 hl)
  unfold planStep
  rw [hp]
  exact if_neg hany

theorem planStep_deeper (hd : p.depth < s.req.play.depth) : planStep s =
    let l := listCoils (s.req.lastAttrs.map (traceEntry p.coils)) [] (addDepth (s.req.lastAttrs.map (traceEntry p.coils)) s)
    some { l.2 with req := { l.2.req with plan := some ⟨p.depth + 1, l.1⟩ } } :=
  (planStep_settled hp h).trans (if_pos (by rw [addDepth_eq]; exact hd))

theorem planStep_last (hd : s.req.play.depth ≤ p.depth) : planStep s =
    let u := addDepth (s.req.lastAttrs.map (traceEntry p.coils)) s
    some { u with req := { u.req with plan := none } } :=
  (planStep_settled hp h).trans (if_neg (by rw [addDepth_eq]; exact Nat.not_lt.2 hd))

end

/-! ### The coils asked for (R130, R136, R160) -/

/-- A busy slot asks for the coil. -/
theorem queried_iff {r : Req} {c : Coil} : queried r c = true ↔ ∃ x ∈ r.queries, ∃ b, x.busy = some b ∧ b.coil = c := by
  simp only [queried, List.any_eq_true]
  refine exists_congr fun x => and_congr_right fun _ => ?_
  cases x.busy <;> simp

theorem queryStep_none {s : State} (h : (∀ x ∈ lookingCoils s.req, queried s.req x.1 = true) ∨ ∀ x ∈ s.req.queries, x.busy.isSome) :
    queryStep s = none := by
  unfold queryStep
  rcases h with h | h
  · have hf : ((lookingCoils s.req).find? fun x => !queried s.req x.1) = none :=
      List.find?_eq_none.2 fun x hx => by simp [h x hx]
    rw [hf]
  · have hi : idleQuery s.req = none := List.findIdx?_eq_none_iff.2 fun x hx => by
      obtain ⟨b, hb⟩ := Option.isSome_iff_exists.1 (h x hx)
      rw [hb]
      rfl
    rw [hi]
    cases (lookingCoils s.req).find? fun x => !queried s.req x.1 <;> rfl

theorem queryStep_asks {s : State} {pre post : List (Coil × Serves)} {c : Coil} {serves : Serves} {i : Nat}
    (hl : lookingCoils s.req = pre ++ (c, serves) :: post) (hpre : ∀ x ∈ pre, queried s.req x.1 = true)
    (hc : queried s.req c = false) (hi : idleQuery s.req = some i) : queryStep s = some (startQuery i c serves s) := by
  have hf : ((lookingCoils s.req).find? fun x => !queried s.req x.1) = some (c, serves) := by
    have hnone : (pre.find? fun x => !queried s.req x.1) = none := List.find?_eq_none.2 fun x hx => by simp [hpre x hx]
    rw [hl, List.find?_append, hnone, Option.none_or, List.find?_cons_of_pos (by simp [hc])]
  simp only [queryStep, hf, hi]

/-- MUTED refuses a query: its slot is idle again under its next generation, and the coil is UNREACHABLE (R98, R130). -/
theorem startQuery_muted {i : Nat} {c : Coil} {serves : Serves} {s : State} {gen : BitVec 2}
    (hx : s.req.queries[i]? = some ⟨gen, none⟩) (hm : s.bus.muted = true) : startQuery i c serves s = { s with
      bus := (s.withdraw fun o => o == .reqQuery i).bus
      req := ({ s.req with queries := s.req.queries.set i ⟨gen + 1, none⟩ } : Req).queryLost i (gen + 1)
        ⟨c, serves, s.attemptsAllowed c.station, 1, false, none⟩ } := by
  let b : QueryBusy := ⟨c, serves, s.attemptsAllowed c.station, 1, false, none⟩
  let given : State := { s with req := { s.req with queries := s.req.queries.set i ⟨gen + 1, some b⟩ } }
  have hslot : given.req.queries[i]? = some ⟨gen + 1, some b⟩ :=
    List.getElem?_set_self (List.getElem?_eq_some_iff.1 hx).1
  have hstart : startQuery i c serves s = failQuery i true given := by
    unfold startQuery
    rw [hx]
    exact if_pos hm
  rw [hstart, failQuery_lost hslot (.inr hm)]
  unfold Req.queryLost
  cases hb : b.serves <;> simp only [given, b, List.set_set] <;> rfl

/-- What the LOOKING coils serve, by the state of the engine. -/
theorem lookingCoils_serves {r : Req} {c : Coil} {serves : Serves} (h : (c, serves) ∈ lookingCoils r) :
    r.engine = .playing ∧ serves = .coilList ∨ r.engine ≠ .playing ∧ serves = .place := by
  unfold lookingCoils at h
  cases he : r.engine with
  | playing =>
    simp only [he, List.mem_filterMap] at h
    obtain ⟨x, _, hx⟩ := h
    split at hx
    · cases hx
      exact .inl ⟨rfl, rfl⟩
    · cases hx
  | walkingUp =>
    simp only [he, List.mem_filterMap] at h
    obtain ⟨p, _, hp⟩ := h
    split at hp
    · cases hp
      exact .inr ⟨by simp, rfl⟩
    · cases hp
  | idle => simp [he] at h
  | resolving => simp [he] at h
  | walkingDown => simp [he] at h
  | listing => simp [he] at h

/-- Acceptance of a playback (R133, R134, R142, R144). -/
theorem acceptPlayback_spec (s : State) (len : Nat) (copy : RecState) (hs : 1 ≤ s.req.play.step) :
    let p := s.req.play
    let bound := min p.b len
    let points := (bound - p.a + p.step - 1) / p.step
    let grid : List Attr := (List.range points).map fun i =>
      .traced p.coil (p.a + i * p.step) (min (p.a + (i + 1) * p.step) bound) false false false
        (decide (i + 1 = points ∧ bound < p.a + points * p.step))
    let u := acceptPlayback len copy s
    p.a < bound → points ≤ 4096 →
      { u.req with depths := [], issue := [] } = { s.req with
        engine := .playing, acceptDue := true, depths := [], issue := []
        play := { p with length := len, bound, points, copy }
        plan := if p.depth = 0 then none else some ⟨1, [(p.coil, copy)]⟩ } ∧
      1 ≤ points ∧ p.a + (points - 1) * p.step < bound ∧ bound ≤ p.a + points * p.step ∧
      DepthAdded { s with req := { s.req with depths := [] } } grid u.req := by
  intro p bound points grid u ha hcap
  let taken : PlayRequest := { p with length := len, bound, points, copy }
  let start : State := { s with req := { s.req with
    engine := .playing, play := taken, acceptDue := true, depths := []
    plan := if p.depth = 0 then none else some ⟨1, [(p.coil, copy)]⟩ } }
  have hgrid : gridAttrs taken = grid := gridAttrs_eq (p := taken) hs ha rfl
  have hu : u = addDepth grid start := hgrid ▸ acceptPlayback_grid copy ha hcap
  obtain ⟨hle, hlt⟩ := ceilDiv_bounds (d := bound - p.a) hs
  have hpoints : ceilDiv (bound - p.a) p.step = points := rfl
  rw [hpoints] at hle hlt
  have hpos : 1 ≤ points := by
    rcases Nat.eq_zero_or_pos points with h | h
    · rw [h] at hle
      omega
    · exact h
  have hlast : (points - 1) * p.step + p.step = points * p.step := by
    rw [← Nat.succ_mul, Nat.succ_eq_add_one, Nat.sub_add_cancel hpos]
  have hadded := depthAdded grid start
  rw [hu]
  refine ⟨?_, hpos, ?_, ?_, ⟨hadded.tables, hadded.issue⟩⟩
  · rw [addDepth_eq]
  · rw [← hlast] at hlt
    exact Nat.add_lt_of_lt_sub' (Nat.lt_of_add_lt_add_right hlt)
  · exact Nat.sub_le_iff_le_add'.1 hle

/-- Settles O45: acceptance, planning, tracing, and the coils asked for. -/
theorem playbackAccepted : Obligations.PlaybackAccepted := by
  refine ⟨?_, ?_, ?_, ?_⟩
  · intro s len copy hs p bound points grid u
    exact ⟨acceptPlayback_req len copy s, fun h => congrArg State.req (acceptPlayback_range copy h),
      fun ha h => congrArg State.req (acceptPlayback_tooMany copy ha h), acceptPlayback_spec s len copy hs⟩
  · intro s p hp
    refine ⟨planStep_looking hp, fun hset => ?_⟩
    have hadded := depthAdded (s.req.lastAttrs.map (traceEntry p.coils)) s
    by_cases hd : p.depth < s.req.play.depth
    · obtain ⟨new, hlist, hnames, hnew⟩ := listCoils_spec (s.req.lastAttrs.map (traceEntry p.coils)) []
        (addDepth (s.req.lastAttrs.map (traceEntry p.coils)) s)
      refine ⟨_, planStep_deeper hp hset hd, ?_⟩
      rw [hlist]
      rw [addDepth_eq] at hadded hnew ⊢
      refine ⟨rfl, rfl, ⟨hadded.tables, hadded.issue⟩, fun h => absurd hd (Nat.not_lt.2 h), fun _ => ⟨new, rfl, hnames, hnew, rfl⟩⟩
    · refine ⟨_, planStep_last hp hset (Nat.not_lt.1 hd), ?_⟩
      rw [addDepth_eq] at hadded ⊢
      exact ⟨rfl, rfl, ⟨hadded.tables, hadded.issue⟩, fun _ => ⟨rfl, rfl⟩, fun h => absurd h hd⟩
  · intro coils m c ta tb split unscaled broken short flag state traced
    have htraced : ∀ o, state = o → traced = match o with
        | none => .ended .overflow m
        | some (.pending _) => .ended .pending m
        | some .unknown => .ended .unknown m
        | some .unreachable | some .looking => .ended .unreachable m
        | some (.record r) => traceThrough r ta tb split unscaled broken short := fun o ho => ho ▸ rfl
    refine ⟨rfl, htraced _, fun close => htraced _, htraced _, htraced _, fun r p hr hp => ⟨?_, htraced _ hr⟩⟩
    unfold LineageRec.pieceFor
    rcases hp with ⟨hle, hlast⟩ | ⟨hlt, hfind⟩
    · rw [if_pos hle, hlast]
    · rw [if_neg (Nat.not_le.2 hlt), hfind]
  · intro s looking asked
    have hlooking : lookingCoils s.req = looking := rfl
    refine ⟨fun h => queryStep_none (h.imp_left fun h x hx => queried_iff.2 (h x hx)), ?_⟩
    intro pre post c serves i gen hl hpre hc hi hbefore given
    have hasked : queried s.req c = false := Bool.eq_false_iff.2 fun h => hc (queried_iff.1 h)
    rw [queryStep_asks (hlooking.trans hl) (fun x hx => queried_iff.2 (hpre x hx)) hasked (idleQuery_first hi hbefore)]
    refine ⟨fun hm => congrArg some (startQuery_clear hi hm), fun hm => congrArg some ?_⟩
    have hserves := lookingCoils_serves (r := s.req) (c := c) (serves := serves) (by rw [hlooking, hl]; simp)
    rw [startQuery_muted hi hm]
    rcases hserves with ⟨he, rfl⟩ | ⟨he, rfl⟩
    · rw [if_pos he]
      simp only [Req.queryLost, List.set_set]
      rfl
    · rw [if_neg he]
      simp only [Req.queryLost, List.set_set]
      rfl

end Sys2Proof.Machine

/-! PROOFS. The visited set of a walk (R159, R163) and the outcome of a coil that enters a place of an upward walk (R160). -/

namespace Sys2Proof.Machine

/-! ### New places (R163) -/

section
variable {r : Req} {acc : List Place}

/-- With room for all of them, the new places join and nothing else changes. -/
theorem Req.withPlaces_fits (h : acc.length ≤ 256 - r.walk.places.length) : r.withPlaces acc =
    { r with walk := { r.walk with places := r.walk.places ++ acc } } := by
  unfold Req.withPlaces
  simp [h, List.take_of_length_le h]

/-- With no room left, a further new place makes no difference: the walk is truncated already. -/
theorem Req.withPlaces_full (h : 256 - r.walk.places.length < acc.length) (more : List Place) :
    r.withPlaces (acc ++ more) = r.withPlaces acc := by
  have h' : 256 - r.walk.places.length < (acc ++ more).length := by
    rw [List.length_append]
    omega
  unfold Req.withPlaces
  simp only [List.take_append_of_le_length (Nat.le_of_lt h), Nat.not_le.2 h, Nat.not_le.2 h']

theorem Req.withPlaces_truncated (h : 256 - r.walk.places.length < acc.length) : (r.withPlaces acc).walk.truncated = true := by
  unfold Req.withPlaces
  simp [h]

theorem Req.withPlaces_nil (r : Req) : r.withPlaces [] = r := by
  rw [Req.withPlaces_fits (Nat.zero_le _), List.append_nil]

end

/-- A place is passed over where the walk is truncated or its coil, 0:0 apart, is in the set. -/
theorem addPlace_known {s : State} {p : Place} (h : s.req.walk.truncated = true ∨
    p.coil ≠ .unknown ∧ ∃ q ∈ s.req.walk.places, q.coil = p.coil) : addPlace s p = s :=
  if_pos (h.imp_right fun h => h.imp_right fun ⟨q, hq, hc⟩ => List.any_eq_true.2 ⟨q, hq, beq_iff_eq.2 hc⟩)

/-- A place of a new coil joins the set, or truncates the walk (R163). -/
theorem addPlace_new {s : State} {r : Req} {acc : List Place} {p : Place} (ht : r.walk.truncated = false)
    (hfits : acc.length ≤ 256 - r.walk.places.length)
    (hnew : p.coil = .unknown ∨ ¬ ∃ q ∈ r.walk.places ++ acc, q.coil = p.coil) :
    addPlace { s with req := r.withPlaces acc } p = { s with req := r.withPlaces (acc ++ [p]) } := by
  rw [Req.withPlaces_fits hfits]
  have hno : ¬ (r.walk.truncated = true ∨ p.coil ≠ .unknown ∧ (r.walk.places ++ acc).any (fun x => x.coil == p.coil) = true) := by
    rintro (h | ⟨hu, h⟩)
    · rw [ht] at h
      cases h
    · obtain ⟨q, hq, hc⟩ := List.any_eq_true.1 h
      exact hnew.elim hu fun h => h ⟨q, hq, beq_iff_eq.1 hc⟩
  refine (if_neg hno).trans ?_
  by_cases hroom : (acc ++ [p]).length ≤ 256 - r.walk.places.length
  · rw [Req.withPlaces_fits hroom]
    have hcap : ¬ Config.placeCap ≤ (r.walk.places ++ acc).length := by
      rw [List.length_append, List.length_singleton] at hroom
      rw [List.length_append]
      unfold Config.placeCap
      omega
    refine (if_neg hcap).trans ?_
    rw [← List.append_assoc]
    rfl
  · have hlen : (acc ++ [p]).length = acc.length + 1 := List.length_append
    have hcap : Config.placeCap ≤ (r.walk.places ++ acc).length := by
      rw [List.length_append]
      unfold Config.placeCap
      omega
    have htake : (acc ++ [p]).take (256 - r.walk.places.length) = acc := by
      rw [show 256 - r.walk.places.length = acc.length by omega, List.take_left]
    refine (if_pos hcap).trans ?_
    unfold Req.withPlaces
    rw [htake]
    have hlong : 256 ≤ acc.length + r.walk.places.length := by omega
    by_cases hidle : r.collector.state = .idle <;> simp [hlong, hidle, ht, State.setReq, Collector.abandon]

/-- A coil is in the visited set already (R159, R163). -/
def Met (places : List Place) (met : List Coil) (c : Coil) : Prop :=
  c ≠ .unknown ∧ ((∃ q ∈ places, q.coil = c) ∨ c ∈ met)

/-- Whether a place is added to a walk that has met the places `acc` since it held those of `r`. -/
theorem addPlace_withPlaces {s : State} {r : Req} {acc : List Place} {p : Place} (ht : r.walk.truncated = false) :
    (Met r.walk.places (acc.map (·.coil)) p.coil →
      addPlace { s with req := r.withPlaces acc } p = { s with req := r.withPlaces acc }) ∧
    (¬ Met r.walk.places (acc.map (·.coil)) p.coil →
      addPlace { s with req := r.withPlaces acc } p = { s with req := r.withPlaces (acc ++ [p]) }) := by
  by_cases hfits : acc.length ≤ 256 - r.walk.places.length
  · refine ⟨fun ⟨hu, hm⟩ => addPlace_known (.inr ⟨hu, ?_⟩), fun h => addPlace_new ht hfits ?_⟩
    · rw [Req.withPlaces_fits hfits]
      rcases hm with ⟨q, hq, hc⟩ | hm
      · exact ⟨q, List.mem_append_left _ hq, hc⟩
      · obtain ⟨q, hq, hc⟩ := List.mem_map.1 hm
        exact ⟨q, List.mem_append_right _ hq, hc⟩
    · by_cases hu : p.coil = .unknown
      · exact .inl hu
      · refine .inr fun ⟨q, hq, hc⟩ => h ⟨hu, ?_⟩
        exact (List.mem_append.1 hq).imp (fun hq => ⟨q, hq, hc⟩) fun hq => List.mem_map.2 ⟨q, hq, hc⟩
  · have hfull := Nat.not_le.1 hfits
    have hsame : addPlace { s with req := r.withPlaces acc } p = { s with req := r.withPlaces acc } :=
      addPlace_known (.inl (Req.withPlaces_truncated hfull))
    exact ⟨fun _ => hsame, fun _ => by rw [hsame, Req.withPlaces_full hfull]⟩

/-- The items met so far whose coil is new to the walk or 0:0, in order (R161, R166). -/
def metItems {α : Type} (key : α → Coil) (places : List Place) (l : List α) (x : α) : List α :=
  if key x ≠ .unknown ∧ ((∃ q ∈ places, q.coil = key x) ∨ ∃ y ∈ l, key y = key x) then l else l ++ [x]

/-- Places that items give join a walk in order. -/
theorem foldl_addPlace {α : Type} (mk : α → Place) (s : State) {r : Req} (ht : r.walk.truncated = false) : ∀ (xs l : List α),
    xs.foldl (fun v x => addPlace v (mk x)) { s with req := r.withPlaces (l.map mk) } =
      { s with req := r.withPlaces ((xs.foldl (metItems (fun x => (mk x).coil) r.walk.places) l).map mk) }
  | [], _ => rfl
  | x :: xs, l => by
    have hmet : Met r.walk.places ((l.map mk).map (·.coil)) (mk x).coil ↔ (mk x).coil ≠ .unknown ∧
        ((∃ q ∈ r.walk.places, q.coil = (mk x).coil) ∨ ∃ y ∈ l, (mk y).coil = (mk x).coil) := by
      simp [Met]
    obtain ⟨hknown, hnew⟩ := addPlace_withPlaces (s := s) (acc := l.map mk) (p := mk x) ht
    rw [List.foldl_cons, List.foldl_cons]
    unfold metItems
    by_cases hm : Met r.walk.places ((l.map mk).map (·.coil)) (mk x).coil
    · rw [hknown hm, if_pos (hmet.1 hm)]
      exact foldl_addPlace mk s ht xs l
    · rw [hnew hm, if_neg fun h => hm (hmet.2 h), ← List.map_singleton, ← List.map_append]
      exact foldl_addPlace mk s ht xs (l ++ [x])

/-- A truncated walk takes no place. -/
theorem foldl_addPlace_truncated {α : Type} (mk : α → Place) {s : State} (ht : s.req.walk.truncated = true) (xs : List α) :
    xs.foldl (fun v x => addPlace v (mk x)) s = s := by
  induction xs with
  | nil => rfl
  | cons x xs ih => rw [List.foldl_cons, addPlace_known (.inl ht), ih]

/-! ### The outcome of a coil of an upward walk (R160) -/

/-- Coil `c` is settled with `o` by the first case of R160 that applies. -/
def State.Settles (s : State) (c : Coil) (o : PlaceOutcome) : Prop :=
  let own := s.ctr.exits.find? fun y => y.coil == c
  let held := s.lch.cache.find? fun y => y.coil == c
  let off := c.station = 0 ∨ c.station = 63
  (c = .unknown ∨ c.station = 63 → o = .unknown) ∧ (c ≠ .unknown → c.station = 0 → o = .origin) ∧
  (¬ off → c.station = s.settings.station →
    (own = none → o = .unknown) ∧
    (∀ y os n, own = some y → y.body = .pending os n → o = .pending (y.oEnd - y.oStart) y.close y.stop y.lane) ∧
    (∀ y ps m, own = some y → y.body = .final ps m → o = .record (y.lineageWith ps))) ∧
  (¬ off → c.station ≠ s.settings.station →
    (∀ y, held = some y → o = .record y) ∧ (held = none → o = if s.bus.muted then .unreachable else .looking))

theorem Settles.of_find {s u : State} (hs : u.settings = s.settings) (hc : u.ctr = s.ctr) (hm : u.bus.muted = s.bus.muted)
    (hf : ∀ d, (u.lch.cache.find? fun y => y.coil == d) = s.lch.cache.find? fun y => y.coil == d) {c : Coil} {o : PlaceOutcome}
    (h : u.Settles c o) : s.Settles c o := by
  unfold State.Settles at h ⊢
  rwa [hs, hc, hm, hf c] at h

/-- The outcome, and the cache with the use of a record noted. -/
theorem upOutcome_settles (c : Coil) (s : State) : ∃ (o : PlaceOutcome) (cache : List LineageRec),
    upOutcome c s = (o, { s with lch := { s.lch with cache } }) ∧ s.Settles c o ∧
    (∀ d, (cache.find? fun y => y.coil == d) = s.lch.cache.find? fun y => y.coil == d) ∧
    (¬ (c.station = 0 ∨ c.station = 63) → c.station ≠ s.settings.station → ∀ r, (s.lch.cache.find? fun y => y.coil == c) = some r →
      cache = r :: s.lch.cache.filter fun x => x.coil != c) ∧
    ((c.station = 0 ∨ c.station = 63) ∨ c.station = s.settings.station ∨ (s.lch.cache.find? fun y => y.coil == c) = none →
      cache = s.lch.cache) := by
  have hunknown : Coil.unknown.station = 0 := rfl
  by_cases hoff : c.station = 0 ∨ c.station = 63
  · by_cases hu : c = .unknown ∨ c.station = 63
    · refine ⟨.unknown, s.lch.cache, if_pos hu, ⟨fun _ => rfl, fun hne h0 => ?_, fun h => absurd hoff h, fun h => absurd hoff h⟩,
        fun _ => rfl, fun h => absurd hoff h, fun _ => rfl⟩
      rcases hu with hu | hu
      · exact absurd hu hne
      · rw [h0] at hu
        exact absurd hu (by decide)
    · have h0 : c.station = 0 := hoff.resolve_right fun h => hu (.inr h)
      exact ⟨.origin, s.lch.cache, (if_neg hu).trans (if_pos h0),
        ⟨fun h => absurd h hu, fun _ _ => rfl, fun h => absurd hoff h, fun h => absurd hoff h⟩, fun _ => rfl,
        fun h => absurd hoff h, fun _ => rfl⟩
  · obtain ⟨h0, h63⟩ := not_or.1 hoff
    have hu : ¬ (c = .unknown ∨ c.station = 63) := fun h => h.elim (fun h => h0 (h ▸ hunknown)) h63
    have hstep : ∀ {u : PlaceOutcome × State}, (if c.station = s.settings.station then
        match s.findExit c with
        | none => (.unknown, s)
        | some r =>
          match r.lineage with
          | some l => (.record l, s)
          | none => (.pending r.length r.close r.stop r.lane, s)
      else
        let hit := s.lookupCache c
        match hit.1 with
        | some r => (.record r, hit.2)
        | none => (if s.bus.muted then .unreachable else .looking, s)) = u → upOutcome c s = u :=
      fun h => (if_neg hu).trans ((if_neg h0).trans h)
    by_cases hown : c.station = s.settings.station
    · cases hf : s.ctr.exits.find? fun y => y.coil == c with
      | none =>
        have hfind : s.findExit c = none := hf
        refine ⟨.unknown, s.lch.cache, hstep (by rw [if_pos hown, hfind]), ⟨fun h => absurd h hu, fun _ h => absurd h h0,
          fun _ _ => ⟨fun _ => rfl, fun y _ _ h => ?_, fun y _ _ h => ?_⟩, fun _ h => absurd hown h⟩, fun _ => rfl,
          fun _ h => absurd hown h, fun _ => rfl⟩
        · rw [hf] at h
          cases h
        · rw [hf] at h
          cases h
      | some r =>
        have hfind : s.findExit c = some r := hf
        cases hb : r.body with
        | pending os n =>
          have hl : r.lineage = none := by simp [ExitRec.lineage, hb]
          refine ⟨.pending r.length r.close r.stop r.lane, s.lch.cache, hstep (by rw [if_pos hown, hfind]; simp only [hl]),
            ⟨fun h => absurd h hu, fun _ h => absurd h h0, fun _ _ => ⟨fun h => ?_, fun y _ _ h _ => ?_, fun y _ _ h hy => ?_⟩,
              fun _ h => absurd hown h⟩, fun _ => rfl, fun _ h => absurd hown h, fun _ => rfl⟩
          · rw [hf] at h
            cases h
          · rw [hf] at h
            cases h
            rfl
          · rw [hf] at h
            cases h
            rw [hb] at hy
            cases hy
        | final ps m =>
          have hl : r.lineage = some (r.lineageWith ps) := by simp [ExitRec.lineage, hb, ExitRec.lineageWith, ExitRec.length]
          refine ⟨.record (r.lineageWith ps), s.lch.cache, hstep (by rw [if_pos hown, hfind]; simp only [hl]),
            ⟨fun h => absurd h hu, fun _ h => absurd h h0, fun _ _ => ⟨fun h => ?_, fun y _ _ h hy => ?_, fun y _ _ h hy => ?_⟩,
              fun _ h => absurd hown h⟩, fun _ => rfl, fun _ h => absurd hown h, fun _ => rfl⟩
          · rw [hf] at h
            cases h
          · rw [hf] at h
            cases h
            rw [hb] at hy
            cases hy
          · rw [hf] at h
            cases h
            rw [hb] at hy
            cases hy
            rfl
    · cases hf : s.lch.cache.find? fun y => y.coil == c with
      | none =>
        refine ⟨if s.bus.muted then .unreachable else .looking, s.lch.cache, hstep (by rw [if_neg hown, lookupCache_miss hf]),
          ⟨fun h => absurd h hu, fun _ h => absurd h h0, fun _ h => absurd h hown, fun _ _ => ⟨fun y h => ?_, fun _ => rfl⟩⟩,
          fun _ => rfl, fun _ _ r h => (nomatch h), fun _ => rfl⟩
        rw [hf] at h
        cases h
      | some r =>
        refine ⟨.record r, r :: s.lch.cache.filter fun x => x.coil != c, hstep (by rw [if_neg hown, lookupCache_hit hf]),
          ⟨fun h => absurd h hu, fun _ h => absurd h h0, fun _ h => absurd h hown, fun _ _ => ⟨fun y h => ?_, fun h => ?_⟩⟩,
          find?_touched hf, fun _ _ y h => ?_, fun h => ?_⟩
        · rw [hf] at h
          cases h
          rfl
        · rw [hf] at h
          cases h
        · cases h
          rfl
        · rcases h with h | h | h
          · exact absurd h hoff
          · exact absurd h hown
          · cases h

end Sys2Proof.Machine

/-! PROOFS. GENEALOGY and COIL-LIST taken by the idle engine, and an upward walk place by place (chapter 10). -/

namespace Sys2Proof.Machine

/-! ### The requests taken (R159, R167, R172) -/

section
variable {s : State} (hr : s.receives = true) (ha : s.con.assembler = none) (hc : s.con.complete = none) (hidle : s.req.engine = .idle)
include hr ha hc hidle

theorem exec_genealogy {coil : Coil} {direction depth : Byte} (hdir : direction.toNat < 2) (h1 : 1 ≤ depth.toNat)
    (h8 : depth.toNat ≤ 8) :
    exec (.genealogy coil direction depth) s = commit s (some (takeGenealogy coil (direction == 0) depth.toNat s)) := by
  refine (if_pos hdir).trans ((requestArrives_taken (State.linkRuns_of_receives hr) ha hc
    (q := .genealogy coil (direction == 0) depth.toNat) (by simpa [Request.inRange] using ⟨h1, h8⟩)).trans ?_)
  rw [takeRequestRecord_running (State.running_of_receives hr) (by simp)]
  exact congrArg (fun u => commit s (some u)) (if_pos hidle)

theorem exec_coilList {mode : ListMode} {unstamped : Bool} (hq : (Request.coilList mode unstamped).inRange = true) :
    exec (.coilList mode unstamped) s = commit s (some (takeCoilList mode unstamped s)) := by
  refine (requestArrives_taken (State.linkRuns_of_receives hr) ha hc hq).trans ?_
  rw [takeRequestRecord_running (State.running_of_receives hr) (by simp)]
  exact congrArg (fun u => commit s (some u)) (if_pos hidle)

end

/-- The records a window admits, and the last n of those let through (R167). -/
theorem selectRecords_window (t1 t2 : BitVec 48) (unstamped : Bool) (rs : List ExitRec) :
    selectRecords (.window t1 t2) unstamped rs = rs.filter fun r =>
      if r.close = 0 then unstamped else decide (t1.toNat ≤ r.close) && decide (r.close ≤ t2.toNat) := by
  simp only [selectRecords, Bool.decide_and]

theorem selectRecords_last (n : BitVec 16) (unstamped : Bool) (rs : List ExitRec) : selectRecords (.last n) unstamped rs =
    ((rs.filter fun r => unstamped || r.close != 0).reverse.take n.toNat).reverse := by
  have hp : (fun r : ExitRec => decide (r.close ≠ 0) || unstamped) = fun r => unstamped || r.close != 0 := by
    funext r
    rw [Bool.or_comm]
    exact congrArg (unstamped || ·) (Bool.eq_iff_iff.2 (by rw [decide_eq_true_iff, bne_iff_ne]))
  rw [List.take_reverse, List.reverse_reverse]
  unfold selectRecords
  rw [hp]

/-! ### An upward walk (R160, R161) -/

/-- `u` is `s`, a walk with request side `r`, after the pieces `l` of a record of coil `parent` gave their places (R161, R163). -/
def Expanded (s : State) (r : Req) (depth : Nat) (parent : Coil) (l : List Piece) (u : State) : Prop :=
  ∃ (new : List Place) (cache : List LineageRec), u = { s with lch := { s.lch with cache }, req := r.withPlaces new } ∧
    new.map (fun q => (q.coil, q.depth, q.parent, q.link)) = l.map (fun x => (x.source, depth, parent, some x)) ∧
    (∀ c, (cache.find? fun y => y.coil == c) = s.lch.cache.find? fun y => y.coil == c) ∧
    ∀ q ∈ new.take (256 - r.walk.places.length), s.Settles q.coil q.outcome

section
variable {s : State} {r : Req} {depth : Nat} {parent : Coil} {l : List Piece} {u : State}

theorem expandPiece_known {x : Piece} (h : u.req.walk.truncated = true ∨
    x.source ≠ .unknown ∧ ∃ q ∈ u.req.walk.places, q.coil = x.source) : expandPiece depth parent u x = u :=
  if_pos (h.imp_right fun h => h.imp_right fun ⟨q, hq, hc⟩ => List.any_eq_true.2 ⟨q, hq, beq_iff_eq.2 hc⟩)

/-- A piece with a new source is settled where there is room, and its place is added. -/
theorem expandPiece_new {x : Piece} (ht : u.req.walk.truncated = false)
    (h : ¬ (x.source ≠ .unknown ∧ ∃ q ∈ u.req.walk.places, q.coil = x.source)) : expandPiece depth parent u x =
      let y := if 256 ≤ u.req.walk.places.length then (.unknown, u) else upOutcome x.source u
      addPlace y.2 ⟨x.source, depth, parent, some x, y.1⟩ := by
  refine if_neg ?_
  rintro (h' | ⟨hu, h'⟩)
  · rw [ht] at h'
    cases h'
  · obtain ⟨q, hq, hc⟩ := List.any_eq_true.1 h'
    exact h ⟨hu, q, hq, beq_iff_eq.1 hc⟩

theorem Expanded.piece (ht : r.walk.truncated = false) (h : Expanded s r depth parent l u) (x : Piece) :
    Expanded s r depth parent (metItems Piece.source r.walk.places l x) (expandPiece depth parent u x) := by
  obtain ⟨new, cache, rfl, hnames, hfind, hsettled⟩ := h
  have hmet : (∃ y ∈ l, y.source = x.source) ↔ ∃ q ∈ new, q.coil = x.source := by
    have hcoils : new.map (·.coil) = l.map (·.source) := by
      have := congrArg (List.map Prod.fst) hnames
      simpa only [List.map_map, Function.comp_def] using this
    rw [show (∃ y ∈ l, y.source = x.source) ↔ x.source ∈ l.map (·.source) by simp,
      show (∃ q ∈ new, q.coil = x.source) ↔ x.source ∈ new.map (·.coil) by simp, hcoils]
  by_cases hfits : new.length ≤ 256 - r.walk.places.length
  · by_cases hknown : x.source ≠ .unknown ∧ ((∃ q ∈ r.walk.places, q.coil = x.source) ∨ ∃ y ∈ l, y.source = x.source)
    · rw [metItems, if_pos hknown, expandPiece_known]
      · exact ⟨new, cache, rfl, hnames, hfind, hsettled⟩
      · refine .inr ⟨hknown.1, ?_⟩
        rw [Req.withPlaces_fits hfits]
        rcases hknown.2 with ⟨q, hq, hc⟩ | hy
        · exact ⟨q, List.mem_append_left _ hq, hc⟩
        · obtain ⟨q, hq, hc⟩ := hmet.1 hy
          exact ⟨q, List.mem_append_right _ hq, hc⟩
    · have hfresh : ¬ (x.source ≠ .unknown ∧ ∃ q ∈ r.walk.places ++ new, q.coil = x.source) := by
        rintro ⟨hu, q, hq, hc⟩
        refine hknown ⟨hu, ?_⟩
        rcases List.mem_append.1 hq with hq | hq
        · exact .inl ⟨q, hq, hc⟩
        · exact .inr (hmet.2 ⟨q, hq, hc⟩)
      have hstep : expandPiece depth parent { s with lch := { s.lch with cache }, req := r.withPlaces new } x =
          let v : State := { s with lch := { s.lch with cache }, req := r.withPlaces new }
          let y := if 256 ≤ (r.walk.places ++ new).length then (.unknown, v) else upOutcome x.source v
          addPlace y.2 ⟨x.source, depth, parent, some x, y.1⟩ := by
        have hplaces : (r.withPlaces new).walk.places = r.walk.places ++ new := by rw [Req.withPlaces_fits hfits]
        rw [expandPiece_new (by rw [Req.withPlaces_fits hfits]; exact ht) (by rw [hplaces]; exact hfresh)]
        simp only [hplaces]
      have hadd : ∀ (K : List LineageRec) (o : PlaceOutcome),
          addPlace { s with lch := { s.lch with cache := K }, req := r.withPlaces new } ⟨x.source, depth, parent, some x, o⟩ =
            { s with lch := { s.lch with cache := K }, req := r.withPlaces (new ++ [⟨x.source, depth, parent, some x, o⟩]) } :=
        fun K o => addPlace_new (s := { s with lch := { s.lch with cache := K } }) ht hfits (by
          by_cases hu : x.source = .unknown
          · exact .inl hu
          · exact .inr fun h => hfresh ⟨hu, h⟩)
      have hnames' : ∀ o, (new ++ [(⟨x.source, depth, parent, some x, o⟩ : Place)]).map (fun q => (q.coil, q.depth, q.parent, q.link)) =
          (l ++ [x]).map (fun x => (x.source, depth, parent, some x)) := fun o => by
        rw [List.map_append, List.map_append, hnames]
        rfl
      rw [metItems, if_neg hknown, hstep]
      by_cases hroom : 256 ≤ (r.walk.places ++ new).length
      · simp only [if_pos hroom, hadd]
        refine ⟨_, cache, rfl, hnames' _, hfind, fun q hq => hsettled q ?_⟩
        rw [List.length_append] at hroom
        rwa [List.take_append_of_le_length (by omega)] at hq
      · obtain ⟨o, K, hup, hset, hK, -⟩ := upOutcome_settles x.source
          { s with lch := { s.lch with cache }, req := r.withPlaces new }
        have hset' : s.Settles x.source o := Settles.of_find (s := s)
          (u := { s with lch := { s.lch with cache }, req := r.withPlaces new }) rfl rfl rfl hfind hset
        simp only [if_neg hroom, hup, hadd]
        refine ⟨_, K, rfl, hnames' _, fun c => (hK c).trans (hfind c), fun q hq => ?_⟩
        rcases List.mem_append.1 (List.mem_of_mem_take hq) with hq | hq
        · exact hsettled q (by rwa [List.take_of_length_le hfits])
        · obtain rfl := List.mem_singleton.1 hq
          exact hset'
  · have hfull := Nat.not_le.1 hfits
    rw [expandPiece_known (.inl (Req.withPlaces_truncated hfull))]
    unfold metItems
    split
    · exact ⟨new, cache, rfl, hnames, hfind, hsettled⟩
    · refine ⟨new ++ [⟨x.source, depth, parent, some x, .unknown⟩], cache, by rw [Req.withPlaces_full hfull], ?_, hfind, ?_⟩
      · rw [List.map_append, List.map_append, hnames]
        rfl
      · rw [List.take_append_of_le_length (Nat.le_of_lt hfull)]
        exact hsettled

theorem Expanded.pieces (ht : r.walk.truncated = false) (xs : List Piece) (h : Expanded s r depth parent l u) :
    Expanded s r depth parent (xs.foldl (metItems Piece.source r.walk.places) l) (xs.foldl (expandPiece depth parent) u) := by
  induction xs generalizing l u with
  | nil => exact h
  | cons x xs ih => exact ih (h.piece ht x)

end

section
variable {s : State} (he : s.req.engine = .walkingUp)
include he

theorem walkStep_up : walkStep s = upStep s := by
  unfold walkStep
  rw [he]

variable {p : Place} (hp : s.req.walk.places[s.req.walk.expanded]? = some p)
include hp

theorem walkStep_looking (ho : p.outcome = .looking) : walkStep s = none := by
  rw [walkStep_up he]
  simp only [upStep, hp, ho]

theorem walkStep_passed (ho : p.outcome ≠ .looking)
    (h : (∀ r, p.outcome ≠ .record r) ∨ s.req.walk.depth ≤ p.depth ∨ s.req.walk.truncated = true) : walkStep s =
      some { s with req := { s.req with walk := { s.req.walk with expanded := s.req.walk.expanded + 1 } } } := by
  rw [walkStep_up he]
  simp only [upStep, hp]
  split
  · rename_i hl
    exact absurd hl ho
  · rename_i r hrec
    refine if_neg ?_
    rintro ⟨hd, ht⟩
    rcases h with h | h | h
    · exact h r hrec
    · omega
    · simp [h] at ht
  · rfl

theorem walkStep_expands {r : LineageRec} (ho : p.outcome = .record r) (hd : p.depth < s.req.walk.depth)
    (ht : s.req.walk.truncated = false) : walkStep s = some (r.pieces.foldl (expandPiece (p.depth + 1) p.coil)
      { s with req := { s.req with walk := { s.req.walk with expanded := s.req.walk.expanded + 1 } } }) := by
  rw [walkStep_up he]
  simp only [upStep, hp, ho]
  exact if_pos ⟨hd, by simp [ht]⟩

end

/-- Settles O50: the requests taken, and the steps of an upward walk. -/
theorem walkAndListingTaken : Obligations.WalkAndListingTaken := by
  refine ⟨fun s hr ha hc hidle => ⟨?_, fun t1 t2 unstamped => ?_, fun n unstamped h1 h1024 => ?_⟩, ?_⟩
  · intro coil direction depth hdir h1 h8 own held off
    rw [exec_genealogy hr ha hc hidle hdir h1 h8]
    by_cases hup : direction = 0
    · obtain ⟨o, cache, hout, hset, -, htouch, hkept⟩ := upOutcome_settles coil s
      have hb : (direction == 0) = true := beq_iff_eq.2 hup
      have htake : takeGenealogy coil (direction == 0) depth.toNat s = { s with
          lch := { s.lch with cache }
          req := { s.req with
            engine := .walkingUp, emitted := 0
            play := { PlayRequest.empty with coil, depth := depth.toNat }
            walk := ⟨depth.toNat, [⟨coil, 0, .unknown, none, o⟩], 0, false, 0⟩ } } := by
        simp only [takeGenealogy, hb, if_true, hout]
        rfl
      obtain ⟨t, ht, hcar⟩ := commit_of_eq (s := s) (congrArg some htake)
      obtain ⟨hunk, horigin, hown, hother⟩ := hset
      rw [if_pos hup]
      refine ⟨t, o, cache, ht, hcar, fun h => absurd hup h, fun _ => ⟨hunk, horigin, hown, fun h0 hst => ⟨fun r hh => ?_, ?_⟩, hkept⟩⟩
      · exact ⟨(hother h0 hst).1 r hh, htouch h0 hst r hh⟩
      · exact (hother h0 hst).2
    · have hb : (direction == 0) = false := beq_eq_false_iff_ne.2 hup
      have htake : takeGenealogy coil (direction == 0) depth.toNat s = { s with req := { s.req with
            engine := .walkingDown, emitted := 0
            play := { PlayRequest.empty with coil, depth := depth.toNat }
            walk := ⟨depth.toNat, [⟨coil, 0, .unknown, none, .root⟩], 0, false, 0⟩ } } := by
        simp only [takeGenealogy, hb, Bool.false_eq_true, if_false]
        rfl
      obtain ⟨t, ht, hcar⟩ := commit_of_eq (s := s) (congrArg some htake)
      rw [if_neg hup]
      exact ⟨t, .root, s.lch.cache, ht, hcar, fun _ => ⟨rfl, rfl⟩, fun h => absurd h hup⟩
  · rw [exec_coilList hr ha hc hidle rfl]
    exact commit_of_eq (congrArg some (congrArg (fun x => State.setReq s fun r => { r with engine := .listing, listing := x, emitted := 0 })
      (selectRecords_window ..)))
  · rw [exec_coilList hr ha hc hidle (by simpa [Request.inRange] using ⟨h1, h1024⟩)]
    exact commit_of_eq (congrArg some (congrArg (fun x => State.setReq s fun r => { r with engine := .listing, listing := x, emitted := 0 })
      (selectRecords_last ..)))
  · intro s p he hp w passed
    refine ⟨walkStep_looking he hp, walkStep_passed he hp, ?_⟩
    intro r ho hd ht taken
    have hstart : Expanded s passed.req (p.depth + 1) p.coil [] passed :=
      ⟨[], s.lch.cache, by rw [Req.withPlaces_nil], rfl, fun _ => rfl, fun q hq => by simp at hq⟩
    obtain ⟨new, cache, hu, hnames, hfind, hsettled⟩ := hstart.pieces (r := passed.req) ht r.pieces
    exact ⟨new, cache, (walkStep_expands he hp ho hd ht).trans (congrArg some hu), hnames, hfind, hsettled⟩

end Sys2Proof.Machine

/-! PROOFS. A downward walk and its collector (R163 to R166). -/

namespace Sys2Proof.Machine

/-! ### Expansion of a place (R164) -/

/-- The place a child on the own exit table gives. -/
def ExitRec.childPlace (p : Place) (r : ExitRec) : Place :=
  ⟨r.coil, p.depth + 1, p.coil, none, .child r.lane (r.oEnd - r.oStart) (!r.body.isFinal)⟩

/-- The request side after the own exit table was searched for children of place `p` (R106, R164). -/
def State.searched (s : State) (p : Place) : Req :=
  s.req.withPlaces (((s.ctr.exits.filter (ExitRec.madeFrom p.coil)).foldl (metItems ExitRec.coil s.req.walk.places) []).map
    (ExitRec.childPlace p))

theorem foldl_placeChild {s : State} (ht : s.req.walk.truncated = false) (p : Place) :
    (ownChildren s p.coil).foldl (placeChild (p.depth + 1) p.coil) s = { s with req := s.searched p } := by
  unfold ownChildren
  rw [List.foldl_map]
  have h := foldl_addPlace (ExitRec.childPlace p) s ht (s.ctr.exits.filter (ExitRec.madeFrom p.coil)) []
  rw [List.map_nil, Req.withPlaces_nil] at h
  exact h

/-- With the collector idle, new places change the set and the mark alone. -/
theorem Req.withPlaces_idle {r : Req} (h : r.collector.state = .idle) (new : List Place) :
    (r.withPlaces new).collector = r.collector ∧ (r.withPlaces new).walk.expanded = r.walk.expanded ∧
      (r.withPlaces new).walk.dropped = r.walk.dropped := by
  unfold Req.withPlaces
  simp [h]

section
variable {s : State} {p : Place} (hidle : s.req.collector.state = .idle) (ht : s.req.walk.truncated = false)
include hidle ht

theorem startDescent_truncated (hfull : (s.searched p).walk.truncated = true) : startDescent p s = { s with
    req := { s.searched p with walk := { (s.searched p).walk with expanded := s.req.walk.expanded + 1 } } } := by
  have hexp : (s.searched p).walk.expanded = s.req.walk.expanded := (Req.withPlaces_idle hidle _).2.1
  unfold startDescent
  rw [foldl_placeChild ht, ← hexp]
  exact if_pos hfull

theorem startDescent_offers (hfull : (s.searched p).walk.truncated = false) (hm : s.bus.muted = false) : startDescent p s = { s with
    req := { s.searched p with
      collector := { s.req.collector with gen := s.req.collector.gen + 1, state := .offering, tries := 1, parts := [] } }
    bus := { s.bus with waiting := s.bus.waiting ++ [⟨⟨.descentQuery, 63,
      BitVec.ofNat 8 (192 + (s.req.collector.gen + 1).toNat), coilBytes 0 p.coil⟩, .reqDescent, 0, 0, false, false⟩] } } := by
  have hcol : (s.searched p).collector = s.req.collector := (Req.withPlaces_idle hidle _).1
  unfold startDescent
  rw [foldl_placeChild ht, ← hcol]
  exact (if_neg (by simp [hfull])).trans ((if_neg (by simp [State.setCollector, State.setReq, hm])).trans rfl)

theorem startDescent_muted (hfull : (s.searched p).walk.truncated = false) (hm : s.bus.muted = true) : startDescent p s = { s with
    req := { s.searched p with
      collector := ⟨s.req.collector.gen + 1, .idle, 0, 0, 0, []⟩
      walk := { (s.searched p).walk with expanded := s.req.walk.expanded + 1, dropped := s.req.walk.dropped + 1 } } } := by
  obtain ⟨hcol, hexp, hdrop⟩ : (s.searched p).collector = s.req.collector ∧ (s.searched p).walk.expanded = s.req.walk.expanded ∧
    (s.searched p).walk.dropped = s.req.walk.dropped := Req.withPlaces_idle hidle _
  unfold startDescent
  rw [foldl_placeChild ht, ← hcol, ← hexp, ← hdrop]
  exact (if_neg (by simp [hfull])).trans ((if_pos hm).trans rfl)

end

section
variable {s : State} (he : s.req.engine = .walkingDown)
include he

theorem walkStep_down : walkStep s = downStep s := by
  unfold walkStep
  rw [he]

theorem walkStep_waits (h : s.req.collector.state ≠ .idle ∨ s.req.walk.places[s.req.walk.expanded]? = none) : walkStep s = none := by
  rw [walkStep_down he]
  unfold downStep
  by_cases hidle : s.req.collector.state = .idle
  · have hp := h.resolve_left (not_not.2 hidle)
    exact (if_neg (not_not.2 hidle)).trans (by simp only [Walk.place, hp])
  · exact if_pos hidle

variable {p : Place} (hidle : s.req.collector.state = .idle) (hp : s.req.walk.places[s.req.walk.expanded]? = some p)
include hidle hp

theorem walkStep_place : walkStep s = if p.depth < s.req.walk.depth ∧ !s.req.walk.truncated ∧ p.coil ≠ .unknown then
    some (startDescent p s)
    else some { s with req := { s.req with walk := { s.req.walk with expanded := s.req.walk.expanded + 1 } } } := by
  rw [walkStep_down he]
  unfold downStep
  refine (if_neg (not_not.2 hidle)).trans ?_
  simp only [Walk.place, hp]
  rfl

theorem walkStep_due (hd : p.depth < s.req.walk.depth) (ht : s.req.walk.truncated = false) (hc : p.coil ≠ .unknown) :
    walkStep s = some (startDescent p s) := by
  rw [walkStep_place he hidle hp]
  exact if_pos ⟨hd, by simp [ht], hc⟩

theorem walkStep_notDue (h : s.req.walk.depth ≤ p.depth ∨ s.req.walk.truncated = true ∨ p.coil = .unknown) : walkStep s =
    some { s with req := { s.req with walk := { s.req.walk with expanded := s.req.walk.expanded + 1 } } } := by
  rw [walkStep_place he hidle hp]
  refine if_neg ?_
  rintro ⟨hd, ht, hc⟩
  rcases h with h | h | h
  · omega
  · simp [h] at ht
  · exact hc h

end

/-- The exit records made from a coil other than 0:0 (R106). -/
theorem madeFrom_eq {c : Coil} (hc : c ≠ .unknown) (r : ExitRec) : r.madeFrom c = match r.body with
    | .pending os _ => os.any fun v => v.coil == c
    | .final ps _ => ps.any fun x => x.source == c := by
  have hne := bne_iff_ne.2 hc
  unfold ExitRec.madeFrom
  cases r.body with
  | pending os n => exact (congrArg (· && _) hne).trans (Bool.true_and _)
  | final ps m => exact (congrArg (· && _) hne).trans (Bool.true_and _)

/-! ### Incomplete stations (R165) -/

/-- The highest of some numbers is one of them. -/
theorem foldl_max_spec {α : Type} (f : α → Nat) : ∀ (l : List α) (m : Nat),
    (m ≤ l.foldl (fun m x => max m (f x)) m ∧ ∀ z ∈ l, f z ≤ l.foldl (fun m x => max m (f x)) m) ∧
    (l.foldl (fun m x => max m (f x)) m = m ∨ ∃ y ∈ l, f y = l.foldl (fun m x => max m (f x)) m)
  | [], m => ⟨⟨Nat.le_refl m, fun z hz => nomatch hz⟩, .inl rfl⟩
  | x :: l, m => by
    obtain ⟨⟨hm, hall⟩, hat⟩ := foldl_max_spec f l (max m (f x))
    rw [List.foldl_cons]
    generalize l.foldl (fun m x => max m (f x)) (max m (f x)) = top at *
    refine ⟨⟨by omega, fun z hz => ?_⟩, ?_⟩
    · rcases List.mem_cons.1 hz with rfl | hz
      · omega
      · exact hall z hz
    · rcases hat with h | ⟨y, hy, h⟩
      · by_cases hx : m ≤ f x
        · exact .inr ⟨x, .head _, by omega⟩
        · exact .inl (by omega)
      · exact .inr ⟨y, .tail _ hy, h⟩

theorem incomplete_iff {parts : List (BitVec 6 × Nat × Bool)} {x : BitVec 6 × Nat × Bool} (hx : x ∈ parts) :
    incomplete parts x.1 = true ↔
      let mine := parts.filter fun y => y.1 == x.1
      (∃ y ∈ mine, y.2.2 = true ∧ ∀ z ∈ mine, z.2.1 ≤ y.2.1) ∨ ∃ y ∈ mine, mine.length < y.2.1 + 1 := by
  let mine := parts.filter fun y => y.1 == x.1
  change incomplete parts x.1 = true ↔
    (∃ y ∈ mine, y.2.2 = true ∧ ∀ z ∈ mine, z.2.1 ≤ y.2.1) ∨ ∃ y ∈ mine, mine.length < y.2.1 + 1
  have hmine : x ∈ mine := List.mem_filter.2 ⟨hx, beq_iff_eq.2 rfl⟩
  obtain ⟨⟨-, hall⟩, hat⟩ := foldl_max_spec (fun y : BitVec 6 × Nat × Bool => y.2.1) mine 0
  have hinc : incomplete parts x.1 = ((mine.any fun y => y.2.1 == mine.foldl (fun m y => max m y.2.1) 0 && y.2.2) ||
    decide (mine.length < mine.foldl (fun m y => max m y.2.1) 0 + 1)) := rfl
  rw [hinc]
  generalize mine.foldl (fun m y => max m y.2.1) 0 = top at *
  have htop : ∃ y ∈ mine, y.2.1 = top := by
    rcases hat with h | h
    · exact ⟨x, hmine, Nat.le_antisymm (hall x hmine) (h ▸ Nat.zero_le _)⟩
    · exact h
  rw [Bool.or_eq_true, List.any_eq_true, decide_eq_true_iff]
  refine or_congr (exists_congr fun y => and_congr_right fun hy => ?_) ⟨fun h => ?_, fun ⟨y, hy, h⟩ => ?_⟩
  · rw [Bool.and_eq_true, beq_iff_eq, and_comm]
    refine and_congr_right fun _ => ⟨fun h z hz => h ▸ hall z hz, fun h => Nat.le_antisymm (hall y hy) ?_⟩
    obtain ⟨z, hz, rfl⟩ := htop
    exact h z hz
  · obtain ⟨y, hy, rfl⟩ := htop
    exact ⟨y, hy, h⟩
  · have := hall y hy
    omega

theorem anyIncomplete_iff (parts : List (BitVec 6 × Nat × Bool)) : anyIncomplete parts = true ↔ ∃ x ∈ parts,
    let mine := parts.filter fun y => y.1 == x.1
    (∃ y ∈ mine, y.2.2 = true ∧ ∀ z ∈ mine, z.2.1 ≤ y.2.1) ∨ ∃ y ∈ mine, mine.length < y.2.1 + 1 := by
  unfold anyIncomplete
  rw [List.any_eq_true]
  exact exists_congr fun x => and_congr_right incomplete_iff

/-! ### Replies and timers (R165, R166) -/

theorem exec_descentReply {s : State} {source dest : BitVec 6} {tag : Byte} {payload : List Byte} {x : DescentPart}
    (hwf : (Instr.descentReply source dest tag payload).wf = true) (h0 : source ≠ 0) (h63 : source ≠ 63)
    (hdest : dest = s.settings.station ∨ dest = 63) (hx : parseDescentPart payload = some x) :
    exec (.descentReply source dest tag payload) s = whenReceiving s (descentReply source tag x (s.heardFrom source)) := by
  change whenReceiving s (frameArrives (some .descentReply) source dest tag payload s) = _
  rw [frameArrives_wf hwf, receiveFrame_dispatch h0 h63 (.inr (by simp)) hdest]
  simp only [dispatch, hx]

/-- A part that answers no query in hand, or is taken already, passes (R165). -/
theorem descentReply_passed {s : State} {source : BitVec 6} {tag : Byte} {x : DescentPart}
    (h : s.req.collector.state ≠ .collecting ∨ ¬ (tag = BitVec.ofNat 8 (192 + s.req.collector.gen.toNat) ∧
      ∀ y ∈ s.req.collector.parts, y.1 = source → y.2.1 ≠ x.index)) : descentReply source tag x s = s := by
  refine if_neg ?_
  rintro ⟨hcol, htag, -, hparts⟩
  rcases h with h | h
  · exact h hcol
  · refine h ⟨htag, fun y hy hsrc hidx => ?_⟩
    have hany : (s.req.collector.parts.any fun y => y.1 == source && y.2.1 == x.index) = true :=
      List.any_eq_true.2 ⟨y, hy, by simp [hsrc, hidx]⟩
    simp [hany] at hparts

/-- A part that answers the query in hand (R165, R166). -/
theorem descentReply_taken {s : State} {source : BitVec 6} {tag : Byte} {x : DescentPart} {p : Place}
    (hcol : s.req.collector.state = .collecting) (htag : tag = BitVec.ofNat 8 (192 + s.req.collector.gen.toNat))
    (hown : source ≠ s.settings.station) (hparts : ∀ y ∈ s.req.collector.parts, y.1 = source → y.2.1 ≠ x.index)
    (hp : s.req.walk.places[s.req.walk.expanded]? = some p) : descentReply source tag x s =
      (x.children.filter fun c => c.coil.station == source).foldl (placeChild (p.depth + 1) p.coil) { s with req := { s.req with
        collector := { s.req.collector with
          quiet := 100, parts := s.req.collector.parts ++ [(source, x.index, x.more)] } } } := by
  have hany : (s.req.collector.parts.any fun y => y.1 == source && y.2.1 == x.index) = false := by
    rw [List.any_eq_false]
    intro y hy h
    rw [Bool.and_eq_true, beq_iff_eq, beq_iff_eq] at h
    exact hparts y hy h.1 h.2
  have hfilter : (x.children.filter fun y => y.coil.station == source && y.coil.station != s.settings.station) =
      x.children.filter fun c => c.coil.station == source := by
    refine List.filter_congr fun c _ => ?_
    by_cases hc : c.coil.station = source
    · simp [hc, hown]
    · simp [hc]
  unfold descentReply
  refine (if_pos ⟨hcol, htag, hown, by simp [hany]⟩).trans ?_
  simp only [Walk.place, hp, ← hfilter]
  rfl

theorem exec_quietTimer {s : State} (hr : s.running = true) (hcol : s.req.collector.state = .collecting)
    (hq : s.req.collector.quiet = 0) : exec .quietTimerExpiry s = commit s (some (quietEnds s)) :=
  congrArg (commit s) (if_pos (by simp [State.collecting, hr, hcol, hq]))

theorem exec_overallTimer {s : State} (hr : s.running = true) (hcol : s.req.collector.state = .collecting)
    (ho : s.req.collector.overall = 0) : exec .overallTimerExpiry s = commit s (some (endDescent 0 s)) :=
  congrArg (commit s) (if_pos (by simp [State.collecting, hr, hcol, ho]))

/-- The children of a part that come from its station, each met once (R166). -/
theorem metItems_children {source : BitVec 6} (h0 : source ≠ 0) (places : List Place) (cs : List Child) :
    (cs.filter fun c => c.coil.station == source).foldl (metItems Child.coil places) [] =
      (cs.filter fun c => c.coil.station == source).foldl
        (fun l c => if (∃ q ∈ places, q.coil = c.coil) ∨ ∃ y ∈ l, y.coil = c.coil then l else l ++ [c]) [] := by
  refine List.foldl_ext _ _ _ fun l c hc => ?_
  have hne : c.coil ≠ .unknown := fun hu => h0 (by
    have := beq_iff_eq.1 (List.mem_filter.1 hc).2
    rw [← this, hu]
    rfl)
  exact if_congr (and_iff_right hne) rfl rfl

/-- Settles O51: the steps of a downward walk, the replies, and the timers. -/
theorem descendantsCollected : Obligations.DescendantsCollected := by
  refine ⟨?_, ?_, ?_⟩
  · intro s he w col passed
    refine ⟨walkStep_waits he, fun p hidle hp => ⟨walkStep_notDue he hidle hp, ?_⟩⟩
    intro hd ht hc made taken grown
    have hmade : s.ctr.exits.filter (ExitRec.madeFrom p.coil) = made := List.filter_congr fun r _ => madeFrom_eq hc r
    have hgrown : s.searched p = grown := by
      unfold State.searched
      rw [hmade]
      rfl
    rw [walkStep_due he hidle hp hd ht hc, ← hgrown]
    exact ⟨fun h => congrArg some (startDescent_truncated hidle ht h), fun h hm => congrArg some (startDescent_offers hidle ht h hm),
      fun h hm => congrArg some (startDescent_muted hidle ht h hm)⟩
  · intro s source dest tag payload x hr hcol hwf h0 h63 _ hdest hx
    rw [exec_descentReply hwf h0 h63 hdest hx]
    exact receiving_of_eq hr (descentReply_passed (.inl hcol))
  · intro s hrun hcol col done
    refine ⟨fun hq => ⟨fun hinc => ?_, fun hinc => ?_⟩, fun ho => ?_, anyIncomplete_iff _, ?_⟩
    · rw [exec_quietTimer hrun hcol hq]
      exact commit_of_eq (congrArg some (if_pos hinc))
    · rw [exec_quietTimer hrun hcol hq]
      exact commit_of_eq (congrArg some (if_neg (Bool.eq_false_iff.1 hinc)))
    · rw [exec_overallTimer hrun hcol ho]
      exact commit_of_eq rfl
    · intro source dest tag payload x hpin hwf h0 h63 hown hdest hx heard answers
      have hr : s.receives = true := by simp [State.receives, hrun, hpin]
      rw [exec_descentReply hwf h0 h63 hdest hx]
      refine ⟨fun h => receiving_of_eq hr (descentReply_passed (s := heard) (.inr h)), ?_⟩
      intro p hans hp new taken
      refine receiving_of_eq hr ((descentReply_taken (s := heard) hcol hans.1 hown hans.2 hp).trans ?_)
      let mk (c : Child) : Place := ⟨c.coil, p.depth + 1, p.coil, none, .child c.lane c.length c.pending⟩
      by_cases ht : s.req.walk.truncated = true
      · have hnew : new = [] := if_pos ht
        rw [hnew, List.map_nil, Req.withPlaces_nil]
        exact foldl_addPlace_truncated mk (s := { heard with req := taken }) ht _
      · have hnew : new = (x.children.filter fun c => c.coil.station == source).foldl (metItems Child.coil s.req.walk.places) [] :=
          (if_neg ht).trans (metItems_children h0 s.req.walk.places x.children).symm
        have h := foldl_addPlace mk { heard with req := taken } (r := taken) (Bool.eq_false_iff.2 ht)
          (x.children.filter fun c => c.coil.station == source) []
        rw [List.map_nil, Req.withPlaces_nil] at h
        rw [hnew]
        exact h

end Sys2Proof.Machine

/-! PROOFS. The receive assembler of the console link (R170, R172, R185). -/

namespace Sys2Proof.Machine

/-- CON assembles a record of which the bytes `got` have arrived (R170). -/
def State.assembling (s : State) (got : List Byte) : State := { s with con := { s.con with assembler := some got } }

theorem assembling_linkRuns {s : State} (hl : s.linkRuns = true) (got : List Byte) : (s.assembling got).linkRuns = true := hl

/-! ### Bytes taken (R170) -/

theorem conByte_off {s : State} (hl : s.linkRuns = false) (b : Byte) : conByte s b = s := if_pos (by simp [hl])

theorem foldl_conByte_off {s : State} (hl : s.linkRuns = false) (bs : List Byte) : bs.foldl conByte s = s := by
  induction bs with
  | nil => rfl
  | cons b bs ih => rw [List.foldl_cons, conByte_off hl, ih]

/-- Silence is nothing to a link that hunts. -/
theorem conSilence_hunting {s : State} (ha : s.con.assembler = none) : conSilence s = s := by
  unfold conSilence
  rw [ha]
  exact ite_self s

theorem conBadByte_hunting {s : State} (ha : s.con.assembler = none) (b : Byte) : conBadByte b s = s := by
  unfold conBadByte
  rw [ha]
  exact ite_self s

/-- A record with a framing error in its last byte. -/
theorem conBytes_framing (init : List Byte) (b : Byte) (s : State) :
    conBytes (init ++ [b]) true s = conBadByte b (init.foldl conByte s) := by
  simp [conBytes]

theorem conBytes_clean (bytes : List Byte) (s : State) : conBytes bytes false s = bytes.foldl conByte s := rfl

section
variable {s : State} (hl : s.linkRuns = true)
include hl

/-- A byte that completes no record stays in the assembler. -/
theorem conByte_more {got : List Byte} {b : Byte} (h : recordComplete (got ++ [b]) = false) :
    conByte (s.assembling got) b = s.assembling (got ++ [b]) := by
  unfold conByte
  refine (if_neg (by simp [assembling_linkRuns hl])).trans ?_
  exact if_neg (by simp [h])

/-- Bytes that complete no record stay in the assembler, in order. -/
theorem foldl_conByte_assembling : ∀ {record got : List Byte},
    (∀ k, k < record.length → recordComplete (got ++ record.take (k + 1)) = false) →
    record.foldl conByte (s.assembling got) = s.assembling (got ++ record)
  | [], got, _ => by rw [List.append_nil]; rfl
  | b :: record, got, h => by
    rw [List.foldl_cons, conByte_more hl (h 0 (Nat.zero_lt_succ _)), foldl_conByte_assembling fun k hk => ?_]
    · rw [List.append_assoc]
      rfl
    · rw [List.append_assoc]
      exact h (k + 1) (Nat.succ_lt_succ hk)

variable (ha : s.con.assembler = none)
include ha

/-- In HUNTING every byte but the start byte is discarded. -/
theorem foldl_conByte_hunting {pre : List Byte} (h : ∀ b ∈ pre, b ≠ 0x3C) : pre.foldl conByte s = s := by
  induction pre with
  | nil => rfl
  | cons b pre ih =>
    have hb : conByte s b = s := by
      unfold conByte
      rw [if_neg (by simp [hl]), ha]
      exact if_neg (h b (.head _))
    rw [List.foldl_cons, hb, ih fun x hx => h x (.tail _ hx)]

theorem conByte_start : conByte s 0x3C = s.assembling [] := by
  unfold conByte
  rw [if_neg (by simp [hl]), ha]
  rfl

/-- The byte that completes a record hands it on. -/
theorem conByte_last {got : List Byte} {b : Byte} (h : recordComplete (got ++ [b]) = true) :
    conByte (s.assembling got) b = conReceive (judgeConsole (got ++ [b]) false) s := by
  unfold conByte
  refine (if_neg (by simp [assembling_linkRuns hl])).trans ((if_pos h).trans ?_)
  unfold conComplete State.assembling State.setCon
  rw [← ha]

theorem conBadByte_assembling (got : List Byte) (b : Byte) :
    conBadByte b (s.assembling got) = conReceive (judgeConsole (got ++ [b]) true) s := by
  unfold conBadByte
  refine (if_neg (by simp [assembling_linkRuns hl])).trans ?_
  unfold conComplete State.assembling State.setCon
  rw [← ha]

theorem conSilence_assembling (got : List Byte) : conSilence (s.assembling got) = conReceive (judgeConsole got true) s := by
  unfold conSilence
  refine (if_neg (by simp [assembling_linkRuns hl])).trans ?_
  unfold conComplete State.assembling State.setCon
  rw [← ha]

/-- Bytes before a start byte, the start byte, and bytes of a record that is not complete. -/
theorem foldl_conByte_record {pre record : List Byte} (hpre : ∀ b ∈ pre, b ≠ 0x3C)
    (h : ∀ k, k < record.length → recordComplete (record.take (k + 1)) = false) :
    (pre ++ 0x3C :: record).foldl conByte s = s.assembling record := by
  rw [List.foldl_append, foldl_conByte_hunting hl ha hpre, List.foldl_cons, conByte_start hl ha, foldl_conByte_assembling hl]
  · rfl
  · exact h

end

/-! ### When a record is complete (R170) -/

theorem field_head_take (bs : List Byte) (k : Nat) : field (bs.take (k + 1)) 0 1 = field bs 0 1 := by
  unfold field
  rw [List.drop_zero, List.drop_zero, List.take_take, Nat.min_eq_left (Nat.succ_le_succ (Nat.zero_le k))]

/-- A start of a record of length at most 32 that is shorter than its length byte says. -/
theorem recordComplete_short {record : List Byte} (hcap : field record 0 1 ≤ 32) {k : Nat} (hk : k + 1 < field record 0 1 + 4) :
    recordComplete (record.take (k + 1)) = false := by
  have hlen := List.length_take_le (k + 1) record
  unfold recordComplete
  rw [field_head_take, decide_eq_false_iff_not]
  unfold Config.requestCap
  omega

theorem recordComplete_whole {record : List Byte} (h : record.length = field record 0 1 + 4) : recordComplete record = true := by
  unfold recordComplete
  rw [decide_eq_true_iff]
  omega

theorem judgeConsole_long {len : Byte} (h : 32 < len.toNat) (cut : Bool) : judgeConsole [len] cut = .cutShort 0 :=
  if_pos ⟨by rw [field_first]; exact h, Nat.le_refl 1⟩

theorem recordComplete_long {len : Byte} (h : 32 < len.toNat) : recordComplete [len] = true := by
  unfold recordComplete
  rw [decide_eq_true_iff]
  exact ⟨Nat.le_refl 1, .inl (by rw [field_first]; exact h)⟩

section
variable {record : List Byte} (hcap : field record 0 1 ≤ 32)
include hcap

theorem judgeConsole_cut : judgeConsole record true = .cutShort (record.getD 1 0) :=
  (if_neg fun h => Nat.not_lt.2 hcap h.1).trans (if_pos (.inl rfl))

variable (hlen : record.length = field record 0 1 + 4)
include hlen

theorem judgeConsole_badCheck (h : field record (field record 0 1 + 2) 2 ≠ (crcBytes (record.take (field record 0 1 + 2))).toNat) :
    judgeConsole record false = .badCheck (record.getD 1 0) :=
  (if_neg fun h => Nat.not_lt.2 hcap h.1).trans ((if_neg (by simp [hlen])).trans (if_pos h))

theorem judgeConsole_good (h : field record (field record 0 1 + 2) 2 = (crcBytes (record.take (field record 0 1 + 2))).toNat) :
    judgeConsole record false = judgeRequest (record.getD 1 0) (parseRequest (field record 1 1) ((record.drop 2).take (field record 0 1))) :=
  (if_neg fun h => Nat.not_lt.2 hcap h.1).trans ((if_neg (by simp [hlen])).trans (if_neg (not_not.2 h)))

end

/-! ### A well-formed request (R172 row 2, R185) -/

/-- The form of a request of kind byte `kind`: its payload length and the fields with a range. -/
def requestForm (kind : Nat) (record : List Byte) : Prop :=
  let n := field record 0 1
  let byte (i : Nat) : Nat := field record (2 + i) 1
  match kind with
  | 1 => n = 19 ∧ byte 0 < 64 ∧ 1 ≤ field record 16 4 ∧ field record 16 4 ≤ 1000000 ∧ byte 18 ≤ 4
  | 2 => n = 7 ∧ byte 0 < 64 ∧ byte 5 < 2 ∧ 1 ≤ byte 6 ∧ byte 6 ≤ 8
  | 3 => n = 13 ∧ (byte 0 = 0 ∨ byte 0 = 2) ∨ n = 3 ∧ (byte 0 = 1 ∨ byte 0 = 3) ∧ 1 ≤ field record 3 2 ∧ field record 3 2 ≤ 1024
  | 4 | 5 | 6 => n = 0
  | 7 => n = 6
  | _ => False

/-- A field of the payload of a record of length `n`, which stands after two bytes. -/
theorem field_payload_at {bs : List Byte} {n i k : Nat} (h : i + k ≤ n) : field ((bs.drop 2).take n) i k = field bs (2 + i) k := by
  unfold field
  rw [List.drop_take, List.drop_drop, List.take_take, Nat.min_eq_left (by omega)]

/-- Bytes that some kind of request reads as good are of that kind's form. -/
theorem requestForm_of_parse {record : List Byte} (hlen : record.length = field record 0 1 + 4) {q : Request}
    (hq : (parseRequest (field record 1 1) ((record.drop 2).take (field record 0 1))).filter Request.inRange = some q) :
    requestForm (field record 1 1) record := by
  have hplen : ((record.drop 2).take (field record 0 1)).length = field record 0 1 := by
    rw [List.length_take, List.length_drop]
    omega
  obtain ⟨hparse, hrange⟩ := Option.filter_eq_some_iff.1 hq
  unfold parseRequest at hparse
  split at hparse
  · split at hparse
    · rename_i hk h
      rw [hplen, highBits_iff] at h
      rw [hk]
      cases hparse
      have hr := of_decide_eq_true hrange
      simp only [field_payload_at (bs := record) (n := field record 0 1) (i := 14) (k := 4) (by omega),
        field_payload_at (bs := record) (n := field record 0 1) (i := 18) (k := 1) (by omega),
        field_payload_at (bs := record) (n := field record 0 1) (i := 0) (k := 1) (by omega)] at hr h
      exact ⟨h.1, h.2, hr.1, hr.2.1, hr.2.2⟩
    · cases hparse
  · split at hparse
    · rename_i hk h
      rw [hplen, highBits_iff] at h
      rw [hk]
      cases hparse
      have hr := of_decide_eq_true hrange
      simp only [field_payload_at (bs := record) (n := field record 0 1) (i := 5) (k := 1) (by omega),
        field_payload_at (bs := record) (n := field record 0 1) (i := 6) (k := 1) (by omega),
        field_payload_at (bs := record) (n := field record 0 1) (i := 0) (k := 1) (by omega)] at hr h
      exact ⟨h.1, h.2.1, h.2.2, hr.1, hr.2⟩
    · cases hparse
  · rename_i hk
    rw [hk]
    simp only [hplen] at hparse
    split at hparse
    · cases hparse
    · split at hparse
      · split at hparse
        · rename_i hlt heven hn
          rw [field_payload_at (by omega)] at hlt heven
          have hmode : field record (2 + 0) 1 = 0 ∨ field record (2 + 0) 1 = 2 := by omega
          exact .inl ⟨hn, hmode⟩
        · cases hparse
      · split at hparse
        · rename_i hlt hodd hn
          cases hparse
          have hr := of_decide_eq_true hrange
          rw [field_payload_at (by omega)] at hlt hodd hr
          have h16 : field record (2 + 1) 2 < 2 ^ 16 := field_lt record 3 2
          have hmode : field record (2 + 0) 1 = 1 ∨ field record (2 + 0) 1 = 3 := by omega
          rw [BitVec.toNat_ofNat, Nat.mod_eq_of_lt h16] at hr
          exact .inr ⟨hn, hmode, hr.1, hr.2⟩
        · cases hparse
  case h_4 | h_5 | h_6 | h_7 =>
    rename_i hk
    split at hparse
    · rename_i h
      rw [hk]
      exact hplen.symm.trans h
    · cases hparse
  · cases hparse

/-- Bytes of no request's form are malformed. -/
theorem judgeRequest_unformed {record : List Byte} (hlen : record.length = field record 0 1 + 4) (h : ¬ requestForm (field record 1 1) record)
    (kind : Byte) : judgeRequest kind (parseRequest (field record 1 1) ((record.drop 2).take (field record 0 1))) = .badFormat kind := by
  unfold judgeRequest
  cases hq : (parseRequest (field record 1 1) ((record.drop 2).take (field record 0 1))).filter Request.inRange with
  | none => rfl
  | some q => exact absurd (requestForm_of_parse hlen hq) h

end Sys2Proof.Machine

/-! PROOFS. Console records refused (R170 to R172, R177, R185). -/

namespace Sys2Proof.Machine

/-! ### What a record that has arrived comes to (R171, R172) -/

theorem conReceive_off {s : State} (hl : s.linkRuns = false) (rec : ConRecord) : conReceive rec s = s := if_pos (by simp [hl])

/-- A record that finds the buffer occupied (R171). -/
theorem conReceive_overrun {s : State} (hl : s.linkRuns = true) (hc : s.con.complete.isSome) (rec : ConRecord) :
    conReceive rec s = if s.con.overrun.isSome then s
      else if s.con.out.length < 16 then { s with con := { s.con with out := s.con.out ++ [.refuse rec.kind .overrun] } }
      else { s with con := { s.con with overrun := some rec.kind } } := by
  unfold conReceive
  rw [if_neg (by simp [hl]), if_pos hc]
  unfold overrunRecord
  by_cases ho : s.con.overrun.isSome = true
  · rw [if_pos ho, if_pos ho]
  · rw [if_neg ho, if_neg ho]
    by_cases hout : s.con.out.length < 16
    · rw [if_pos hout]
      exact if_pos (decide_eq_true hout)
    · rw [if_neg hout]
      exact if_neg fun h => hout (of_decide_eq_true h)

/-- A record that is cut short, fails its check, or is malformed, with the reason of its REFUSE (R172 rows 1 and 2). -/
inductive Refusable : ConRecord → Reason → Prop where
  | cutShort (k : Byte) : Refusable (.cutShort k) .format
  | badCheck (k : Byte) : Refusable (.badCheck k) .check
  | badFormat (k : Byte) : Refusable (.badFormat k) .format

theorem conReceive_refused {s : State} (hl : s.linkRuns = true) (hc : s.con.complete = none) (ho : s.con.overrun = none)
    {rec : ConRecord} {why : Reason} (h : Refusable rec why) :
    conReceive rec s = { s with con := s.con.answered rec (.refuse rec.kind why) } := by
  rw [conReceive_free hl hc]
  cases h with
  | cutShort k => exact answer_place ho ..
  | badCheck k => exact answer_place ho ..
  | badFormat k => exact answer_place ho ..

theorem judgeRequest_kind (q : Request) : (judgeRequest q.kind (some q)).kind = q.kind := by
  cases hq : q.inRange with
  | true => rw [judgeRequest_good hq]; rfl
  | false => rw [judgeRequest_bad hq]; rfl

/-- Every typed row of the console link hands its record on where the assembler hunts; `u` says by its kind what that comes to. -/
theorem anyRequest_of {s : State} (ha : s.con.assembler = none) (u : Byte → State) (hu : ∀ rec, conReceive rec s = u rec.kind) :
    let next (c : Instr) (u : State) : Prop := ∃ t, exec c s = .next t ∧ Carried u t
    (∀ coil quantity a b step depth, next (.playback coil quantity a b step depth) (u 1)) ∧
      (∀ coil direction depth, next (.genealogy coil direction depth) (u 2)) ∧
      (∀ mode unstamped, next (.coilList mode unstamped) (u 3)) ∧ next .status (u 4) ∧ next .abort (u 5) ∧
      next .clearFault (u 6) ∧ ∀ clock, next (.setTime clock) (u 7) := by
  intro next
  have harrives : ∀ q : Request, ∃ t, requestArrives q s = .next t ∧ Carried (u q.kind) t := fun q => by
    rw [requestArrives_hunting ha]
    refine commit_of_eq (congrArg some ?_)
    rw [hu, judgeRequest_kind]
  refine ⟨fun _ _ _ _ _ _ => harrives _, fun coil direction depth => ?_, fun _ _ => harrives _, harrives .status, harrives .abort,
    harrives .clearFault, fun _ => harrives _⟩
  by_cases hd : direction.toNat < 2
  · obtain ⟨t, ht, hc⟩ := harrives (.genealogy coil (direction == 0) depth.toNat)
    exact ⟨t, (if_pos hd).trans ht, hc⟩
  · obtain ⟨t, ht, hc⟩ := commit_of_eq (s := s) (congrArg some ((conWhole_hunting ha (.badFormat 2) 2
      (coilBytes 0 coil ++ [direction, depth])).trans (hu (.badFormat 2))))
    exact ⟨t, (if_neg hd).trans ht, hc⟩

/-! ### Records as bytes (R170, R172) -/

section
variable {s : State} (hl : s.linkRuns = true) (ha : s.con.assembler = none) {pre : List Byte} (hpre : ∀ b ∈ pre, b ≠ 0x3C)
include hl ha hpre

theorem conBytes_hunting (framing : Bool) : conBytes pre framing s = s := by
  cases framing with
  | false => exact foldl_conByte_hunting hl ha hpre
  | true =>
    rcases List.eq_nil_or_concat' pre with rfl | ⟨init, b, rfl⟩
    · rfl
    · rw [conBytes_framing, foldl_conByte_hunting hl ha fun x hx => hpre x (List.mem_append_left _ hx), conBadByte_hunting ha]

/-- A start byte and a length above 32 (R170). -/
theorem foldl_conByte_long {len : Byte} (h : 32 < len.toNat) :
    (pre ++ [0x3C, len]).foldl conByte s = conReceive (.cutShort 0) s := by
  have hinit : (pre ++ [0x3C]).foldl conByte s = s.assembling [] :=
    foldl_conByte_record hl ha hpre fun k hk => absurd hk (Nat.not_lt_zero k)
  have hlast := conByte_last hl ha (got := []) (b := len) (recordComplete_long h)
  rw [List.nil_append, judgeConsole_long h] at hlast
  rw [show pre ++ [0x3C, len] = (pre ++ [0x3C]) ++ [len] by simp, List.foldl_append, hinit]
  exact hlast

theorem conBadByte_long {len : Byte} (h : 32 < len.toNat) :
    conBytes (pre ++ [0x3C, len]) true s = conReceive (.cutShort 0) s := by
  have hinit : (pre ++ [0x3C]).foldl conByte s = s.assembling [] :=
    foldl_conByte_record hl ha hpre fun k hk => absurd hk (Nat.not_lt_zero k)
  rw [show pre ++ [0x3C, len] = (pre ++ [0x3C]) ++ [len] by simp, conBytes_framing, hinit, conBadByte_assembling hl ha, List.nil_append,
    judgeConsole_long h]

/-- All bytes of a record but its last one stay in the assembler. -/
theorem foldl_conByte_init {init : List Byte} {b : Byte} (hcap : field (init ++ [b]) 0 1 ≤ 32)
    (hlen : (init ++ [b]).length ≤ field (init ++ [b]) 0 1 + 4) :
    (pre ++ 0x3C :: init).foldl conByte s = s.assembling init := by
  refine foldl_conByte_record hl ha hpre fun k hk => ?_
  have htake : init.take (k + 1) = (init ++ [b]).take (k + 1) := (List.take_append_of_le_length hk).symm
  rw [htake]
  refine recordComplete_short hcap ?_
  rw [List.length_append, List.length_singleton] at hlen
  omega

end

/-- A record that is not the form of a request, or whose request's fields are out of range, asked of a free buffer. -/
theorem requestArrives_bad {s : State} (hl : s.linkRuns = true) (ha : s.con.assembler = none) (hc : s.con.complete = none)
    (ho : s.con.overrun = none) {q : Request} (hq : q.inRange = false) : ∃ t, requestArrives q s = .next t ∧
      Carried { s with con := s.con.answered (.badFormat q.kind) (.refuse q.kind .format) } t := by
  rw [requestArrives_hunting ha, judgeRequest_bad hq]
  exact commit_of_eq (congrArg some (conReceive_refused hl hc ho (.badFormat q.kind)))

/-- A request that its block cannot take: the part does not run, or REQ has a request in hand (R172 rows 5 and 6). -/
theorem requestArrives_turnedAway {s : State} (hl : s.linkRuns = true) (ha : s.con.assembler = none) (hc : s.con.complete = none)
    (ho : s.con.overrun = none) (h : s.running = false ∨ s.req.engine ≠ .idle) {q : Request} {take : State → State}
    (hq : q.inRange = true) (hne : q ≠ .status)
    (htake : s.running = true → takeRequestRecord q s = passToReq q take s) : ∃ t, requestArrives q s = .next t ∧
      Carried { s with con := s.con.answered (.request q) (.refuse q.kind (if s.running then .busy else .notRunning)) } t := by
  rw [requestArrives_taken hl ha hc hq]
  refine commit_of_eq (congrArg some ?_)
  cases hr : s.running with
  | false => exact takeRequestRecord_notRunning hr ho hne
  | true =>
    have hbusy : s.req.engine ≠ .idle := h.resolve_left (by simp [hr])
    exact (htake hr).trans ((if_neg hbusy).trans (answer_place ho ..))

/-- Settles O52: the link that does not run, the buffer that is occupied, records of bytes, and typed requests turned away. -/
theorem consoleRecordsRefused : Obligations.ConsoleRecordsRefused := by
  intro s refused next overrun anyRequest
  refine ⟨fun hl ha => ⟨fun bytes framing => ⟨?_, ?_⟩, anyRequest_of ha (fun _ => s) (conReceive_off hl)⟩,
    fun hl ha hc => anyRequest_of ha overrun (conReceive_overrun hl hc), ?_, ?_⟩
  · refine commit_of_eq (s := s) (u := s) (congrArg some ?_)
    cases framing with
    | false => exact foldl_conByte_off hl bytes
    | true =>
      rcases List.eq_nil_or_concat' bytes with rfl | ⟨init, b, rfl⟩
      · rfl
      · rw [conBytes_framing, foldl_conByte_off hl, conBadByte_hunting ha]
  · refine commit_of_eq (s := s) (u := s) (congrArg some ?_)
    rw [foldl_conByte_off hl, conSilence_hunting ha]
  · intro hl ha hfree turned pre hpre
    have hturned : ∀ {rec why}, Refusable rec why → conReceive rec s = turned rec why := fun {rec why} h => by
      by_cases hc : s.con.complete.isSome = true
      · exact (conReceive_overrun hl hc rec).trans (if_pos hc).symm
      · have hnone : s.con.complete = none := by simpa using hc
        exact (conReceive_refused hl hnone (hfree.resolve_left hc) h).trans (if_neg hc).symm
    have hhunts : ∀ rec why, (turned rec why).con.assembler = none := fun rec why => by
      have hover : ∀ k, (overrun k).con.assembler = none := fun k => by
        simp only [overrun]
        split
        · exact ha
        · split <;> exact ha
      have hrefused : (refused rec why).con.assembler = none := by
        simp only [refused, Con.answered]
        split <;> exact ha
      simp only [turned]
      split
      · exact hover rec.kind
      · exact hrefused
    refine ⟨fun framing => ⟨?_, ?_⟩, fun len framing hlen => ⟨?_, ?_⟩, ?_⟩
    · exact commit_of_eq (s := s) (u := s) (congrArg some (conBytes_hunting hl ha hpre framing))
    · refine commit_of_eq (s := s) (u := s) (congrArg some ?_)
      rw [foldl_conByte_hunting hl ha hpre, conSilence_hunting ha]
    · have hlong : conBytes (pre ++ [0x3C, len]) framing s = conReceive (.cutShort 0) s := by
        cases framing with
        | false => exact foldl_conByte_long hl ha hpre hlen
        | true => exact conBadByte_long hl ha hpre hlen
      exact commit_of_eq (s := s) (congrArg some (hlong.trans (hturned (.cutShort 0))))
    · refine commit_of_eq (s := s) (congrArg some ?_)
      rw [foldl_conByte_long hl ha hpre hlen, hturned (.cutShort 0), conSilence_hunting (hhunts _ _)]
    · intro record hcap bytes
      refine ⟨fun hne hlen => ?_, fun hlen => ?_, ?_⟩
      · obtain ⟨init, b, rfl⟩ := (List.eq_nil_or_concat' record).resolve_left hne
        have hbytes : bytes = (pre ++ 0x3C :: init) ++ [b] := (List.append_assoc pre (0x3C :: init) [b]).symm
        refine commit_of_eq (s := s) (congrArg some ?_)
        rw [hbytes, conBytes_framing, foldl_conByte_init hl ha hpre hcap hlen, conBadByte_assembling hl ha, judgeConsole_cut hcap,
          hturned (.cutShort _)]
      · have hfold : bytes.foldl conByte s = s.assembling record :=
          foldl_conByte_record hl ha hpre fun k hk => recordComplete_short hcap (by omega)
        refine ⟨commit_of_eq (s := s) (congrArg some ?_), commit_of_eq (s := s) (congrArg some hfold)⟩
        rw [hfold, conSilence_assembling hl ha, judgeConsole_cut hcap, hturned (.cutShort _)]
      · intro hlen n byte good formed
        have hfold : bytes.foldl conByte s = conReceive (judgeConsole record false) s := by
          obtain ⟨init, b, rfl⟩ := (List.eq_nil_or_concat' record).resolve_left fun h => by
            rw [h] at hlen
            exact absurd hlen (by simp)
          have hbytes : bytes = (pre ++ 0x3C :: init) ++ [b] := (List.append_assoc pre (0x3C :: init) [b]).symm
          rw [hbytes, List.foldl_append, foldl_conByte_init hl ha hpre hcap (Nat.le_of_eq hlen)]
          exact conByte_last hl ha (recordComplete_whole hlen)
        refine ⟨fun hbad => commit_of_eq (s := s) (congrArg some (hfold.trans ?_)), fun hgood hform =>
          commit_of_eq (s := s) (congrArg some (hfold.trans ?_))⟩
        · rw [judgeConsole_badCheck hcap hlen hbad, hturned (.badCheck _)]
        · rw [judgeConsole_good hcap hlen hgood, judgeRequest_unformed hlen hform, hturned (.badFormat _)]
  · intro hl ha hc ho
    have hbad := fun q => requestArrives_bad (q := q) hl ha hc ho
    refine ⟨fun coil quantity a b step depth h => hbad _ ?_, fun coil direction depth h => ?_, fun n unstamped h => hbad _ ?_, ?_, ?_⟩
    · refine decide_eq_false fun ⟨h1, h2, h3⟩ => ?_
      rcases h with rfl | h | h
      · exact absurd h1 (by decide)
      · omega
      · omega
    · by_cases hd : direction.toNat < 2
      · obtain ⟨t, ht, hcar⟩ := hbad (.genealogy coil (direction == 0) depth.toNat) (decide_eq_false fun ⟨h1, h2⟩ => by
          rcases h with h | rfl | h
          · omega
          · exact absurd h1 (by decide)
          · omega)
        exact ⟨t, (if_pos hd).trans ht, hcar⟩
      · obtain ⟨t, ht, hcar⟩ := commit_of_eq (s := s) (congrArg some ((conWhole_hunting ha (.badFormat 2) 2
          (coilBytes 0 coil ++ [direction, depth])).trans (conReceive_refused hl hc ho (.badFormat 2))))
        exact ⟨t, (if_neg hd).trans ht, hcar⟩
    · refine decide_eq_false fun ⟨h1, h2⟩ => ?_
      rcases h with rfl | h
      · exact absurd h1 (by decide)
      · omega
    · intro haway turnedAway
      have hpos : ∀ {w : Nat} {v : BitVec w}, v ≠ 0 → 1 ≤ v.toNat := fun h =>
        Nat.one_le_iff_ne_zero.2 fun h0 => h (BitVec.eq_of_toNat_eq (by simpa using h0))
      refine ⟨fun coil quantity a b step depth h1 h2 h3 => ?_, fun coil direction depth hd h1 h2 => ?_, fun t1 t2 unstamped => ?_,
        fun n unstamped h1 h2 => ?_⟩
      · exact requestArrives_turnedAway hl ha hc ho haway (decide_eq_true ⟨hpos h1, h2, h3⟩) (by simp)
          fun hr => takeRequestRecord_running hr (by simp)
      · obtain ⟨t, ht, hcar⟩ := requestArrives_turnedAway hl ha hc ho haway (q := .genealogy coil (direction == 0) depth.toNat)
          (decide_eq_true ⟨hpos h1, h2⟩) (by simp) fun hr => takeRequestRecord_running hr (by simp)
        exact ⟨t, (if_pos hd).trans ht, hcar⟩
      · exact requestArrives_turnedAway hl ha hc ho haway rfl (by simp) fun hr => takeRequestRecord_running hr (by simp)
      · exact requestArrives_turnedAway hl ha hc ho haway (decide_eq_true ⟨hpos h1, h2⟩) (by simp)
          fun hr => takeRequestRecord_running hr (by simp)
    · intro hr clock
      change ∃ t, _
      rw [exec_setTime hl ha hc]
      exact commit_of_eq (congrArg some (takeRequestRecord_notRunning hr ho (by simp)))

end Sys2Proof.Machine

/-! PROOFS. The reports of the frames a part drops as it is MUTED (R40, R97, R98, R130, R148, R164). -/

namespace Sys2Proof.Machine

/-! ### A table of slots, and the reports that end its busy ones -/

section
variable {σ β : Type} (gen : σ → BitVec 2) (busy : σ → Option β) (idle : σ → σ)

/-- A report to slot `hit.1` of an attempt of generation `hit.2`: a busy slot of that generation becomes idle, and what it was busy
with is noted. -/
def endSlot (acc : List σ × List β) (hit : Nat × BitVec 2) : List σ × List β :=
  match acc.1[hit.1]? with
  | none => acc
  | some x =>
    match busy x with
    | none => acc
    | some b => if gen x = hit.2 then (acc.1.set hit.1 (idle x), acc.2 ++ [b]) else acc

variable {gen busy idle}

theorem endSlot_out {acc : List σ × List β} {i : Nat} (h : acc.1[i]? = none) (g : BitVec 2) :
    endSlot gen busy idle acc (i, g) = acc := by
  simp only [endSlot, h]

theorem endSlot_idle {acc : List σ × List β} {i : Nat} {x : σ} (h : acc.1[i]? = some x) (hb : busy x = none) (g : BitVec 2) :
    endSlot gen busy idle acc (i, g) = acc := by
  simp only [endSlot, h, hb]

theorem endSlot_busy {acc : List σ × List β} {i : Nat} {x : σ} {b : β} (h : acc.1[i]? = some x) (hb : busy x = some b)
    (g : BitVec 2) : endSlot gen busy idle acc (i, g) = if gen x = g then (acc.1.set i (idle x), acc.2 ++ [b]) else acc := by
  simp only [endSlot, h, hb]

/-- The table after some reports, and which slots they ended. -/
def SlotsEnded (gen : σ → BitVec 2) (busy : σ → Option β) (idle : σ → σ) (l : List σ) (hs : List (Nat × BitVec 2))
    (acc : List σ × List β) : Prop :=
  (∀ i : Nat, acc.1[i]? = (l[i]?).map fun x => if (i, gen x) ∈ hs then idle x else x) ∧
    ∀ b, b ∈ acc.2 ↔ ∃ i x, l[i]? = some x ∧ busy x = some b ∧ (i, gen x) ∈ hs

/-- A report that ends no slot. -/
theorem SlotsEnded.skip {l : List σ} {hs : List (Nat × BitVec 2)} {acc : List σ × List β} (h : SlotsEnded gen busy idle l hs acc)
    {j : Nat} {g : BitVec 2} (hno : ∀ x, l[j]? = some x → gen x = g → (j, gen x) ∈ hs ∨ busy x = none ∧ idle x = x) :
    SlotsEnded gen busy idle l (hs ++ [(j, g)]) acc := by
  obtain ⟨hslots, hended⟩ := h
  refine ⟨fun i => ?_, fun b => ?_⟩
  · rw [hslots i]
    cases hx : l[i]? with
    | none => rfl
    | some x =>
      by_cases hin : (i, gen x) ∈ hs
      · simp [hin]
      · by_cases hnew : (i, gen x) = (j, g)
        · obtain ⟨rfl, hg⟩ := Prod.mk.inj hnew
          have hsame := ((hno x hx hg).resolve_left hin).2
          simp [hsame]
        · have hmem : (i, gen x) ∈ hs ++ [(j, g)] ↔ (i, gen x) ∈ hs := by
            rw [List.mem_append, List.mem_singleton]
            exact or_iff_left hnew
          simp only [Option.map_some, hmem]
  · rw [hended b]
    refine exists_congr fun i => exists_congr fun x => and_congr_right fun hx => and_congr_right fun hb => ?_
    rw [List.mem_append, List.mem_singleton]
    refine ⟨.inl, fun h => h.elim id fun hnew => ?_⟩
    obtain ⟨rfl, hg⟩ := Prod.mk.inj hnew
    rcases hno x hx hg with hin | ⟨hnone, -⟩
    · exact hin
    · rw [hb] at hnone
      cases hnone

/-- A report that ends a busy slot. -/
theorem SlotsEnded.ends {l : List σ} {hs : List (Nat × BitVec 2)} {acc : List σ × List β} (h : SlotsEnded gen busy idle l hs acc)
    {j : Nat} {x : σ} {b : β} (hx : l[j]? = some x) (hb : busy x = some b) (hnew : (j, gen x) ∉ hs) :
    SlotsEnded gen busy idle l (hs ++ [(j, gen x)]) (acc.1.set j (idle x), acc.2 ++ [b]) := by
  obtain ⟨hslots, hended⟩ := h
  have hlt : j < acc.1.length := by
    have := hslots j
    rw [hx] at this
    exact (List.getElem?_eq_some_iff.1 this).1
  refine ⟨fun i => ?_, fun c => ?_⟩
  · by_cases hij : j = i
    · subst hij
      rw [List.getElem?_set_self hlt, hx]
      simp
    · rw [List.getElem?_set_ne hij, hslots i]
      cases hy : l[i]? with
      | none => rfl
      | some y =>
        have hmem : (i, gen y) ∈ hs ++ [(j, gen x)] ↔ (i, gen y) ∈ hs := by
          rw [List.mem_append, List.mem_singleton]
          exact or_iff_left fun h => hij (Prod.mk.inj h).1.symm
        simp only [Option.map_some, hmem]
  · rw [List.mem_append, hended c, List.mem_singleton]
    constructor
    · rintro (⟨i, y, hy, hc, hin⟩ | rfl)
      · exact ⟨i, y, hy, hc, List.mem_append_left _ hin⟩
      · exact ⟨j, x, hx, hb, List.mem_append_right _ (.head _)⟩
    · rintro ⟨i, y, hy, hc, hin⟩
      rcases List.mem_append.1 hin with hin | hin
      · exact .inl ⟨i, y, hy, hc, hin⟩
      · obtain ⟨rfl, -⟩ := Prod.mk.inj (List.mem_singleton.1 hin)
        rw [hx] at hy
        cases hy
        rw [hb] at hc
        exact .inr (Option.some.inj hc).symm

theorem SlotsEnded.report (hidle : ∀ x, busy (idle x) = none) (hsame : ∀ x, busy x = none → idle x = x) {l : List σ}
    {hs : List (Nat × BitVec 2)} {acc : List σ × List β} (h : SlotsEnded gen busy idle l hs acc) (j : Nat) (g : BitVec 2) :
    SlotsEnded gen busy idle l (hs ++ [(j, g)]) (endSlot gen busy idle acc (j, g)) := by
  have hslot := h.1 j
  cases hx : l[j]? with
  | none =>
    rw [hx] at hslot
    rw [endSlot_out hslot]
    exact h.skip fun x hx' => by
      rw [hx] at hx'
      cases hx'
  | some x =>
    have hsome : ∀ y, l[j]? = some y → y = x := fun y hy => (Option.some.inj (hx.symm.trans hy)).symm
    rw [hx, Option.map_some] at hslot
    by_cases hin : (j, gen x) ∈ hs
    · rw [if_pos hin] at hslot
      rw [endSlot_idle hslot (hidle x)]
      exact h.skip fun y hy _ => .inl (hsome y hy ▸ hin)
    · rw [if_neg hin] at hslot
      cases hb : busy x with
      | none =>
        rw [endSlot_idle hslot hb]
        exact h.skip fun y hy _ => .inr (hsome y hy ▸ ⟨hb, hsame x hb⟩)
      | some b =>
        rw [endSlot_busy hslot hb]
        by_cases hg : gen x = g
        · rw [if_pos hg, ← hg]
          exact h.ends hx hb hin
        · rw [if_neg hg]
          exact h.skip fun y hy hgy => absurd (hsome y hy ▸ hgy) hg

/-- The table after all reports. -/
theorem slotsEnded_foldl (hidle : ∀ x, busy (idle x) = none) (hsame : ∀ x, busy x = none → idle x = x) (l : List σ)
    (hs : List (Nat × BitVec 2)) : SlotsEnded gen busy idle l hs (hs.foldl (endSlot gen busy idle) (l, [])) := by
  induction hs using List.reverseRecOn with
  | nil => exact ⟨fun i => by simp, fun b => by simp⟩
  | append_singleton hs hit ih =>
    rw [List.foldl_append]
    exact ih.report hidle hsame hit.1 hit.2

theorem SlotsEnded.slots {l : List σ} {hs : List (Nat × BitVec 2)} {acc : List σ × List β} (h : SlotsEnded gen busy idle l hs acc) :
    acc.1 = l.zipIdx.map fun x => if (x.2, gen x.1) ∈ hs then idle x.1 else x.1 := by
  refine List.ext_getElem? fun i => ?_
  rw [h.1 i, List.getElem?_map, List.getElem?_zipIdx, Nat.zero_add]
  cases l[i]? <;> rfl

/-- Whether a slot with some property was ended. -/
theorem SlotsEnded.exists_iff {l : List σ} {hs : List (Nat × BitVec 2)} {acc : List σ × List β}
    (h : SlotsEnded gen busy idle l hs acc) (p : β → Prop) :
    (∃ b ∈ acc.2, p b) ↔ ∃ x ∈ l.zipIdx, (x.2, gen x.1) ∈ hs ∧ ∃ b, busy x.1 = some b ∧ p b := by
  constructor
  · rintro ⟨b, hb, hp⟩
    obtain ⟨i, x, hx, hbusy, hin⟩ := (h.2 b).1 hb
    exact ⟨(x, i), List.mem_zipIdx_iff_getElem?.2 hx, hin, b, hbusy, hp⟩
  · rintro ⟨⟨x, i⟩, hx, hin, b, hbusy, hp⟩
    exact ⟨b, (h.2 b).2 ⟨i, x, List.mem_zipIdx_iff_getElem?.1 hx, hbusy, hin⟩, hp⟩

end

end Sys2Proof.Machine

/-! PROOFS. A PRESENCE from the own station number mutes the part (R96, R97, R98, R104). -/

namespace Sys2Proof.Machine

/-! ### What dropped reports change in a MUTED part -/

def Owner.lengthSlot : Owner → Option Nat
  | .ctrQuery i => some i
  | _ => none

def Owner.querySlot : Owner → Option Nat
  | .reqQuery i => some i
  | _ => none

def Owner.fetchSlot : Owner → Option Nat
  | .reqFetch i => some i
  | _ => none

/-- The slots, with the generations of the attempts, to which dropped frames are reported; `slot` picks the owners of one table. -/
def reportsTo (slot : Owner → Option Nat) (es : List TxEntry) : List (Nat × BitVec 2) :=
  es.filterMap fun e => if e.withdrawn then none else (slot e.owner).map fun i => (i, tagGen e.frame.tag)

/-- Length queries ended, with what they were busy with. -/
abbrev LengthEnds := List LengthSlot × List LengthBusy

/-- Lineage queries ended. -/
abbrev QueryEnds := List QuerySlot × List QueryBusy

/-- Fetches ended. -/
abbrev FetchEnds := List FetchSlot × List FetchBusy

def endLengths : LengthEnds → Nat × BitVec 2 → LengthEnds := endSlot LengthSlot.gen LengthSlot.busy fun x => ⟨x.gen, none⟩

def endQueries : QueryEnds → Nat × BitVec 2 → QueryEnds := endSlot QuerySlot.gen QuerySlot.busy fun x => ⟨x.gen, none⟩

def endFetches : FetchEnds → Nat × BitVec 2 → FetchEnds := endSlot FetchSlot.gen FetchSlot.busy fun x => ⟨x.gen, none⟩

/-- A listed LOOKING coil asked for by one of the ended queries is UNREACHABLE (R136). -/
def loseListed (bs : List QueryBusy) (x : Coil × RecState) : Coil × RecState :=
  if x.2 = .looking ∧ ∃ b ∈ bs, b.coil = x.1 ∧ b.serves = .coilList then (x.1, .unreachable) else x

/-- A LOOKING place asked for by one of the ended queries is UNREACHABLE (R160). -/
def losePlace (bs : List QueryBusy) (p : Place) : Place :=
  if p.outcome = .looking ∧ ∃ b ∈ bs, b.coil = p.coil ∧ b.serves = .place then { p with outcome := .unreachable } else p

/-- The tables with the points of the ended fetches UNREACHABLE (R148). -/
def loseFetches (ds : List DepthTable) (bs : List FetchBusy) : List DepthTable :=
  bs.foldl (fun ds b => ds.modify b.group.depth fun t => t.fill b.group.first (outcomeResult .unreachable false) b.group.count) ds

/-- CTR after length queries ended without a length (R40). -/
def Ctr.lose (c : Ctr) (ends : LengthEnds) : Ctr := { c with
  slots := ends.1
  decls := c.decls.map fun d => if ∃ b ∈ ends.2, b.link = d.id then { d with lq := .none } else d
  entries := c.entries.map fun e => if ∃ b ∈ ends.2, b.link = e.id then { e with lq := .none } else e }

/-- REQ after queries and fetches ended, and its descent query was given up where `given` says so (R98, R130, R148, R164). -/
def Req.lose (r : Req) (qs : QueryEnds) (fs : FetchEnds) (given : Bool) : Req := { r with
  queries := qs.1
  fetches := fs.1
  refusal := if ∃ b ∈ qs.2, b.serves = .resolution then some .unreachable else r.refusal
  plan := r.plan.map fun p => { p with coils := p.coils.map (loseListed qs.2) }
  depths := loseFetches r.depths fs.2
  walk := { r.walk with
    places := r.walk.places.map (losePlace qs.2)
    expanded := if given then r.walk.expanded + 1 else r.walk.expanded
    dropped := if given then r.walk.dropped + 1 else r.walk.dropped }
  collector := if given then { r.collector with state := .idle, tries := 0, quiet := 0, overall := 0, parts := [] } else r.collector }

/-- The part after reports of dropped frames. -/
def State.lose (s : State) (cs : LengthEnds) (qs : QueryEnds) (fs : FetchEnds) (given : Bool) : State :=
  { s with ctr := s.ctr.lose cs, req := s.req.lose qs fs given }

/-- The descent query is given up by the report of one of `es` (R164). -/
def State.givesUp (s : State) (es : List TxEntry) : Prop :=
  s.req.collector.state = .offering ∧ s.req.walk.expanded < s.req.walk.places.length ∧
    ∃ e ∈ es, e.withdrawn = false ∧ e.owner = .reqDescent ∧ e.frame.tag = BitVec.ofNat 8 (192 + s.req.collector.gen.toNat)

/-! ### Nothing ended -/

theorem loseListed_nil (x : Coil × RecState) : loseListed [] x = x := if_neg fun ⟨_, _, hb, _⟩ => nomatch hb

theorem losePlace_nil (p : Place) : losePlace [] p = p := if_neg fun ⟨_, _, hb, _⟩ => nomatch hb

theorem lose_nothing (s : State) : s.lose (s.ctr.slots, []) (s.req.queries, []) (s.req.fetches, []) false = s := by
  have hlisted : loseListed [] = id := funext loseListed_nil
  have hplace : losePlace [] = id := funext losePlace_nil
  unfold State.lose Ctr.lose Req.lose
  simp [hlisted, hplace, loseFetches]

/-! ### One more ended -/

theorem loseListed_coilList (bs : List QueryBusy) {b : QueryBusy} (h : b.serves = .coilList) (x : Coil × RecState) :
    loseListed (bs ++ [b]) x =
      if loseListed bs x = (b.coil, .looking) then (b.coil, .unreachable) else loseListed bs x := by
  by_cases hold : x.2 = .looking ∧ ∃ y ∈ bs, y.coil = x.1 ∧ y.serves = .coilList
  · have hbs : loseListed bs x = (x.1, .unreachable) := if_pos hold
    obtain ⟨ho, y, hy, hc⟩ := hold
    rw [hbs, if_neg (by simp)]
    exact if_pos ⟨ho, y, List.mem_append_left _ hy, hc⟩
  · have hbs : loseListed bs x = x := if_neg hold
    rw [hbs]
    by_cases hnew : x = (b.coil, .looking)
    · rw [if_pos hnew, hnew]
      exact if_pos ⟨rfl, b, by simp, rfl, h⟩
    · rw [if_neg hnew]
      refine if_neg fun ⟨ho, y, hy, hyc, hys⟩ => ?_
      rcases List.mem_append.1 hy with hy | hy
      · exact hold ⟨ho, y, hy, hyc, hys⟩
      · exact hnew (Prod.ext (List.mem_singleton.1 hy ▸ hyc.symm) ho)

theorem loseListed_other (bs : List QueryBusy) {b : QueryBusy} (h : b.serves ≠ .coilList) : loseListed (bs ++ [b]) = loseListed bs := by
  funext x
  refine if_congr (and_congr_right fun _ => ⟨fun ⟨y, hy, hc⟩ => ?_, fun ⟨y, hy, hc⟩ => ⟨y, List.mem_append_left _ hy, hc⟩⟩) rfl rfl
  rcases List.mem_append.1 hy with hy | hy
  · exact ⟨y, hy, hc⟩
  · exact absurd (List.mem_singleton.1 hy ▸ hc.2) h

theorem losePlace_place (bs : List QueryBusy) {b : QueryBusy} (h : b.serves = .place) (p : Place) : losePlace (bs ++ [b]) p =
    if (losePlace bs p).coil = b.coil ∧ (losePlace bs p).outcome = .looking then { losePlace bs p with outcome := .unreachable }
    else losePlace bs p := by
  by_cases hold : p.outcome = .looking ∧ ∃ y ∈ bs, y.coil = p.coil ∧ y.serves = .place
  · have hbs : losePlace bs p = { p with outcome := .unreachable } := if_pos hold
    obtain ⟨ho, y, hy, hc⟩ := hold
    rw [hbs, if_neg fun he => nomatch he.2]
    exact if_pos ⟨ho, y, List.mem_append_left _ hy, hc⟩
  · have hbs : losePlace bs p = p := if_neg hold
    rw [hbs]
    by_cases hnew : p.coil = b.coil ∧ p.outcome = .looking
    · rw [if_pos hnew]
      exact if_pos ⟨hnew.2, b, by simp, hnew.1.symm, h⟩
    · rw [if_neg hnew]
      refine if_neg fun ⟨ho, y, hy, hyc, hys⟩ => ?_
      rcases List.mem_append.1 hy with hy | hy
      · exact hold ⟨ho, y, hy, hyc, hys⟩
      · exact hnew ⟨List.mem_singleton.1 hy ▸ hyc.symm, ho⟩

theorem losePlace_other (bs : List QueryBusy) {b : QueryBusy} (h : b.serves ≠ .place) : losePlace (bs ++ [b]) = losePlace bs := by
  funext p
  refine if_congr (and_congr_right fun _ => ⟨fun ⟨y, hy, hc⟩ => ?_, fun ⟨y, hy, hc⟩ => ⟨y, List.mem_append_left _ hy, hc⟩⟩) rfl rfl
  rcases List.mem_append.1 hy with hy | hy
  · exact ⟨y, hy, hc⟩
  · exact absurd (List.mem_singleton.1 hy ▸ hc.2) h

theorem exists_append_single {α : Type} {l : List α} {b : α} {p : α → Prop} :
    (∃ y ∈ l ++ [b], p y) ↔ (∃ y ∈ l, p y) ∨ p b := by
  simp [or_and_right, exists_or]

/-- The end of one more length query (R40). -/
theorem Ctr.lose_ends (c : Ctr) (ends : LengthEnds) (b : LengthBusy) (slots : List LengthSlot) : c.lose (slots, ends.2 ++ [b]) =
    { c.lose ends with
      slots
      decls := (c.lose ends).decls.map fun d => if d.id = b.link then { d with lq := .none } else d
      entries := (c.lose ends).entries.map fun e => if e.id = b.link then { e with lq := .none } else e } := by
  unfold Ctr.lose
  simp only [List.map_map, exists_append_single]
  congr 1
  · refine List.map_congr_left fun d _ => ?_
    by_cases h : ∃ y ∈ ends.2, y.link = d.id
    · simp only [Function.comp_apply, if_pos h, if_pos (Or.inl h)]
      exact (ite_self _).symm
    · simp only [Function.comp_apply, h, false_or]
      exact if_congr eq_comm rfl rfl
  · refine List.map_congr_left fun e _ => ?_
    by_cases h : ∃ y ∈ ends.2, y.link = e.id
    · simp only [Function.comp_apply, if_pos h, if_pos (Or.inl h)]
      exact (ite_self _).symm
    · simp only [Function.comp_apply, h, false_or]
      exact if_congr eq_comm rfl rfl

/-- The end of one more lineage query (R130). -/
theorem Req.lose_query (r : Req) (qs : QueryEnds) (fs : FetchEnds) (given : Bool) (i : Nat) (gen : BitVec 2) (b : QueryBusy) :
    (r.lose qs fs given).queryLost i gen b = r.lose (qs.1.set i ⟨gen, none⟩, qs.2 ++ [b]) fs given := by
  unfold Req.queryLost Req.lose
  simp only [exists_append_single]
  cases hb : b.serves with
  | resolution =>
    simp [loseListed_other qs.2 (b := b) (by simp [hb]), losePlace_other qs.2 (b := b) (by simp [hb])]
  | coilList =>
    have hmap : ∀ l : List (Coil × RecState), l.map (loseListed (qs.2 ++ [b])) = (l.map (loseListed qs.2)).map fun x =>
        if x = (b.coil, .looking) then (b.coil, .unreachable) else x := fun l => by
      rw [List.map_map]
      exact List.map_congr_left fun x _ => loseListed_coilList qs.2 hb x
    simp only [losePlace_other qs.2 (b := b) (by simp [hb]), hmap, Option.map_map]
    simp [Function.comp_def]
  | place =>
    have hmap : ∀ l : List Place, l.map (losePlace (qs.2 ++ [b])) = (l.map (losePlace qs.2)).map fun p =>
        if p.coil = b.coil ∧ p.outcome = .looking then { p with outcome := .unreachable } else p := fun l => by
      rw [List.map_map]
      exact List.map_congr_left fun p _ => losePlace_place qs.2 hb p
    simp [loseListed_other qs.2 (b := b) (by simp [hb]), hmap]

end Sys2Proof.Machine

/-! PROOFS. A part that is MUTED, continued: the reports one by one, and the state they leave (R96, R97, R98). -/

namespace Sys2Proof.Machine

/-! ### One report -/

/-- A MUTED part with nothing queued or waiting. -/
structure State.Hushed (s : State) : Prop where
  muted   : s.bus.muted = true
  queue   : s.bus.queue = []
  waiting : s.bus.waiting = []

theorem reportsTo_nil (slot : Owner → Option Nat) : reportsTo slot [] = [] := rfl

theorem reportsTo_cons (slot : Owner → Option Nat) (e : TxEntry) (es : List TxEntry) :
    reportsTo slot (e :: es) = reportsTo slot [e] ++ reportsTo slot es := by
  unfold reportsTo
  rw [← List.filterMap_append]
  rfl

/-- A withdrawn frame is reported to nobody (R93). -/
theorem reportsTo_withdrawn (slot : Owner → Option Nat) {e : TxEntry} (h : e.withdrawn = true) : reportsTo slot [e] = [] := by
  simp [reportsTo, h]

theorem reportsTo_other {slot : Owner → Option Nat} {e : TxEntry} (h : slot e.owner = none) : reportsTo slot [e] = [] := by
  simp [reportsTo, h]

theorem reportsTo_slot {slot : Owner → Option Nat} {e : TxEntry} (hw : e.withdrawn = false) {i : Nat} (h : slot e.owner = some i) :
    reportsTo slot [e] = [(i, tagGen e.frame.tag)] := by
  simp [reportsTo, h, hw]

/-- The part after the reports of one more frame. -/
def State.loseMore (s : State) (e : TxEntry) (cs : LengthEnds) (qs : QueryEnds) (fs : FetchEnds) (given : Bool) : State :=
  s.lose ((reportsTo Owner.lengthSlot [e]).foldl endLengths cs) ((reportsTo Owner.querySlot [e]).foldl endQueries qs)
    ((reportsTo Owner.fetchSlot [e]).foldl endFetches fs) given

theorem Bus.hushed {b : Bus} (hq : b.queue = []) (hw : b.waiting = []) : { b with queue := [], waiting := [] } = b := by
  obtain ⟨rx, queue, waiting, _, _, _, _, _, _⟩ := b
  cases hq
  cases hw
  rfl

theorem State.Hushed.withdraw {u : State} (hu : u.Hushed) (mine : Owner → Bool) : (u.withdraw mine).bus = u.bus := by
  unfold State.withdraw
  rw [hu.queue, hu.waiting]
  exact Bus.hushed hu.queue hu.waiting

theorem State.Hushed.filter {u : State} (hu : u.Hushed) (p : TxEntry → Bool) :
    { u.bus with waiting := u.bus.waiting.filter p } = u.bus := by
  rw [hu.waiting]
  exact (congrArg (fun q => { u.bus with queue := q, waiting := [] }) hu.queue).trans (Bus.hushed hu.queue hu.waiting)

theorem sameGen_iff {gen : BitVec 2} {tag : Byte} : sameGen (some gen) tag = true ↔ gen = tagGen tag := by
  simp [sameGen]

section
variable {s : State} (hs : s.Hushed) {e : TxEntry} (hw : e.withdrawn = false) (cs : LengthEnds) (qs : QueryEnds) (fs : FetchEnds)
  (given : Bool) {i : Nat}
include hs hw

/-- The report of a length query (R40). -/
theorem report_length (h : e.owner = .ctrQuery i) :
    reportDropped e (s.lose cs qs fs given) = s.lose (endLengths cs (i, tagGen e.frame.tag)) qs fs given := by
  have hu : (s.lose cs qs fs given).Hushed := ⟨hs.muted, hs.queue, hs.waiting⟩
  rw [reportDropped_owner hw]
  simp only [h]
  change (if sameGen ((cs.1[i]?).map (·.gen)) e.frame.tag then _ else _) = _
  cases hx : cs.1[i]? with
  | none => rw [endLengths, endSlot_out hx]; rfl
  | some x =>
    obtain ⟨gen, busy⟩ := x
    cases busy with
    | none =>
      rw [endLengths, endSlot_idle hx rfl]
      refine (ite_congr rfl (fun _ => ?_) fun _ => rfl).trans (ite_self _)
      have hslot : (s.lose cs qs fs given).ctr.slots[i]? = some ⟨gen, none⟩ := hx
      unfold failLengthQuery
      rw [hslot]
    | some b =>
      rw [endLengths, endSlot_busy hx rfl]
      by_cases hg : gen = tagGen e.frame.tag
      · rw [if_pos hg]
        refine (if_pos (sameGen_iff.2 hg)).trans ((failLengthQuery_lost (s := s.lose cs qs fs given) (b := b) hx (.inr hs.muted)).trans ?_)
        rw [hu.filter]
        exact congrArg (fun c => { s with ctr := c, req := s.req.lose qs fs given }) (s.ctr.lose_ends cs b _).symm
      · rw [if_neg hg]
        exact if_neg fun h => hg (sameGen_iff.1 h)

/-- The report of a lineage query (R130). -/
theorem report_query (h : e.owner = .reqQuery i) :
    reportDropped e (s.lose cs qs fs given) = s.lose cs (endQueries qs (i, tagGen e.frame.tag)) fs given := by
  have hu : (s.lose cs qs fs given).Hushed := ⟨hs.muted, hs.queue, hs.waiting⟩
  rw [reportDropped_owner hw]
  simp only [h]
  change (if sameGen ((qs.1[i]?).map (·.gen)) e.frame.tag then _ else _) = _
  cases hx : qs.1[i]? with
  | none => rw [endQueries, endSlot_out hx]; rfl
  | some x =>
    obtain ⟨gen, busy⟩ := x
    cases busy with
    | none =>
      rw [endQueries, endSlot_idle hx rfl]
      refine (ite_congr rfl (fun _ => ?_) fun _ => rfl).trans (ite_self _)
      have hslot : (s.lose cs qs fs given).req.queries[i]? = some ⟨gen, none⟩ := hx
      unfold failQuery
      rw [hslot]
    | some b =>
      rw [endQueries, endSlot_busy hx rfl]
      by_cases hg : gen = tagGen e.frame.tag
      · rw [if_pos hg]
        refine (if_pos (sameGen_iff.2 hg)).trans ((failQuery_lost (s := s.lose cs qs fs given) (b := b) hx (.inr hs.muted)).trans ?_)
        rw [hu.withdraw]
        exact congrArg (fun r => { s with ctr := s.ctr.lose cs, req := r }) (s.req.lose_query qs fs given i gen b)
      · rw [if_neg hg]
        exact if_neg fun h => hg (sameGen_iff.1 h)

/-- The report of a fetch (R148). -/
theorem report_fetch (h : e.owner = .reqFetch i) :
    reportDropped e (s.lose cs qs fs given) = s.lose cs qs (endFetches fs (i, tagGen e.frame.tag)) given := by
  have hu : (s.lose cs qs fs given).Hushed := ⟨hs.muted, hs.queue, hs.waiting⟩
  rw [reportDropped_owner hw]
  simp only [h]
  change (if sameGen ((fs.1[i]?).map (·.gen)) e.frame.tag then _ else _) = _
  cases hx : fs.1[i]? with
  | none => rw [endFetches, endSlot_out hx]; rfl
  | some x =>
    obtain ⟨gen, busy⟩ := x
    cases busy with
    | none =>
      rw [endFetches, endSlot_idle hx rfl]
      refine (ite_congr rfl (fun _ => ?_) fun _ => rfl).trans (ite_self _)
      have hslot : (s.lose cs qs fs given).req.fetches[i]? = some ⟨gen, none⟩ := hx
      unfold failFetch
      rw [hslot]
    | some b =>
      rw [endFetches, endSlot_busy hx rfl]
      by_cases hg : gen = tagGen e.frame.tag
      · rw [if_pos hg]
        refine (if_pos (sameGen_iff.2 hg)).trans ((failFetch_end (s := s.lose cs qs fs given) (b := b) hx true (.inr hs.muted)).trans ?_)
        rw [if_pos hu.muted, if_pos (.inl hu.muted), endFetch_eq, hu.withdraw]
        simp only [State.lose, Req.lose, loseFetches, List.foldl_append, List.foldl_cons, List.foldl_nil]
      · rw [if_neg hg]
        exact if_neg fun h => hg (sameGen_iff.1 h)

/-- The report of a descent query (R164). -/
theorem report_descent (h : e.owner = .reqDescent) : ∃ given' : Bool, (given' = true ↔ given = true ∨ s.givesUp [e]) ∧
    reportDropped e (s.lose cs qs fs given) = s.lose cs qs fs given' := by
  have hu : (s.lose cs qs fs given).Hushed := ⟨hs.muted, hs.queue, hs.waiting⟩
  rw [reportDropped_owner hw]
  simp only [h]
  cases given with
  | true => exact ⟨true, by simp, if_neg fun ⟨hst, _⟩ => nomatch hst⟩
  | false =>
    have hlen : (s.req.walk.places.map (losePlace qs.2)).length = s.req.walk.places.length := List.length_map _
    by_cases hg : s.givesUp [e]
    · have hgives := hg
      obtain ⟨hst, hexp, x, hx, -, -, htag⟩ := hg
      obtain rfl := List.mem_singleton.1 hx
      have hp : (s.lose cs qs fs false).req.walk.places[(s.lose cs qs fs false).req.walk.expanded]? = _ :=
        List.getElem?_eq_getElem (l := s.req.walk.places.map (losePlace qs.2)) (hlen ▸ hexp)
      refine ⟨true, iff_of_true rfl (.inr hgives), (if_pos ⟨hst, htag⟩).trans ((failDescent_end hp (.inr hu.muted)).trans ?_)⟩
      rfl
    · refine ⟨false, iff_of_false (by simp) (by simpa using hg), ?_⟩
      by_cases hc : s.req.collector.state = .offering ∧ e.frame.tag = collectorTag s.req.collector
      · have hexp : s.req.walk.places.length ≤ s.req.walk.expanded := by
          by_contra hlt
          exact hg ⟨hc.1, Nat.not_le.1 hlt, e, .head _, hw, h, hc.2⟩
        have hp : (s.lose cs qs fs false).req.walk.place = none :=
          List.getElem?_eq_none (l := s.req.walk.places.map (losePlace qs.2)) (hlen ▸ hexp)
        refine (if_pos hc).trans ?_
        unfold failDescent
        rw [hp]
      · exact if_neg hc

end

/-- The report of one frame, whatever its owner. -/
theorem report_lose {s : State} (hs : s.Hushed) (e : TxEntry) (cs : LengthEnds) (qs : QueryEnds) (fs : FetchEnds) (given : Bool) :
    ∃ given' : Bool, (given' = true ↔ given = true ∨ s.givesUp [e]) ∧
      reportDropped e (s.lose cs qs fs given) = s.loseMore e cs qs fs given' := by
  have hnot : e.withdrawn = true ∨ e.owner ≠ .reqDescent → ¬ s.givesUp [e] := by
    rintro hno ⟨_, _, x, hx, hwx, hox, _⟩
    obtain rfl := List.mem_singleton.1 hx
    rcases hno with h | h
    · rw [hwx] at h
      cases h
    · exact h hox
  have hkept : e.withdrawn = true ∨ e.owner ≠ .reqDescent → (given = true ↔ given = true ∨ s.givesUp [e]) := fun h =>
    (or_iff_left (hnot h)).symm
  unfold State.loseMore
  cases hw : e.withdrawn with
  | true =>
    refine ⟨given, hkept (.inl hw), ?_⟩
    rw [reportsTo_withdrawn _ hw, reportsTo_withdrawn _ hw, reportsTo_withdrawn _ hw]
    exact if_pos hw
  | false =>
    have hother : ∀ o : Owner, e.owner = o → o.lengthSlot = none → o.querySlot = none → o.fetchSlot = none →
        s.lose ((reportsTo Owner.lengthSlot [e]).foldl endLengths cs) ((reportsTo Owner.querySlot [e]).foldl endQueries qs)
          ((reportsTo Owner.fetchSlot [e]).foldl endFetches fs) = s.lose cs qs fs := fun o ho h1 h2 h3 => by
      rw [reportsTo_other (ho ▸ h1), reportsTo_other (ho ▸ h2), reportsTo_other (ho ▸ h3)]
      rfl
    cases ho : e.owner with
    | ctrQuery i =>
      refine ⟨given, hkept (.inr (by simp [ho])), ?_⟩
      rw [reportsTo_slot hw (i := i) (by rw [ho]; rfl), reportsTo_other (by rw [ho]; rfl), reportsTo_other (by rw [ho]; rfl)]
      exact report_length hs hw cs qs fs given ho
    | reqQuery i =>
      refine ⟨given, hkept (.inr (by simp [ho])), ?_⟩
      rw [reportsTo_other (slot := Owner.lengthSlot) (by rw [ho]; rfl), reportsTo_slot hw (i := i) (by rw [ho]; rfl),
        reportsTo_other (by rw [ho]; rfl)]
      exact report_query hs hw cs qs fs given ho
    | reqFetch i =>
      refine ⟨given, hkept (.inr (by simp [ho])), ?_⟩
      rw [reportsTo_other (slot := Owner.lengthSlot) (by rw [ho]; rfl), reportsTo_other (slot := Owner.querySlot) (by rw [ho]; rfl),
        reportsTo_slot hw (i := i) (by rw [ho]; rfl)]
      exact report_fetch hs hw cs qs fs given ho
    | reqDescent =>
      rw [hother _ ho rfl rfl rfl]
      exact report_descent hs hw cs qs fs given ho
    | ctrAnnounce | pseReply | rosTime | rosAnswer | busFinal =>
      refine ⟨given, hkept (.inr (by simp [ho])), ?_⟩
      rw [hother _ ho rfl rfl rfl]
      exact reportDropped_quiet hw (by simp [ho])
    | rosStart =>
      refine ⟨given, hkept (.inr (by simp [ho])), ?_⟩
      rw [hother _ ho rfl rfl rfl]
      exact reportDropped_quiet hw (by simp [ho]; exact hs.muted)

/-- All reports, in order. -/
theorem foldl_report {s : State} (hs : s.Hushed) : ∀ (es : List TxEntry) (cs : LengthEnds) (qs : QueryEnds) (fs : FetchEnds)
    (given : Bool), ∃ given' : Bool, (given' = true ↔ given = true ∨ s.givesUp es) ∧
      es.foldl (fun u e => reportDropped e u) (s.lose cs qs fs given) =
        s.lose ((reportsTo Owner.lengthSlot es).foldl endLengths cs) ((reportsTo Owner.querySlot es).foldl endQueries qs)
          ((reportsTo Owner.fetchSlot es).foldl endFetches fs) given'
  | [], cs, qs, fs, given => ⟨given, by simp [State.givesUp], rfl⟩
  | e :: es, cs, qs, fs, given => by
    obtain ⟨g1, hg1, hone⟩ := report_lose hs e cs qs fs given
    obtain ⟨g2, hg2, hrest⟩ := foldl_report hs es ((reportsTo Owner.lengthSlot [e]).foldl endLengths cs)
      ((reportsTo Owner.querySlot [e]).foldl endQueries qs) ((reportsTo Owner.fetchSlot [e]).foldl endFetches fs) g1
    refine ⟨g2, hg2.trans ?_, ?_⟩
    · have hsplit : s.givesUp (e :: es) ↔ s.givesUp [e] ∨ s.givesUp es := by
        unfold State.givesUp
        simp only [List.exists_mem_cons_iff, List.not_mem_nil, false_and, exists_false, or_false]
        tauto
      rw [hg1, hsplit, or_assoc]
    · rw [List.foldl_cons, hone, reportsTo_cons _ e es, reportsTo_cons _ e es, reportsTo_cons _ e es, List.foldl_append,
        List.foldl_append, List.foldl_append]
      exact hrest

end Sys2Proof.Machine

/-! PROOFS. A PRESENCE from the own station number mutes the part: the state it leaves (R96, R97, R98, R104). -/

namespace Sys2Proof.Machine

/-! ### The points of fetches that end UNREACHABLE (R148) -/

/-- The result of a point of an ended fetch: UNREACHABLE where it was absent (R148, R151). -/
def lostResult (r : Option (Option Result)) (a : Option Attr) : Option (Option Result) :=
  match r, a with
  | some none, some (.traced source _ _ split unscaled broken _) => some (some (.bare false split unscaled broken .unreachable source))
  | some none, some (.ended flag source) => some (some (.bare false false false false flag source))
  | r, _ => r

theorem lostResult_twice (r : Option (Option Result)) (a : Option Attr) : lostResult (lostResult r a) a = lostResult r a := by
  cases r with
  | none => rfl
  | some r =>
    cases r with
    | some x => rfl
    | none =>
      cases a with
      | none => rfl
      | some a => cases a <;> rfl

/-- Point `n` of depth `d` belongs to the fetch's group. -/
def FetchBusy.covers (d n : Nat) (b : FetchBusy) : Prop :=
  b.group.depth = d ∧ b.group.first ≤ n ∧ n < b.group.first + b.group.count

/-- One fetch that ends UNREACHABLE. -/
theorem modify_lost (ds : List DepthTable) (b : FetchBusy) {d : Nat} {x : DepthTable} (hx : ds[d]? = some x) :
    ∃ y, (ds.modify b.group.depth fun t => t.fill b.group.first (outcomeResult .unreachable false) b.group.count)[d]? = some y ∧
      y.attrs = x.attrs ∧ ∀ n, (b.covers d n → y.results[n]? = lostResult x.results[n]? x.attrs[n]?) ∧
        (¬ b.covers d n → y.results[n]? = x.results[n]?) := by
  obtain ⟨y, hy, hattrs, hres⟩ := (groupFilled_fill ds b.group (fun _ => none) false (some .unreachable)).2 d x hx
  refine ⟨y, hy, hattrs, fun n => ⟨fun hc => ?_, fun hc => ?_⟩⟩
  · rw [hres n, if_pos ⟨hc.1.symm, hc.2⟩]
    cases x.results[n]? with
    | none => rfl
    | some r =>
      cases r with
      | some r => rfl
      | none =>
        cases x.attrs[n]? with
        | none => rfl
        | some a => cases a <;> rfl
  · rw [hres n, if_neg fun h => hc ⟨h.1.symm, h.2⟩]

theorem loseFetches_spec : ∀ (bs : List FetchBusy) (ds : List DepthTable), (loseFetches ds bs).length = ds.length ∧
    ∀ (d : Nat) (x : DepthTable), ds[d]? = some x → ∃ y, (loseFetches ds bs)[d]? = some y ∧ y.attrs = x.attrs ∧
      ∀ n, ((∃ b ∈ bs, b.covers d n) → y.results[n]? = lostResult x.results[n]? x.attrs[n]?) ∧
        ((¬ ∃ b ∈ bs, b.covers d n) → y.results[n]? = x.results[n]?)
  | [], ds => ⟨rfl, fun d x hx => ⟨x, hx, rfl, fun n => ⟨fun ⟨_, hb, _⟩ => (nomatch hb), fun _ => rfl⟩⟩⟩
  | b :: bs, ds => by
    obtain ⟨hlen, hrest⟩ := loseFetches_spec bs
      (ds.modify b.group.depth fun t => t.fill b.group.first (outcomeResult .unreachable false) b.group.count)
    refine ⟨hlen.trans (List.length_modify ..), fun d x hx => ?_⟩
    obtain ⟨z, hz, hza, hone⟩ := modify_lost ds b hx
    obtain ⟨y, hy, hya, hmore⟩ := hrest d z hz
    refine ⟨y, hy, hya.trans hza, fun n => ?_⟩
    obtain ⟨hin, hout⟩ := hone n
    obtain ⟨hins, houts⟩ := hmore n
    rw [hza] at hins
    rw [List.exists_mem_cons_iff]
    by_cases hb : b.covers d n
    · refine ⟨fun _ => ?_, fun h => absurd (.inl hb) h⟩
      by_cases hbs : ∃ b ∈ bs, b.covers d n
      · rw [hins hbs, hin hb, lostResult_twice]
      · rw [houts hbs, hin hb]
    · refine ⟨fun h => ?_, fun h => ?_⟩
      · rw [hins (h.resolve_left hb), hout hb]
      · rw [houts fun hbs => h (.inr hbs), hout hb]

/-! ### The part is MUTED (R96, R97, R104) -/

/-- The part as MUTED is set, before the reports of the dropped frames. -/
def State.justMuted (s : State) : State := { s with
  bus := { s.bus with muted := true, queue := [], waiting := [], rx := .hunt, driven := true, observed := true }
  pse := { s.pse with service := [], engine := .idle }
  sup := { s.sup with
    fault := some ⟨.duplicateStation, .bus, none, none, s.ros.clock⟩
    faultCount := if s.sup.faultCount < 65535 then s.sup.faultCount + 1 else s.sup.faultCount } }

/-- MUTED set, the reports done, and the final PRESENCE queued. -/
theorem becomeMuted_eq (s : State) : ∃ given : Bool, (given = true ↔ s.givesUp (s.bus.queue ++ s.bus.waiting)) ∧
    let gone := s.bus.queue ++ s.bus.waiting
    let u := s.justMuted.lose ((reportsTo Owner.lengthSlot gone).foldl endLengths (s.ctr.slots, []))
      ((reportsTo Owner.querySlot gone).foldl endQueries (s.req.queries, []))
      ((reportsTo Owner.fetchSlot gone).foldl endFetches (s.req.fetches, [])) given
    becomeMuted { s with bus := { s.bus with rx := .hunt, driven := true, observed := true } } = { u with bus := { u.bus with
      queue := [⟨ownPresence u true false, .busFinal, 0, 0, false, false⟩] } } := by
  have hs : s.justMuted.Hushed := ⟨rfl, rfl, rfl⟩
  obtain ⟨given, hgiven, hfold⟩ := foldl_report hs (s.bus.queue ++ s.bus.waiting) (s.ctr.slots, []) (s.req.queries, [])
    (s.req.fetches, []) false
  rw [show s.justMuted.lose (s.ctr.slots, []) (s.req.queries, []) (s.req.fetches, []) false = s.justMuted from
    lose_nothing s.justMuted] at hfold
  refine ⟨given, hgiven.trans (or_iff_right (by simp)), ?_⟩
  have hmuted : becomeMuted { s with bus := { s.bus with rx := .hunt, driven := true, observed := true } } =
      State.join (ownPresence ((s.bus.queue ++ s.bus.waiting).foldl (fun u e => reportDropped e u) s.justMuted) true false) .busFinal
        ((s.bus.queue ++ s.bus.waiting).foldl (fun u e => reportDropped e u) s.justMuted) := rfl
  intro gone u
  rw [hmuted, hfold]
  unfold State.join State.startHead
  exact if_neg fun h : RxState.hunt = .idle => nomatch h

theorem exec_presenceOwn {s : State} {dest : BitVec 6} {tag : Byte} {payload : List Byte}
    (hwf : (Instr.presence s.settings.station dest tag payload).wf = true) (h0 : s.settings.station ≠ 0)
    (h63 : s.settings.station ≠ 63) : exec (.presence s.settings.station dest tag payload) s = whenReceiving s
      (let line : State := { s with bus := { s.bus with rx := .hunt, driven := true, observed := true } }
      if s.bus.muted then line else becomeMuted line) := by
  change whenReceiving s (frameArrives (some .presence) s.settings.station dest tag payload s) = _
  rw [frameArrives_wf hwf]
  exact congrArg (whenReceiving s) ((if_neg (by simp [busStation_of h0 h63])).trans (if_pos ⟨rfl, rfl⟩))

/-- A slot's attempt is among the frames dropped. -/
theorem mem_reportsTo {slot : Owner → Option Nat} {mk : Nat → Owner} (hslot : ∀ o i, slot o = some i ↔ o = mk i) (es : List TxEntry)
    (i : Nat) (g : BitVec 2) : (i, g) ∈ reportsTo slot es ↔
      (es.any fun e => !e.withdrawn && e.owner == mk i && BitVec.ofNat 2 (e.frame.tag.toNat % 4) == g) = true := by
  unfold reportsTo
  rw [List.mem_filterMap, List.any_eq_true]
  refine exists_congr fun e => and_congr_right fun _ => ?_
  cases hw : e.withdrawn with
  | true => simp
  | false =>
    simp only [Bool.false_eq_true, if_false, Option.map_eq_some_iff, Prod.mk.injEq, Bool.not_false, Bool.true_and, Bool.and_eq_true,
      beq_iff_eq]
    constructor
    · rintro ⟨j, hj, rfl, rfl⟩
      exact ⟨(hslot _ _).1 hj, rfl⟩
    · rintro ⟨ho, hg⟩
      exact ⟨i, (hslot _ _).2 ho, rfl, hg⟩

theorem lengthSlot_iff (o : Owner) (i : Nat) : o.lengthSlot = some i ↔ o = .ctrQuery i := by cases o <;> simp [Owner.lengthSlot]

theorem querySlot_iff (o : Owner) (i : Nat) : o.querySlot = some i ↔ o = .reqQuery i := by cases o <;> simp [Owner.querySlot]

theorem fetchSlot_iff (o : Owner) (i : Nat) : o.fetchSlot = some i ↔ o = .reqFetch i := by cases o <;> simp [Owner.fetchSlot]

/-- Settles O34: the reports of all frames dropped, each table of slots by the slots they end. -/
theorem duplicateStationMutes : Obligations.DuplicateStationMutes := by
  intro s dest tag payload hr hwf h0 h63
  rw [exec_presenceOwn hwf h0 h63]
  refine ⟨fun hm => receiving_of_eq hr (if_pos hm), ?_⟩
  intro hm lost query listed placed unlinked filled givenUp
  let gone := s.bus.queue ++ s.bus.waiting
  obtain ⟨given, hgiven, hmuted⟩ := becomeMuted_eq s
  let cs := (reportsTo Owner.lengthSlot gone).foldl endLengths (s.ctr.slots, [])
  let qs := (reportsTo Owner.querySlot gone).foldl endQueries (s.req.queries, [])
  let fs := (reportsTo Owner.fetchSlot gone).foldl endFetches (s.req.fetches, [])
  have hcs := slotsEnded_foldl (gen := LengthSlot.gen) (busy := LengthSlot.busy) (idle := fun x => ⟨x.gen, none⟩) (fun _ => rfl)
    (fun _ h => by rw [← h]) s.ctr.slots (reportsTo Owner.lengthSlot gone)
  have hqs := slotsEnded_foldl (gen := QuerySlot.gen) (busy := QuerySlot.busy) (idle := fun x => ⟨x.gen, none⟩) (fun _ => rfl)
    (fun _ h => by rw [← h]) s.req.queries (reportsTo Owner.querySlot gone)
  have hfs := slotsEnded_foldl (gen := FetchSlot.gen) (busy := FetchSlot.busy) (idle := fun x => ⟨x.gen, none⟩) (fun _ => rfl)
    (fun _ h => by rw [← h]) s.req.fetches (reportsTo Owner.fetchSlot gone)
  have hlength : ∀ i g, (i, g) ∈ reportsTo Owner.lengthSlot gone ↔ lost (.ctrQuery i) g = true := mem_reportsTo lengthSlot_iff gone
  have hquery : ∀ i g, (i, g) ∈ reportsTo Owner.querySlot gone ↔ lost (.reqQuery i) g = true := mem_reportsTo querySlot_iff gone
  have hfetch : ∀ i g, (i, g) ∈ reportsTo Owner.fetchSlot gone ↔ lost (.reqFetch i) g = true := mem_reportsTo fetchSlot_iff gone
  have hunlinked : ∀ id, (∃ b ∈ cs.2, b.link = id) ↔ unlinked id = true := fun id => by
    refine (hcs.exists_iff fun b => b.link = id).trans ?_
    simp only [hlength, unlinked, List.any_eq_true, Bool.and_eq_true, beq_iff_eq, Option.map_eq_some_iff]
  have hasked : ∀ c w, (∃ b ∈ qs.2, b.coil = c ∧ b.serves = w) ↔ query c w = true := fun c w => by
    refine (hqs.exists_iff fun b => b.coil = c ∧ b.serves = w).trans ?_
    simp only [hquery, query, List.any_eq_true, Bool.and_eq_true, beq_iff_eq, Option.map_eq_some_iff, Prod.mk.injEq]
  have hresolution : (∃ b ∈ qs.2, b.serves = .resolution) ↔ (s.req.queries.zipIdx.any fun x => lost (.reqQuery x.2) x.1.gen &&
      x.1.busy.map (·.serves) == some Serves.resolution) = true := by
    refine (hqs.exists_iff fun b => b.serves = .resolution).trans ?_
    simp only [hquery, List.any_eq_true, Bool.and_eq_true, beq_iff_eq, Option.map_eq_some_iff]
  have hfilled : ∀ d n, (∃ b ∈ fs.2, b.covers d n) ↔ filled d n = true := fun d n => by
    refine (hfs.exists_iff fun b => b.covers d n).trans ?_
    simp only [hfetch, filled, List.any_eq_true, Bool.and_eq_true, beq_iff_eq, Option.map_eq_some_iff, decide_eq_true_eq,
      FetchBusy.covers]
  have hlisted : loseListed qs.2 = listed := funext fun x =>
    if_congr (and_congr_right fun _ => hasked x.1 .coilList) rfl rfl
  have hplaced : losePlace qs.2 = placed := funext fun p =>
    if_congr (and_congr_right fun _ => hasked p.coil .place) rfl rfl
  obtain ⟨hlen, htables⟩ := loseFetches_spec fs.2 s.req.depths
  have hctr : s.ctr.lose cs = { s.ctr with
      slots := s.ctr.slots.zipIdx.map fun x => if lost (.ctrQuery x.2) x.1.gen then ⟨x.1.gen, none⟩ else x.1
      decls := s.ctr.decls.map fun d => if unlinked d.id then { d with lq := .none } else d
      entries := s.ctr.entries.map fun e => if unlinked e.id then { e with lq := .none } else e } := by
    have hslots : cs.1 = s.ctr.slots.zipIdx.map fun x => if lost (.ctrQuery x.2) x.1.gen then ⟨x.1.gen, none⟩ else x.1 :=
      hcs.slots.trans (List.map_congr_left fun x _ => if_congr (hlength x.2 x.1.gen) rfl rfl)
    unfold Ctr.lose
    simp only [hslots, hunlinked]
  have hreq : s.req.lose qs fs given = { s.req with
      queries := s.req.queries.zipIdx.map fun x => if lost (.reqQuery x.2) x.1.gen then ⟨x.1.gen, none⟩ else x.1
      fetches := s.req.fetches.zipIdx.map fun x => if lost (.reqFetch x.2) x.1.gen then ⟨x.1.gen, none⟩ else x.1
      refusal := if s.req.queries.zipIdx.any fun x => lost (.reqQuery x.2) x.1.gen &&
          x.1.busy.map (·.serves) == some Serves.resolution then some .unreachable else s.req.refusal
      plan := s.req.plan.map fun p => { p with coils := p.coils.map listed }
      depths := loseFetches s.req.depths fs.2
      walk := { s.req.walk with
        places := s.req.walk.places.map placed
        expanded := if givenUp then s.req.walk.expanded + 1 else s.req.walk.expanded
        dropped := if givenUp then s.req.walk.dropped + 1 else s.req.walk.dropped }
      collector := if givenUp then { s.req.collector with state := .idle, tries := 0, quiet := 0, overall := 0, parts := [] }
                   else s.req.collector } := by
    have hqueries : qs.1 = s.req.queries.zipIdx.map fun x => if lost (.reqQuery x.2) x.1.gen then ⟨x.1.gen, none⟩ else x.1 :=
      hqs.slots.trans (List.map_congr_left fun x _ => if_congr (hquery x.2 x.1.gen) rfl rfl)
    have hfetches : fs.1 = s.req.fetches.zipIdx.map fun x => if lost (.reqFetch x.2) x.1.gen then ⟨x.1.gen, none⟩ else x.1 :=
      hfs.slots.trans (List.map_congr_left fun x _ => if_congr (hfetch x.2 x.1.gen) rfl rfl)
    have hup : ∀ {α : Type} (a b : α), (if given = true then a else b) = if givenUp then a else b := fun _ _ =>
      if_congr hgiven rfl rfl
    unfold Req.lose
    simp only [hqueries, hfetches, hlisted, hplaced, hresolution, hup]
  obtain ⟨t, ht, hc⟩ := receiving_of_eq hr ((if_neg (Bool.eq_false_iff.1 hm)).trans hmuted)
  rw [ownPresence_answer] at hc
  refine ⟨t, loseFetches s.req.depths fs.2, ht, ?_, hlen, fun d x hx => ?_⟩
  · change Carried { s.justMuted with ctr := s.ctr.lose cs, req := s.req.lose qs fs given, bus := _ } t at hc
    rw [hctr, hreq] at hc
    exact hc
  · obtain ⟨y, hy, hattrs, hres⟩ := htables d x hx
    refine ⟨y, hy, hattrs, fun n => ?_⟩
    obtain ⟨hin, hout⟩ := hres n
    by_cases hf : filled d n = true
    · exact (hin ((hfilled d n).2 hf)).trans (if_pos hf).symm
    · exact (hout fun h => hf ((hfilled d n).1 h)).trans (if_neg hf).symm

end Sys2Proof.Machine

/-! PROOFS. Complement bits: what is stuffed into a run of bits and how it is taken out again (R81, R84). -/

namespace Sys2Proof.Machine

/-! ### Taking stuffed bits (R81) -/

/-- The stuffed bits still to come after a run of `run` bits equal to `last`: the complement bit of a run of 7 first. -/
def pend (last : Bool) (run : Nat) (bs : List Bool) : List Bool :=
  if run = 7 then (!last) :: stuff (!last) 1 bs else stuff last run bs

theorem pend_below {run : Nat} (h : run ≠ 7) (last : Bool) (bs : List Bool) : pend last run bs = stuff last run bs := if_neg h

theorem stuff_cons (last : Bool) (run : Nat) (b : Bool) (bs : List Bool) :
    stuff last run (b :: bs) = b :: pend b (if b = last then run + 1 else 1) bs := by
  unfold pend
  change (if (if b = last then run + 1 else 1) = 7 then b :: (!b) :: stuff (!b) 1 bs else b :: stuff b _ bs) = _
  by_cases h : (if b = last then run + 1 else 1) = 7
  · rw [if_pos h, if_pos h]
  · rw [if_neg h, if_neg h]

theorem take_done (last : Bool) (run : Nat) (acc bits : List Bool) :
    takeFrameBits 0 last run acc bits = .got acc.reverse last run bits := by
  cases bits <;> rfl

theorem take_next {need run : Nat} (hn : need ≠ 0) (hr : run ≠ 7) (last : Bool) (acc : List Bool) (b : Bool) (bs : List Bool) :
    takeFrameBits need last run acc (b :: bs) = takeFrameBits (need - 1) b (if b = last then run + 1 else 1) (b :: acc) bs :=
  (if_neg hn).trans (if_neg hr)

theorem take_complement {need : Nat} (hn : need ≠ 0) {b last : Bool} (hb : b ≠ last) (acc bs : List Bool) :
    takeFrameBits need last 7 acc (b :: bs) = takeFrameBits need b 1 acc bs :=
  (if_neg hn).trans ((if_pos rfl).trans (if_neg hb))

theorem take_violation {need : Nat} (hn : need ≠ 0) (b : Bool) (acc bs : List Bool) :
    takeFrameBits need b 7 acc (b :: bs) = .violation :=
  (if_neg hn).trans ((if_pos rfl).trans (if_pos rfl))

/-- Stuffed bits are taken as they were before stuffing. -/
theorem take_pend : ∀ (xs : List Bool) (last : Bool) (run : Nat) (acc : List Bool), run ≤ 7 → ∃ l r, r ≤ 7 ∧ ∀ ys rest,
    takeFrameBits xs.length last run acc (pend last run (xs ++ ys) ++ rest) = .got (acc.reverse ++ xs) l r (pend l r ys ++ rest)
  | [], last, run, acc, hr => ⟨last, run, hr, fun ys rest => by
      rw [List.append_nil]
      exact take_done ..⟩
  | x :: xs, last, run, acc, hr => by
    have hone : ∀ (last : Bool) (run : Nat), run < 7 → ∃ l r, r ≤ 7 ∧ ∀ ys rest,
        takeFrameBits (x :: xs).length last run acc (stuff last run (x :: xs ++ ys) ++ rest) =
          .got (acc.reverse ++ x :: xs) l r (pend l r ys ++ rest) := fun last run hr => by
      obtain ⟨l, r, hlr, htake⟩ := take_pend xs x (if x = last then run + 1 else 1) (x :: acc) (by split <;> omega)
      refine ⟨l, r, hlr, fun ys rest => ?_⟩
      rw [List.cons_append, stuff_cons, List.cons_append, take_next (by simp) (by omega)]
      refine (htake ys rest).trans ?_
      rw [List.reverse_cons, List.append_assoc]
      rfl
    by_cases h7 : run = 7
    · subst h7
      obtain ⟨l, r, hlr, htake⟩ := hone (!last) 1 (by decide)
      refine ⟨l, r, hlr, fun ys rest => ?_⟩
      rw [← htake ys rest]
      exact take_complement (by simp) (by cases last <;> decide) _ _
    · obtain ⟨l, r, hlr, htake⟩ := hone last run (by omega)
      refine ⟨l, r, hlr, fun ys rest => ?_⟩
      rw [pend_below h7]
      exact htake ys rest

/-! ### Parts of the bits taken -/

/-- The bit last taken, and the run it ends, after more bits of the line. -/
def trail (st : Bool × Nat) (bits : List Bool) : Bool × Nat :=
  bits.foldl (fun st b => (b, if b = st.1 then st.2 + 1 else 1)) st

theorem trail_append (st : Bool × Nat) (xs ys : List Bool) : trail st (xs ++ ys) = trail (trail st xs) ys := List.foldl_append

theorem trail_replicate (b : Bool) : ∀ (n : Nat) (st : Bool × Nat), 1 ≤ n →
    (trail st (List.replicate n b)).1 = b ∧ n ≤ (trail st (List.replicate n b)).2
  | 1, st, _ => ⟨rfl, by
      change 1 ≤ if b = st.1 then st.2 + 1 else 1
      split <;> omega⟩
  | n + 2, st, _ => by
    obtain ⟨h1, h2⟩ := trail_replicate b (n + 1) st (by omega)
    rw [List.replicate_succ', trail_append]
    refine ⟨rfl, ?_⟩
    change n + 2 ≤ if b = (trail st (List.replicate (n + 1) b)).1 then (trail st (List.replicate (n + 1) b)).2 + 1 else 1
    rw [if_pos h1.symm]
    omega

/-- What taking `need` bits does with a part `xs` of the bits: more are needed, after the run that `xs` ends in. -/
def TakesOn (need : Nat) (st : Bool × Nat) (acc xs : List Bool) : Prop :=
  (trail st xs).2 ≤ 7 ∧ ∃ need' acc', need' ≠ 0 ∧ ∀ ys,
    takeFrameBits need st.1 st.2 acc (xs ++ ys) = takeFrameBits need' (trail st xs).1 (trail st xs).2 acc' ys

theorem TakesOn.here {need : Nat} (hn : need ≠ 0) {st : Bool × Nat} (hr : st.2 ≤ 7) (acc : List Bool) : TakesOn need st acc [] :=
  ⟨hr, need, acc, hn, fun _ => rfl⟩

/-- A part of the bits alone is too short. -/
theorem TakesOn.short {need : Nat} {st : Bool × Nat} {acc xs : List Bool} (h : TakesOn need st acc xs) :
    takeFrameBits need st.1 st.2 acc xs = .short := by
  obtain ⟨_, need', acc', hn, htake⟩ := h
  rw [← List.append_nil xs, htake]
  exact if_neg hn

/-- A part of the bits that ends in a run of 7, followed by an eighth. -/
theorem TakesOn.violation {need : Nat} {st : Bool × Nat} {acc xs : List Bool} (h : TakesOn need st acc xs)
    (h7 : 7 ≤ (trail st xs).2) (ys : List Bool) : takeFrameBits need st.1 st.2 acc (xs ++ (trail st xs).1 :: ys) = .violation := by
  obtain ⟨hle, need', acc', hn, htake⟩ := h
  rw [htake, Nat.le_antisymm hle h7]
  exact take_violation hn ..

/-- Bits that were taken: the part consumed, and how any part of it is taken. -/
theorem take_got : ∀ (bits : List Bool) {need : Nat} {st : Bool × Nat} {acc got : List Bool} {l : Bool} {r : Nat} {rest : List Bool},
    st.2 ≤ 7 → takeFrameBits need st.1 st.2 acc bits = .got got l r rest → ∃ part, bits = part ++ rest ∧ (l, r) = trail st part ∧ r ≤ 7 ∧
      (∀ ys, takeFrameBits need st.1 st.2 acc (part ++ ys) = .got got l r ys) ∧
      ∀ n < part.length, TakesOn need st acc (part.take n)
  | bits, 0, st, acc, got, l, r, rest, hr, h => by
    rw [take_done] at h
    cases h
    exact ⟨[], rfl, rfl, hr, fun ys => take_done .., fun n hn => absurd hn (Nat.not_lt_zero n)⟩
  | [], need + 1, st, acc, got, l, r, rest, _, h => nomatch h
  | b :: bits, need + 1, (last, run), acc, got, l, r, rest, hr, h => by
    let next : Bool × Nat := (b, if b = last then run + 1 else 1)
    obtain ⟨need', acc', hle, hstep⟩ : ∃ need' acc', next.2 ≤ 7 ∧ ∀ bs, takeFrameBits (need + 1) last run acc (b :: bs) =
        takeFrameBits need' next.1 next.2 acc' bs := by
      by_cases h7 : run = 7
      · subst h7
        by_cases hb : b = last
        · subst hb
          rw [take_violation (by omega)] at h
          cases h
        · have hnext : next.2 = 1 := if_neg hb
          refine ⟨need + 1, acc, by omega, fun bs => ?_⟩
          rw [hnext]
          exact take_complement (by omega) hb acc bs
      · refine ⟨need, b :: acc, ?_, fun bs => take_next (by omega) h7 ..⟩
        have : next.2 ≤ max (run + 1) 1 := by
          simp only [next]
          split <;> omega
        have hrun : run ≤ 7 := hr
        omega
    rw [hstep bits] at h
    obtain ⟨part, rfl, htrail, hr', hall, hpart⟩ := take_got bits (st := next) hle h
    refine ⟨b :: part, rfl, htrail, hr', fun ys => (hstep _).trans (hall ys), fun n hn => ?_⟩
    cases n with
    | zero => exact .here (by omega) hr acc
    | succ n =>
      obtain ⟨hle', need'', acc'', hn'', htake⟩ := hpart n (Nat.lt_of_succ_lt_succ hn)
      exact ⟨hle', need'', acc'', hn'', fun ys => (hstep _).trans (htake ys)⟩

/-! ### Eight equal bits (R84) -/

/-- A run of `run` bits and more equal ones up to the eighth. -/
theorem take_run (b : Bool) (rest : List Bool) : ∀ (m : Nat) {need run : Nat} (acc : List Bool), run ≤ 7 → 8 ≤ run + m →
    8 ≤ run + need → takeFrameBits need b run acc (List.replicate m b ++ rest) = .violation
  | 0, need, run, acc, hr, hm, _ => absurd hm (by omega)
  | m + 1, need, run, acc, hr, hm, hn => by
    rw [List.replicate_succ, List.cons_append]
    by_cases h7 : run = 7
    · subst h7
      exact take_violation (by omega) ..
    · rw [take_next (by omega) h7, if_pos rfl]
      exact take_run b rest m _ (by omega) (by omega) (by omega)

theorem take_eight (b : Bool) (rest : List Bool) {need : Nat} (hn : 8 ≤ need) (last : Bool) {run : Nat} (hr : run ≤ 7) (acc : List Bool) :
    takeFrameBits need last run acc (List.replicate 8 b ++ rest) = .violation := by
  rw [List.replicate_succ, List.cons_append]
  by_cases h7 : run = 7
  · subst h7
    by_cases hb : b = last
    · subst hb
      exact take_violation (by omega) ..
    · rw [take_complement (by omega) hb]
      exact take_run b rest 7 acc (by decide) (by decide) (by omega)
  · rw [take_next (by omega) h7]
    by_cases hb : b = last
    · rw [if_pos hb]
      exact take_run b rest 7 _ (by omega) (by omega) (by omega)
    · rw [if_neg hb]
      exact take_run b rest 7 _ (by omega) (by omega) (by omega)

end Sys2Proof.Machine

/-! PROOFS. The line bits of a frame and the receiver's judgement of them (R81 to R84). -/

namespace Sys2Proof.Machine

/-! ### Numbers and bytes as bits -/

theorem natBits_length : ∀ n v : Nat, (natBits n v).length = n
  | 0, _ => rfl
  | n + 1, v => congrArg Nat.succ (natBits_length n v)

theorem bitsNat_fold (bs : List Bool) (a : Nat) :
    bs.foldl (fun a b => a * 2 + b.toNat) a = a * 2 ^ bs.length + bitsNat bs := by
  induction bs generalizing a with
  | nil => simp [bitsNat]
  | cons b bs ih =>
    unfold bitsNat
    rw [List.foldl_cons, List.foldl_cons, ih, ih (0 * 2 + b.toNat), List.length_cons, Nat.pow_succ]
    ring

theorem bitsNat_cons (b : Bool) (bs : List Bool) : bitsNat (b :: bs) = b.toNat * 2 ^ bs.length + bitsNat bs := by
  have h : bitsNat (b :: bs) = _ := bitsNat_fold bs (0 * 2 + b.toNat)
  rw [Nat.zero_mul, Nat.zero_add] at h
  exact h

theorem bitsNat_natBits : ∀ n v : Nat, bitsNat (natBits n v) = v % 2 ^ n
  | 0, v => (Nat.mod_one v).symm
  | n + 1, v => by
    have hbit : (decide (v / 2 ^ n % 2 = 1)).toNat = v / 2 ^ n % 2 := by
      rcases Nat.mod_two_eq_zero_or_one (v / 2 ^ n) with h | h <;> simp [h]
    rw [natBits, bitsNat_cons, natBits_length, hbit, bitsNat_natBits n v, Nat.mod_pow_succ]
    ring

theorem bitsNat_field {w : Nat} (v : BitVec w) : bitsNat (natBits w v.toNat) = v.toNat := by
  rw [bitsNat_natBits, Nat.mod_eq_of_lt v.isLt]

theorem bitsNat_byteBits (b : Byte) : bitsNat (byteBits b) = b.toNat := by
  revert b
  decide

theorem payloadBits_length (payload : List Byte) : (payload.flatMap byteBits).length = 8 * payload.length := by
  induction payload with
  | nil => rfl
  | cons b payload ih =>
    rw [List.flatMap_cons, List.length_append, ih, List.length_cons]
    change 8 + 8 * payload.length = _
    omega

/-- The bytes of a payload are read back from its bits. -/
theorem bitsBytes_payload (rest : List Bool) : ∀ payload : List Byte,
    bitsBytes payload.length (payload.flatMap byteBits ++ rest) = payload
  | [] => rfl
  | b :: payload => by
    have hbits : (b :: payload).flatMap byteBits ++ rest = byteBits b ++ (payload.flatMap byteBits ++ rest) := by
      rw [List.flatMap_cons, List.append_assoc]
    rw [hbits, List.length_cons, bitsBytes]
    have h8 : (byteBits b).length = 8 := rfl
    rw [List.take_left' h8, List.drop_left' h8, bitsNat_byteBits, bitsBytes_payload rest payload, BitVec.ofNat_toNat, BitVec.setWidth_eq]

/-! ### The receiver's judgement in two parts -/

/-- The judgement once the frame bits up to the CRC are taken. -/
def judgeTail (head body : List Bool) (n : Nat) (last : Bool) (run : Nat) (rest : List Bool) : Verdict :=
  if bitsNat (body.drop (8 * n)) ≠ (crcBits (head.drop 1 ++ body.take (8 * n))).toNat then .bad
  else
    match dropComplement last run rest with
    | .violation => .bad
    | .short => .incomplete
    | .got _ _ _ rest =>
      judgeEnd
        { cls := bitsNat ((head.drop 1).take 3), source := BitVec.ofNat 6 (bitsNat ((head.drop 4).take 6)),
          kind := bitsNat ((head.drop 10).take 4), dest := BitVec.ofNat 6 (bitsNat ((head.drop 14).take 6)),
          tag := BitVec.ofNat 8 (bitsNat ((head.drop 20).take 8)), payload := bitsBytes n body } rest

section
variable {bits head : List Bool} {last : Bool} {run : Nat} {rest : List Bool}

theorem judge_violation (h : takeFrameBits 36 true 0 [] bits = .violation) : judge bits = .bad := by
  unfold judge
  rw [h]

theorem judge_short (h : takeFrameBits 36 true 0 [] bits = .short) : judge bits = .incomplete := by
  unfold judge
  rw [h]

variable (h : takeFrameBits 36 true 0 [] bits = .got head last run rest)
include h

theorem judge_long (hn : 160 < bitsNat ((head.drop 28).take 8)) : judge bits = .bad := by
  unfold judge
  rw [h]
  exact if_pos hn

variable {n : Nat} (hn : bitsNat ((head.drop 28).take 8) = n) (hcap : n ≤ 160)
include hn hcap

theorem judge_header : judge bits = match takeFrameBits (8 * n + 16) last run [] rest with
    | .violation => .bad
    | .short => .incomplete
    | .got body last run rest => judgeTail head body n last run rest := by
  subst hn
  unfold judge
  rw [h]
  exact if_neg (Nat.not_lt.2 hcap)

theorem judge_bodyViolation (hb : takeFrameBits (8 * n + 16) last run [] rest = .violation) : judge bits = .bad := by
  rw [judge_header h hn hcap, hb]

theorem judge_bodyShort (hb : takeFrameBits (8 * n + 16) last run [] rest = .short) : judge bits = .incomplete := by
  rw [judge_header h hn hcap, hb]

theorem judge_body {body : List Bool} {last' : Bool} {run' : Nat} {rest' : List Bool}
    (hb : takeFrameBits (8 * n + 16) last run [] rest = .got body last' run' rest') :
    judge bits = judgeTail head body n last' run' rest' := by
  rw [judge_header h hn hcap, hb]

end

/-! ### The bits of a frame -/

/-- The start bit and the header of a frame, up to its payload length. -/
def headBits (cls : BitVec 3) (source dest : BitVec 6) (kind : BitVec 4) (tag : Byte) (n : Nat) : List Bool :=
  false :: (natBits 3 cls.toNat ++ natBits 6 source.toNat ++ natBits 4 kind.toNat ++ natBits 6 dest.toNat ++ natBits 8 tag.toNat ++
    natBits 8 n)

/-- The payload and the CRC field of a frame. -/
def tailBits (payload : List Byte) (crc : BitVec 16) : List Bool := payload.flatMap byteBits ++ natBits 16 crc.toNat

section
variable (cls : BitVec 3) (source dest : BitVec 6) (kind : BitVec 4) (tag : Byte) (payload : List Byte) (crc : BitVec 16)

/-- The bits of the frame up to its payload. -/
def bodyBits : List Bool := frameBody cls.toNat source.toNat kind.toNat dest.toNat tag.toNat payload

/-- The stuffed region of a frame with CRC field `crc`. -/
def regionBits : List Bool := stuff true 0 (false :: (bodyBits cls source dest kind tag payload ++ natBits 16 crc.toNat))

theorem regionBits_eq : regionBits cls source dest kind tag payload crc =
    pend true 0 (headBits cls source dest kind tag payload.length ++ tailBits payload crc) := by
  rw [pend_below (by decide)]
  unfold regionBits bodyBits frameBody headBits tailBits
  simp only [List.cons_append, List.append_assoc]

theorem headBits_length (n : Nat) : (headBits cls source dest kind tag n).length = 36 := rfl

theorem headBits_count {n : Nat} (hn : n < 256) : bitsNat (((headBits cls source dest kind tag n).drop 28).take 8) = n :=
  (bitsNat_natBits 8 n).trans (Nat.mod_eq_of_lt hn)

theorem tailBits_length : (tailBits payload crc).length = 8 * payload.length + 16 := by
  unfold tailBits
  rw [List.length_append, payloadBits_length, natBits_length]

/-- The judgement at the end of the stuffed region. -/
theorem judgeTail_frame (last : Bool) (run : Nat) (rest : List Bool) :
    judgeTail (headBits cls source dest kind tag payload.length) (tailBits payload crc) payload.length last run rest =
      if crc ≠ crcBits (bodyBits cls source dest kind tag payload) then .bad
      else match dropComplement last run rest with
        | .violation => .bad
        | .short => .incomplete
        | .got _ _ _ rest => judgeEnd ⟨cls.toNat, source, kind.toNat, dest, tag, payload⟩ rest := by
  have hlen := payloadBits_length payload
  have hcrc : bitsNat ((tailBits payload crc).drop (8 * payload.length)) = crc.toNat := by
    unfold tailBits
    rw [List.drop_left' hlen, bitsNat_field]
  have hbody : (headBits cls source dest kind tag payload.length).drop 1 ++ (tailBits payload crc).take (8 * payload.length) =
      bodyBits cls source dest kind tag payload := by
    unfold tailBits
    rw [List.take_left' hlen]
    rfl
  have hcls : bitsNat (((headBits cls source dest kind tag payload.length).drop 1).take 3) = cls.toNat := bitsNat_field cls
  have hsource : bitsNat (((headBits cls source dest kind tag payload.length).drop 4).take 6) = source.toNat := bitsNat_field source
  have hkind : bitsNat (((headBits cls source dest kind tag payload.length).drop 10).take 4) = kind.toNat := bitsNat_field kind
  have hdest : bitsNat (((headBits cls source dest kind tag payload.length).drop 14).take 6) = dest.toNat := bitsNat_field dest
  have htag : bitsNat (((headBits cls source dest kind tag payload.length).drop 20).take 8) = tag.toNat := bitsNat_field tag
  have hpayload : bitsBytes payload.length (tailBits payload crc) = payload := bitsBytes_payload _ payload
  unfold judgeTail
  rw [hcrc, hbody, hcls, hsource, hkind, hdest, htag, hpayload]
  simp only [BitVec.ofNat_toNat, BitVec.setWidth_eq, ne_eq, BitVec.toNat_inj]

end

end Sys2Proof.Machine

/-! PROOFS. Frames judged whole and in part (R81 to R84). -/

namespace Sys2Proof.Machine

/-! ### The stuffed region, whole and in part -/

/-- How the receiver takes the stuffed region of a frame: the head, the tail, and the complement bit that may follow the CRC. -/
structure RegionTaken (hd tl region p1 p2 : List Bool) (l : Bool) (r : Nat) : Prop where
  region : region = p1 ++ (p2 ++ pend l r [])
  run    : (l, r) = trail (true, 0) (p1 ++ p2)
  bound  : r ≤ 7
  head   : ∀ ys, takeFrameBits 36 true 0 [] (p1 ++ ys) = .got hd (trail (true, 0) p1).1 (trail (true, 0) p1).2 ys
  inHead : ∀ n < p1.length, TakesOn 36 (true, 0) [] (p1.take n)
  tail   : ∀ ys, takeFrameBits tl.length (trail (true, 0) p1).1 (trail (true, 0) p1).2 [] (p2 ++ ys) = .got tl l r ys
  inTail : ∀ n < p2.length, TakesOn tl.length (trail (true, 0) p1) [] (p2.take n)

theorem regionTaken (head tail : List Bool) (hhead : head.length = 36) :
    ∃ p1 p2 l r, RegionTaken head tail (pend true 0 (head ++ tail)) p1 p2 l r := by
  obtain ⟨l1, r1, hr1, htake1⟩ := take_pend head true 0 [] (by decide)
  obtain ⟨l2, r2, hr2, htake2⟩ := take_pend tail l1 r1 [] hr1
  have h1 := htake1 tail []
  have h2 := htake2 [] []
  simp only [List.append_nil, List.reverse_nil, List.nil_append, hhead] at h1 h2
  obtain ⟨p1, hsplit1, htrail1, -, hall1, hpart1⟩ := take_got _ (st := (true, 0)) (by decide) h1
  obtain ⟨p2, hsplit2, htrail2, -, hall2, hpart2⟩ := take_got _ (st := (l1, r1)) hr1 h2
  have hl1 : (trail (true, 0) p1).1 = l1 := congrArg Prod.fst htrail1.symm
  have hr1' : (trail (true, 0) p1).2 = r1 := congrArg Prod.snd htrail1.symm
  refine ⟨p1, p2, l2, r2, ?_, ?_, hr2, ?_, hpart1, ?_, ?_⟩
  · rw [hsplit1, hsplit2]
  · rw [trail_append, ← htrail1]
    exact htrail2
  · rw [hl1, hr1']
    exact hall1
  · rw [hl1, hr1']
    exact hall2
  · rw [← htrail1]
    exact hpart2

/-- The complement bit after a run of 7 that ends with the last CRC bit. -/
theorem dropComplement_pend (l : Bool) (r : Nat) (ys : List Bool) : ∃ l' r', dropComplement l r (pend l r [] ++ ys) = .got [] l' r' ys := by
  by_cases h7 : r = 7
  · subst h7
    refine ⟨!l, 1, ?_⟩
    change (if (!l) = l then Taken.violation else .got [] (!l) 1 ys) = _
    exact if_neg (by cases l <;> decide)
  · rw [pend_below h7]
    cases ys with
    | nil => exact ⟨l, r, if_neg h7⟩
    | cons y ys => exact ⟨l, r, if_neg h7⟩

section
variable (cls : BitVec 3) (source dest : BitVec 6) (kind : BitVec 4) (tag : Byte) {payload : List Byte} (crc : BitVec 16)
  (hlen : payload.length ≤ 160)
include hlen

/-- The judgement of a region and what follows it. -/
theorem judge_region (ys : List Bool) : judge (regionBits cls source dest kind tag payload crc ++ ys) =
    if crc ≠ crcBits (bodyBits cls source dest kind tag payload) then .bad
    else judgeEnd ⟨cls.toNat, source, kind.toNat, dest, tag, payload⟩ ys := by
  obtain ⟨p1, p2, l, r, ht⟩ := regionTaken (headBits cls source dest kind tag payload.length) (tailBits payload crc) rfl
  have hcount := headBits_count cls source dest kind tag (n := payload.length) (by omega)
  have htail := ht.tail (pend l r [] ++ ys)
  rw [tailBits_length] at htail
  rw [regionBits_eq, ht.region, List.append_assoc, List.append_assoc, judge_body (ht.head _) hcount hlen htail, judgeTail_frame]
  obtain ⟨l', r', hdrop⟩ := dropComplement_pend l r ys
  rw [hdrop]

/-- A part of a region, and what follows it: too short, and bad where the part ends in a run of 7 and an eighth bit follows. -/
theorem judge_within {n : Nat} (hn : n < (regionBits cls source dest kind tag payload crc).length) :
    (crc = crcBits (bodyBits cls source dest kind tag payload) →
      judge ((regionBits cls source dest kind tag payload crc).take n) = .incomplete) ∧
    ∀ (b : Bool) (ys : List Bool), (trail (true, 0) ((regionBits cls source dest kind tag payload crc).take n)).1 = b →
      7 ≤ (trail (true, 0) ((regionBits cls source dest kind tag payload crc).take n)).2 →
      judge ((regionBits cls source dest kind tag payload crc).take n ++ b :: ys) = .bad := by
  obtain ⟨p1, p2, l, r, ht⟩ := regionTaken (headBits cls source dest kind tag payload.length) (tailBits payload crc) rfl
  have hcount := headBits_count cls source dest kind tag (n := payload.length) (by omega)
  have htlen := tailBits_length payload crc
  rw [(regionBits_eq cls source dest kind tag payload crc).trans ht.region] at hn ⊢
  by_cases h1 : n < p1.length
  · have hpart := ht.inHead n h1
    have htake : (p1 ++ (p2 ++ pend l r [])).take n = p1.take n := List.take_append_of_le_length (Nat.le_of_lt h1)
    rw [htake]
    refine ⟨fun _ => judge_short hpart.short, ?_⟩
    rintro b ys rfl h7
    exact judge_violation (hpart.violation h7 ys)
  · obtain ⟨k, rfl⟩ := Nat.exists_eq_add_of_le (Nat.not_lt.1 h1)
    rw [List.take_length_add_append]
    by_cases h2 : k < p2.length
    · have hpart := ht.inTail k h2
      have htake : (p2 ++ pend l r []).take k = p2.take k := List.take_append_of_le_length (Nat.le_of_lt h2)
      have hshort := hpart.short
      rw [htake, trail_append]
      rw [htlen] at hshort
      refine ⟨fun _ => judge_bodyShort (ht.head _) hcount hlen hshort, ?_⟩
      rintro b ys rfl h7
      have hviol := hpart.violation h7 ys
      rw [htlen] at hviol
      rw [List.append_assoc]
      exact judge_bodyViolation (ht.head _) hcount hlen hviol
    · have h7 : r = 7 := by
        by_contra h7
        rw [pend_below h7, List.length_append, List.length_append] at hn
        have : (stuff l r []).length = 0 := rfl
        omega
      have hk : k = p2.length := by
        subst h7
        have : (pend l 7 []).length = 1 := rfl
        rw [List.length_append, List.length_append, this] at hn
        omega
      have htail := ht.tail
      rw [htlen] at htail
      subst hk
      subst h7
      rw [List.take_left, ← ht.run]
      refine ⟨fun hcrc => ?_, ?_⟩
      · have hjudge := judge_body (ht.head p2) hcount hlen (by have := htail []; rwa [List.append_nil] at this)
        rw [hjudge, judgeTail_frame, if_neg (not_not.2 hcrc)]
        rfl
      · rintro b ys rfl -
        rw [List.append_assoc, judge_body (ht.head _) hcount hlen (htail _), judgeTail_frame]
        have hdrop : dropComplement l 7 (l :: ys) = .violation := by
          change (if l = l then Taken.violation else .got [] l 1 ys) = _
          exact if_pos rfl
        rw [hdrop]
        exact ite_self _

end

/-! ### The end field (R84) -/

theorem judgeEnd_good (f : RxFrame) : judgeEnd f (List.replicate 8 true) = .good f := rfl

theorem judgeEnd_part (f : RxFrame) {k : Nat} (hk : k < 8) : judgeEnd f (List.replicate k true) = .incomplete := by
  have hany : ((List.replicate k true).take 8).any (!·) = false := by
    rw [List.any_eq_false]
    intro x hx
    rw [List.eq_of_mem_replicate (List.mem_of_mem_take hx)]
    decide
  exact (if_neg (Bool.eq_false_iff.1 hany)).trans (if_pos (by rw [List.length_replicate]; exact hk))

theorem judgeEnd_zero (f : RxFrame) {k : Nat} (hk : k < 8) : judgeEnd f (List.replicate k true ++ [false]) = .bad := by
  refine if_pos (List.any_eq_true.2 ⟨false, ?_, rfl⟩)
  rw [List.take_of_length_le (by rw [List.length_append, List.length_replicate, List.length_singleton]; omega)]
  exact List.mem_append_right _ (.head _)

/-- The line bits of a frame: its region with the remainder as CRC field, and the end field. -/
theorem lineBits_eq (cls : BitVec 3) (source dest : BitVec 6) (kind : BitVec 4) (tag : Byte) (payload : List Byte) :
    lineBits cls.toNat source.toNat kind.toNat dest.toNat tag.toNat payload =
      regionBits cls source dest kind tag payload (crcBits (bodyBits cls source dest kind tag payload)) ++ List.replicate 8 true := rfl

theorem judge_lineBits (cls : BitVec 3) (source dest : BitVec 6) (kind : BitVec 4) (tag : Byte) {payload : List Byte}
    (hlen : payload.length ≤ 160) : judge (lineBits cls.toNat source.toNat kind.toNat dest.toNat tag.toNat payload) =
      .good ⟨cls.toNat, source, kind.toNat, dest, tag, payload⟩ := by
  rw [lineBits_eq, judge_region cls source dest kind tag _ hlen, if_neg (not_not.2 rfl), judgeEnd_good]

theorem judge_lineBits_part (cls : BitVec 3) (source dest : BitVec 6) (kind : BitVec 4) (tag : Byte) {payload : List Byte}
    (hlen : payload.length ≤ 160) {n : Nat} (hn : n < (lineBits cls.toNat source.toNat kind.toNat dest.toNat tag.toNat payload).length) :
    judge ((lineBits cls.toNat source.toNat kind.toNat dest.toNat tag.toNat payload).take n) = .incomplete := by
  rw [lineBits_eq] at hn ⊢
  by_cases hin : n < (regionBits cls source dest kind tag payload (crcBits (bodyBits cls source dest kind tag payload))).length
  · rw [List.take_append_of_le_length (Nat.le_of_lt hin)]
    exact (judge_within cls source dest kind tag _ hlen hin).1 rfl
  · obtain ⟨k, rfl⟩ := Nat.exists_eq_add_of_le (Nat.not_lt.1 hin)
    rw [List.length_append, List.length_replicate] at hn
    rw [List.take_length_add_append, judge_region cls source dest kind tag _ hlen, if_neg (not_not.2 rfl), List.take_replicate,
      Nat.min_eq_left (by omega)]
    exact judgeEnd_part _ (by omega)

/-- Any bits fewer than those needed are a violation, or are taken and leave a run of at most 7. -/
theorem take_over : ∀ (xs : List Bool) {need run : Nat} (last : Bool) (acc : List Bool), xs.length ≤ need → run ≤ 7 →
    (∀ ys, takeFrameBits need last run acc (xs ++ ys) = .violation) ∨ ∃ need' l r acc', need ≤ need' + xs.length ∧ r ≤ 7 ∧
      ∀ ys, takeFrameBits need last run acc (xs ++ ys) = takeFrameBits need' l r acc' ys
  | [], need, run, last, acc, _, hr => .inr ⟨need, last, run, acc, Nat.le_refl _, hr, fun _ => rfl⟩
  | x :: xs, need, run, last, acc, hn, hr => by
    rw [List.length_cons] at hn
    by_cases h7 : run = 7
    · subst h7
      by_cases hx : x = last
      · subst hx
        exact .inl fun ys => take_violation (by omega) ..
      · have hstep := fun ys => take_complement (need := need) (by omega) hx acc (xs ++ ys)
        rcases take_over xs (need := need) x acc (by omega) (run := 1) (by decide) with hviol | ⟨need', l, r, acc', hle, hr', hon⟩
        · exact .inl fun ys => (hstep ys).trans (hviol ys)
        · exact .inr ⟨need', l, r, acc', by rw [List.length_cons]; omega, hr', fun ys => (hstep ys).trans (hon ys)⟩
    · have hstep := fun ys => take_next (need := need) (by omega) h7 last acc x (xs ++ ys)
      have hrun : (if x = last then run + 1 else 1) ≤ 7 := by split <;> omega
      rcases take_over xs (need := need - 1) x (x :: acc) (by omega) hrun with hviol | ⟨need', l, r, acc', hle, hr', hon⟩
      · exact .inl fun ys => (hstep ys).trans (hviol ys)
      · exact .inr ⟨need', l, r, acc', by rw [List.length_cons]; omega, hr', fun ys => (hstep ys).trans (hon ys)⟩

/-- Settles O32: the bits judged, and the frame on the line sent as them. -/
theorem frameBitsRoundTrip : Obligations.FrameBitsRoundTrip := by
  refine ⟨?_, ?_⟩
  · intro cls source dest kind tag payload hlen bits
    exact ⟨judge_lineBits cls source dest kind tag hlen, fun n hn => judge_lineBits_part cls source dest kind tag hlen hn⟩
  · intro s j e he hon hlen hfirst
    have hline : s.lineFrame = some (e.frame.bits s.settings.station) := by
      unfold State.lineFrame
      rw [onLinePlace_some he hon hfirst, Option.bind_some, he]
      rfl
    refine ⟨_, hline, ?_⟩
    have hcls : ∀ k : FrameKind, (BitVec.ofNat 3 k.cls).toNat = k.cls := fun k => by cases k <;> rfl
    have hcode : ∀ k : FrameKind, (BitVec.ofNat 4 k.code).toNat = k.code := fun k => by cases k <;> rfl
    have h := judge_lineBits (BitVec.ofNat 3 e.frame.kind.cls) s.settings.station e.frame.dest (BitVec.ofNat 4 e.frame.kind.code)
      e.frame.tag hlen
    rw [hcls, hcode] at h
    exact h

/-- Settles O33: eight equal bits, an over-long payload, a wrong CRC field, and a 0 in the end field. -/
theorem badFrameCauses : Obligations.BadFrameCauses := by
  refine ⟨?_, ?_, ?_⟩
  · intro pre rest b _ hpre
    refine judge_violation ?_
    rw [List.append_assoc]
    rcases take_over pre (need := 36) true [] (by omega) (Nat.zero_le 7) with hviol | ⟨need, l, r, acc, hneed, hr, hon⟩
    · exact hviol _
    · rw [hon]
      exact take_eight b rest (by omega) l hr acc
  · intro head hhead hlong
    obtain ⟨l, r, -, htake⟩ := take_pend (false :: head) true 0 [] (by decide)
    have h := htake [] []
    rw [pend_below (by decide), List.append_nil, List.append_nil, List.length_cons, hhead] at h
    refine judge_long h ?_
    rwa [show ((([] : List Bool).reverse ++ false :: head).drop 28).take 8 = head.drop 27 from
      List.take_of_length_le (by simp [hhead])]
  · intro cls source dest kind tag payload crc hlen body region
    refine ⟨fun n b rest hrun hn => ?_, fun hcrc => ?_, fun hcrc n hn => ?_⟩
    · have hsplit : region.take n = (region.take n).take (n - 7) ++ List.replicate 7 b := by
        rw [← hrun, List.take_append_drop]
      obtain ⟨hlast, h7⟩ := trail_replicate b 7 (trail (true, 0) ((region.take n).take (n - 7))) (by decide)
      rw [← trail_append, ← hsplit] at hlast h7
      exact (judge_within cls source dest kind tag crc hlen hn).2 b rest hlast h7
    · have h := judge_region cls source dest kind tag crc hlen []
      rw [List.append_nil] at h
      exact h.trans (if_pos hcrc)
    · rw [List.append_assoc]
      exact (judge_region cls source dest kind tag crc hlen _).trans ((if_neg (not_not.2 hcrc)).trans (judgeEnd_zero _ hn))

end Sys2Proof.Machine

/-! PROOFS. The reset input and the supply (R177, R182). -/

namespace Sys2Proof.Machine

/-! ### Commands without effect -/

theorem Carried.refl (s : State) : Carried s s := ⟨.here s, .refl s, fun _ => rfl⟩

/-- A command whose event cannot stand in this state. -/
theorem idle_of_eq {s : State} {o : Option State} (ho : o = none) : ∃ t, commit s o = .next t ∧ Carried s t := by
  subst ho
  exact ⟨s, rfl, .refl s⟩

theorem exec_fromPlant_off {s : State} (h : s.receives = false) {c : Instr} (hc : fromPlant c = true) :
    ∃ t, exec c s = .next t ∧ Carried s t := by
  have hnone (t : State) : (if s.receives then some t else none) = none := if_neg (Bool.eq_false_iff.1 h)
  have hline (f : Nat → TxEntry → State → State) : onLineEvent f s = none := if_neg (Bool.eq_false_iff.1 h)
  have hidle : (if s.receives && !s.sending then some (becomeIdle s) else none) = none := if_neg (by simp [h])
  cases c with
  | forwardPulse | reversePulse | lfRecordTimeout | lfCheck | sampleSet | declare | join | tailOut | stripBreak | cut | busStuck
  | badFrame | time | lineageReply | sampleReply | descentReply | lineageQuery | sampleFetch | descentQuery | coilAnnounce | presence
  | undefinedFrameKind => exact idle_of_eq (hnone _)
  | lineIdle => exact idle_of_eq hidle
  | lostArbitration | collision | frameSent => exact idle_of_eq (hline _)
  | _ => cases hc

theorem conWhole_off {s : State} (h : s.linkRuns = false) (rec : ConRecord) (kind : Byte) (payload : List Byte) :
    conWhole rec kind payload s = s := by
  unfold conWhole
  split
  · exact conReceive_off h rec
  · exact foldl_conByte_off h _

theorem conSilence_off {s : State} (h : s.linkRuns = false) : conSilence s = s := if_pos (by simp [h])

theorem conBytes_off {s : State} (h : s.linkRuns = false) (bytes : List Byte) (framingError : Bool) : conBytes bytes framingError s = s := by
  unfold conBytes
  split
  · rw [foldl_conByte_off h]
    exact if_pos (by simp [h])
  · exact foldl_conByte_off h bytes

theorem exec_fromDesk_off {s : State} (h : s.linkRuns = false) {c : Instr} (hc : fromDesk c = true) :
    ∃ t, exec c s = .next t ∧ Carried s t := by
  have hwhole (rec : ConRecord) (kind : Byte) (payload : List Byte) :
      ∃ t, commit s (some (conWhole rec kind payload s)) = .next t ∧ Carried s t :=
    commit_of_eq (s := s) (congrArg some (conWhole_off h rec kind payload))
  cases c with
  | playback | coilList | status | abort | clearFault | setTime => exact hwhole _ _ _
  | genealogy coil direction depth =>
    by_cases hd : direction.toNat < 2
    · obtain ⟨t, ht, hcar⟩ := hwhole (judgeRequest _ (some (.genealogy coil (direction == 0) depth.toNat))) _ _
      exact ⟨t, (if_pos hd).trans ht, hcar⟩
    · obtain ⟨t, ht, hcar⟩ := hwhole (.badFormat 0x02) 0x02 (coilBytes 0 coil ++ [direction, depth])
      exact ⟨t, (if_neg hd).trans ht, hcar⟩
  | consoleBadRecord bytes framingError => exact commit_of_eq (s := s) (congrArg some (conBytes_off h bytes framingError))
  | consoleByteTimeout got =>
    exact commit_of_eq (s := s) (congrArg some ((congrArg conSilence (foldl_conByte_off h got)).trans (conSilence_off h)))
  | _ => cases hc

theorem receives_eq_false {s : State} (h : s.sup.resetPin = true ∨ s.sup.part ≠ .run ∧ s.sup.part ≠ .runDegraded) :
    s.receives = false := by
  rw [Bool.eq_false_iff]
  intro hr
  obtain ⟨hrun, hpin⟩ := s.receives_iff.1 hr
  rcases h with h | ⟨h1, h2⟩
  · rw [hpin] at h
    cases h
  · unfold State.running at hrun
    cases hp : s.sup.part <;> simp_all [PartState.running]

theorem linkRuns_eq_false {s : State}
    (h : s.sup.resetPin = true ∨ s.sup.part = .settling ∨ s.sup.part = .resetHeld ∨ s.sup.part = .supplyLow) : s.linkRuns = false := by
  rw [Bool.eq_false_iff]
  intro hl
  obtain ⟨hlink, hpin⟩ := s.linkRuns_iff.1 hl
  rcases h with h | h | h | h
  · rw [hpin] at h
    cases h
  all_goals
    rw [h] at hlink
    cases hlink

/-! ### The slot under test (R29, R31) -/

/-- The self-test of `s` has `slot` in hand, which is live with page `p`. -/
def State.InHand (s : State) (slot : BitVec 20) (p : Page) : Prop :=
  s.sup.part = .checking ∧ slotCount s.settings.storeCode - 16 ≤ slot.toNat ∧ slot.toNat < slotCount s.settings.storeCode ∧
    ringAt s.tsc.ring slot.toNat = some p

theorem testSlot_iff (code : Nat) (i : BitVec 20) : testSlot code i = true ↔ slotCount code - 16 ≤ i.toNat ∧ i.toNat < slotCount code :=
  decide_eq_true_iff

theorem slotUnderTest_some {s : State} {slot : BitVec 20} {p : Page} (h : s.InHand slot p) :
    slotUnderTest s (some slot) = some (slot.toNat, p) := by
  obtain ⟨hpart, hlow, hhigh, hring⟩ := h
  refine (if_pos ⟨hpart, (testSlot_iff ..).2 ⟨hlow, hhigh⟩⟩).trans ?_
  rw [hring]
  rfl

theorem slotUnderTest_none {s : State} {testing : Option (BitVec 20)} (h : ∀ slot p, testing = some slot → ¬ s.InHand slot p) :
    slotUnderTest s testing = none := by
  cases testing with
  | none => rfl
  | some slot =>
    by_cases hin : s.sup.part = .checking ∧ testSlot s.settings.storeCode slot = true
    · obtain ⟨hpart, htest⟩ := hin
      obtain ⟨hlow, hhigh⟩ := (testSlot_iff ..).1 htest
      refine (if_pos ⟨hpart, htest⟩).trans ?_
      cases hring : ringAt s.tsc.ring slot.toNat with
      | none => rfl
      | some p => exact absurd ⟨hpart, hlow, hhigh, hring⟩ (h slot p rfl)
    · exact if_neg hin

/-- The page of one slot is blanked, every other slot reads as before. -/
theorem ringAt_blanked (r : List (Nat × Page)) {i n : Nat} (h : n ≠ i) :
    ringAt (r.map fun e => if e.1 = i then (e.1, e.2.blank) else e) n = ringAt r n := by
  have hfst (e : Nat × Page) : (if e.1 = i then (e.1, e.2.blank) else e).1 = e.1 := by
    split
    · rfl
    · rfl
  rw [ringAt_map _ hfst]
  cases ringAt r n with
  | none => rfl
  | some p => exact congrArg some (congrArg Prod.snd (if_neg h))

/-! ### Assertion and release (R177) -/

/-- The part in reset, with the store as the assertion found it but for `tsc`. -/
def State.inReset (s : State) (tsc : Tsc) : State :=
  let u := leaveRunning { s with sup := { s.sup with resetPin := true }, tsc }
  { u with sup := { u.sup with part := .resetHeld } }

theorem holdReset_untested {s : State} {testing : Option (BitVec 20)} (hp : s.sup.part ≠ .supplyLow)
    (h : slotUnderTest s testing = none) : holdReset testing s = s.inReset s.tsc := by
  have hsame : interruptTest testing { s with sup := { s.sup with resetPin := true } } = { s with sup := { s.sup with resetPin := true } } := by
    have h' : slotUnderTest { s with sup := { s.sup with resetPin := true } } testing = none := h
    unfold interruptTest
    rw [h']
  unfold holdReset
  rw [if_neg hp, hsame]
  rfl

theorem holdReset_tested {s : State} {testing : Option (BitVec 20)} {x : Nat × Page} (hp : s.sup.part ≠ .supplyLow)
    (h : slotUnderTest s testing = some x) : holdReset testing s = s.inReset { s.tsc with
      testMark := some x, ring := s.tsc.ring.map fun e => if e.1 = x.1 then (e.1, e.2.blank) else e } := by
  have h' : slotUnderTest { s with sup := { s.sup with resetPin := true } } testing = some x := h
  unfold holdReset interruptTest
  rw [if_neg hp, h']
  rfl

/-- Settles O56: assertion and release, what a part that does not run takes, and the supply. -/
theorem resetAndSupply : Obligations.ResetAndSupply := by
  intro s next left held inHand
  refine ⟨?_, ?_, ?_, ?_, ?_, ?_, ?_, ?_, ?_, ?_, ?_⟩
  · intro hp testing hnot
    exact commit_of_eq (s := s) (congrArg some (holdReset_untested hp (slotUnderTest_none hnot)))
  · intro slot p hin
    have hp : s.sup.part ≠ .supplyLow := by
      rw [hin.1]
      decide
    refine ⟨s.tsc.ring.map fun e : Nat × Page => if e.1 = slot.toNat then (e.1, e.2.blank) else e,
      commit_of_eq (s := s) (congrArg some (holdReset_tested hp (slotUnderTest_some hin))), ?_, fun n hn => ringAt_blanked _ hn⟩
    rw [List.map_map]
    refine List.map_congr_left fun e _ => ?_
    change (if e.1 = slot.toNat then (e.1, e.2.blank) else e).1 = e.1
    split
    · rfl
    · rfl
  · intro hp testing
    exact commit_of_eq (s := s) (congrArg some (if_pos hp))
  · intro hpin hp
    refine commit_of_eq (s := s) ((if_pos hpin).trans (congrArg some ?_))
    exact if_neg hp
  · intro hpin hp
    exact commit_of_eq (s := s) ((if_pos hpin).trans (congrArg some (if_pos hp)))
  · intro hpin
    exact idle_of_eq (if_neg (Bool.eq_false_iff.1 hpin))
  · intro h c hc
    exact exec_fromPlant_off (receives_eq_false h) hc
  · intro h c hc
    exact exec_fromDesk_off (linkRuns_eq_false h) hc
  · intro hm
    refine ⟨s.tsc.ring.map fun e => (e.1, e.2.blank), ?_, commit_of_eq (s := s) (if_pos hm)⟩
    rw [List.map_map]
    rfl
  · intro hm
    exact commit_of_eq (s := s) (if_pos hm)
  · intro hm
    exact commit_of_eq (s := s) (if_neg hm)

end Sys2Proof.Machine

/-! PROOFS. The configuration image: its channel table and its faults (R178 to R180). -/

namespace Sys2Proof.Machine

/-! ### The channel table (R180) -/

/-- The image's word for channel `d` enables it beside the channels `cs`: a quantity that no channel of `cs` below it has, and a step
code of the table. -/
def ChannelTaken (image : List (BitVec 16)) (cs : List ChannelDef) (d : ChannelDef) : Prop :=
  0 < d.quantity ∧ d.stepCode ≤ 7 ∧ imageWord image (9 + d.index) = d.quantity * 256 + d.stepCode ∧
    ∀ e ∈ cs, e.index < d.index → e.quantity ≠ d.quantity

/-- Channel `i` is disabled with a fault where its word has a quantity and `cs` does not hold it. -/
def channelDisabled (image : List (BitVec 16)) (cs : List ChannelDef) (i : Nat) : Bool :=
  decide (256 ≤ imageWord image (9 + i)) && cs.all fun d => d.index != i

/-- The table once the first `n` channels are taken: the enabled ones, and one fault for each disabled. -/
structure TableForm (image : List (BitVec 16)) (n : Nat) (t : ChannelTable) : Prop where
  enabled  : ∀ d, d ∈ t.1 ↔ d.index < n ∧ ChannelTaken image t.1 d
  disabled : t.2 = (List.range n).countP (channelDisabled image t.1)

section
variable {image : List (BitVec 16)} {n : Nat} {t : ChannelTable}

theorem channelDisabled_iff {cs : List ChannelDef} {i : Nat} :
    channelDisabled image cs i = true ↔ 256 ≤ imageWord image (9 + i) ∧ ∀ d ∈ cs, d.index ≠ i := by
  simp [channelDisabled]

theorem countP_disabled_succ (cs : List ChannelDef) : (List.range (n + 1)).countP (channelDisabled image cs) =
    (List.range n).countP (channelDisabled image cs) + if channelDisabled image cs n then 1 else 0 := by
  rw [List.range_succ, List.countP_append, List.countP_singleton]

theorem takeChannel_unused (h : imageWord image (9 + n) < 256) : takeChannel image t n = t :=
  if_pos (Nat.div_eq_of_lt h)

theorem takeChannel_disabled (h : 256 ≤ imageWord image (9 + n))
    (hbad : 7 < imageWord image (9 + n) % 256 ∨ ∃ d ∈ t.1, d.quantity = imageWord image (9 + n) / 256) :
    takeChannel image t n = (t.1, t.2 + 1) := by
  refine (if_neg (by omega)).trans (if_pos (hbad.imp_right fun ⟨d, hd, hq⟩ => ?_))
  exact List.any_eq_true.2 ⟨d, hd, beq_iff_eq.2 hq⟩

theorem takeChannel_enabled (h : 256 ≤ imageWord image (9 + n)) (hstep : imageWord image (9 + n) % 256 ≤ 7)
    (hnew : ∀ d ∈ t.1, d.quantity ≠ imageWord image (9 + n) / 256) :
    takeChannel image t n = (t.1 ++ [⟨n, imageWord image (9 + n) / 256, imageWord image (9 + n) % 256⟩], t.2) := by
  refine (if_neg (by omega)).trans (if_neg ?_)
  rintro (hbad | hbad)
  · omega
  · obtain ⟨d, hd, hq⟩ := List.any_eq_true.1 hbad
    exact hnew d hd (beq_iff_eq.1 hq)

theorem TableForm.index_lt (h : TableForm image n t) {d : ChannelDef} (hd : d ∈ t.1) : d.index < n := ((h.enabled d).1 hd).1

/-- A channel that joins nothing: its word enables it in no way. -/
theorem TableForm.kept (h : TableForm image n t) (hnot : ∀ d, d.index = n → ¬ ChannelTaken image t.1 d) {k : Nat}
    (hk : k = t.2 + if channelDisabled image t.1 n then 1 else 0) : TableForm image (n + 1) (t.1, k) where
  enabled d := by
    rw [h.enabled d]
    refine ⟨fun ⟨hlt, ht⟩ => ⟨by omega, ht⟩, fun ⟨hlt, ht⟩ => ⟨?_, ht⟩⟩
    have hne : d.index ≠ n := fun heq => hnot d heq ht
    omega
  disabled := by rw [countP_disabled_succ, ← h.disabled, hk]

/-- A channel enabled joins the table behind the others. -/
theorem TableForm.joined (h : TableForm image n t) {c : ChannelDef} (hc : c.index = n) (ht : ChannelTaken image t.1 c)
    (honly : ∀ d, d.index = n → ChannelTaken image t.1 d → d = c) : TableForm image (n + 1) (t.1 ++ [c], t.2) where
  enabled d := by
    have hsame : d.index < n + 1 → (ChannelTaken image (t.1 ++ [c]) d ↔ ChannelTaken image t.1 d) := fun hd => by
      unfold ChannelTaken
      have hlower : (∀ e ∈ t.1 ++ [c], e.index < d.index → e.quantity ≠ d.quantity) ↔
          ∀ e ∈ t.1, e.index < d.index → e.quantity ≠ d.quantity := by
        refine ⟨fun hall e he => hall e (List.mem_append_left _ he), fun hall e he hlt => ?_⟩
        rcases List.mem_append.1 he with he | he
        · exact hall e he hlt
        · obtain rfl := List.mem_singleton.1 he
          omega
      rw [hlower]
    rw [List.mem_append, List.mem_singleton, h.enabled d]
    constructor
    · rintro (⟨hlt, hd⟩ | rfl)
      · exact ⟨by omega, (hsame (by omega)).2 hd⟩
      · exact ⟨by omega, (hsame (by omega)).2 ht⟩
    · rintro ⟨hlt, hd⟩
      have hd' := (hsame hlt).1 hd
      by_cases hn : d.index = n
      · exact .inr (honly d hn hd')
      · exact .inl ⟨by omega, hd'⟩
  disabled := by
    have hlast : channelDisabled image (t.1 ++ [c]) n = false := by
      rw [Bool.eq_false_iff, Ne, channelDisabled_iff]
      exact fun ⟨_, hall⟩ => hall c (List.mem_append_right _ (.head _)) hc
    rw [countP_disabled_succ, hlast, h.disabled]
    refine List.countP_congr fun i hi => ?_
    have hi : i < n := List.mem_range.1 hi
    rw [channelDisabled_iff, channelDisabled_iff]
    refine and_congr_right fun _ => ⟨fun hall d hd => ?_, fun hall d hd => hall d (List.mem_append_left _ hd)⟩
    rcases List.mem_append.1 hd with hd | hd
    · exact hall d hd
    · obtain rfl := List.mem_singleton.1 hd
      omega

theorem TableForm.taken (h : TableForm image n t) : TableForm image (n + 1) (takeChannel image t n) := by
  have hword {d : ChannelDef} (hd : d.index = n) (ht : ChannelTaken image t.1 d) :
      imageWord image (9 + n) = d.quantity * 256 + d.stepCode := by
    obtain ⟨-, -, hw, -⟩ := ht
    rwa [hd] at hw
  have hfresh : ∀ d ∈ t.1, d.index ≠ n := fun d hd => Nat.ne_of_lt (h.index_lt hd)
  by_cases hused : 256 ≤ imageWord image (9 + n)
  · by_cases hbad : 7 < imageWord image (9 + n) % 256 ∨ ∃ d ∈ t.1, d.quantity = imageWord image (9 + n) / 256
    · rw [takeChannel_disabled hused hbad]
      refine h.kept (fun d hd ht => ?_) (by rw [if_pos (channelDisabled_iff.2 ⟨hused, hfresh⟩)])
      have hw := hword hd ht
      obtain ⟨-, hstep, -, hlower⟩ := ht
      rcases hbad with hbad | ⟨e, he, hq⟩
      · omega
      · exact hlower e he (by rw [hd]; exact h.index_lt he) (by omega)
    · rw [not_or, Nat.not_lt] at hbad
      obtain ⟨hstep, hnone⟩ := hbad
      have hnew : ∀ d ∈ t.1, d.quantity ≠ imageWord image (9 + n) / 256 := fun d hd hq => hnone ⟨d, hd, hq⟩
      rw [takeChannel_enabled hused hstep hnew]
      refine h.joined rfl ⟨Nat.div_pos hused (by decide), hstep, (Nat.div_add_mod' _ 256).symm, fun e he _ => hnew e he⟩
        fun d hd ht => ?_
      have hw := hword hd ht
      obtain ⟨-, hstep', -, -⟩ := ht
      obtain ⟨index, quantity, stepCode⟩ := d
      simp only at hd hw hstep'
      rw [ChannelDef.mk.injEq]
      omega
  · rw [takeChannel_unused (Nat.not_le.1 hused)]
    refine h.kept (fun d hd ht => ?_) ?_
    · have hw := hword hd ht
      obtain ⟨hq, -, -, -⟩ := ht
      omega
    · rw [if_neg fun hdis => hused (channelDisabled_iff.1 hdis).1]
      rfl

theorem tableForm (image : List (BitVec 16)) : ∀ n, TableForm image n ((List.range n).foldl (takeChannel image) ([], 0))
  | 0 => ⟨fun d => ⟨fun hd => (nomatch hd), fun ⟨hd, _⟩ => (nomatch hd)⟩, rfl⟩
  | n + 1 => by
    rw [List.range_succ, List.foldl_append]
    exact (tableForm image n).taken

end

/-! ### What an image is (R178, R180) -/

theorem imageFatal_iff (image : List (BitVec 16)) : imageFatal image = true ↔
    imageWord image 0 ≠ 0x0742 ∨ imageSum image ≠ 65535 ∨ imageWord image 1 = 0 ∨ 63 ≤ imageWord image 1 := by
  simp only [imageFatal, Bool.or_eq_true, bne_iff_ne, beq_iff_eq, decide_eq_true_eq, or_assoc]

/-- One fault for a field out of its range. -/
def fieldFault (low high v : Nat) : Nat := if v < low ∨ high < v then 1 else 0

theorem imageFaults_eq (image : List (BitVec 16)) : imageFaults image =
    fieldFault 0 31 (imageWord image 2) + fieldFault 1 65535 (imageWord image 3) + fieldFault 100 60000 (imageWord image 4) +
      fieldFault 1 24 (imageWord image 5) + fieldFault 10 1000 (imageWord image 6) + fieldFault 0 2 (imageWord image 7 / 256 % 4) +
      fieldFault 50 2000 (imageWord image 8) + (List.range 32).countP (channelDisabled image (imageSettings image).channels) := by
  have hrates : (if 32 ≤ imageWord image 2 then 1 else 0) = fieldFault 0 31 (imageWord image 2) :=
    if_congr (by omega) rfl rfl
  rw [← hrates]
  exact congrArg _ (tableForm image 32).disabled

end Sys2Proof.Machine

/-! PROOFS. Starts and the self-test (R29 to R35, R122, R174, R176 to R181). -/

namespace Sys2Proof.Machine

/-! ### The fault record at a start (R176, R180) -/

/-- A fault count after `n` more faults. -/
def countFaults (n count : Nat) : Nat := if count < 65535 then min (count + n) 65535 else count

/-- The fault record after `n` CONFIG faults at plant clock `clock`. -/
def Sup.withFaults (n clock : Nat) (u : Sup) : Sup := { u with
  fault := if 0 < n then some ⟨.config, .sup, none, none, clock⟩ else u.fault
  faultCount := countFaults n u.faultCount }

theorem configFaults_exact : ∀ (n : Nat) (s : State), configFaults n s = { s with sup := s.sup.withFaults n s.ros.clock }
  | 0, s => by
    have hcount : countFaults 0 s.sup.faultCount = s.sup.faultCount := by
      unfold countFaults
      split <;> omega
    unfold Sup.withFaults
    rw [hcount]
    rfl
  | n + 1, s => by
    have hcount : countFaults n (satSucc Config.max16 s.sup.faultCount) = countFaults (n + 1) s.sup.faultCount := by
      have hsat : satSucc Config.max16 s.sup.faultCount = if s.sup.faultCount < 65535 then s.sup.faultCount + 1 else s.sup.faultCount := rfl
      unfold countFaults
      rw [hsat]
      by_cases hc : s.sup.faultCount < 65535
      · rw [if_pos hc, if_pos hc]
        split <;> omega
      · rw [if_neg hc, if_neg hc, if_neg hc]
    have hfault : (if 0 < n then some ⟨.config, .sup, none, none, s.ros.clock⟩ else some ⟨.config, .sup, none, none, s.ros.clock⟩) =
        some (⟨.config, .sup, none, none, s.ros.clock⟩ : FaultRec) := ite_self _
    rw [configFaults, configFaults_exact n]
    unfold Sup.withFaults
    rw [if_pos (Nat.succ_pos n), ← hcount, ← hfault]
    rfl

/-! ### The blocks at a start (R34, R59, R60, R179) -/

theorem startIsCold_trusted (image : List (BitVec 16)) (u : Sup) :
    startIsCold image u.trusted = (!u.retention || u.checksum != imageChecksum image) := by
  unfold Sup.trusted
  split
  · rfl
  · rfl

/-- SUP at the decision of R179, with the retention mark clear only at a cold start. -/
theorem decide_trusted {image : List (BitVec 16)} {u : Sup} {cold : Bool} {given checksum : BitVec 16} (h : startIsCold image u.trusted = cold)
    (hgiven : given = checksum) : u.trusted.decide cold given = { u with
      part := .checking, retention := true, checksum, coldStart := cold
      fault := if cold then none else u.fault, faultCount := if cold then 0 else u.faultCount
      markBad := !cold && u.markBad, markService := !cold && u.markService, markLf := !cold && u.markLf } := by
  subst hgiven
  cases hret : u.retention with
  | false =>
    have hcold : cold = true := by rw [← h, startIsCold_trusted, hret]; rfl
    have htrusted : u.trusted = u.clearFaults := if_neg (by simp [hret])
    rw [hcold, htrusted]
    rfl
  | true =>
    have htrusted : u.trusted = u := if_pos hret
    rw [htrusted]
    cases cold <;> rfl

/-- An unknown length looked up at a warm start (R60). -/
def lengthAgain (own : BitVec 6) (exits : List ExitRec) (c : Coil) (length : Option Nat) : Option Nat × LengthState :=
  match length with
  | some n => (some n, .none)
  | none => if c.station = 0 ∨ c.station = 63 then (none, .none)
    else if c.station = own then ((exits.find? fun r => r.coil == c).map (fun r => r.oEnd - r.oStart), .none)
    else (none, .wanted)

theorem restartLength_eq (own : BitVec 6) (exits : List ExitRec) (c : Coil) (length : Option Nat) :
    restartLength own exits c length = lengthAgain own exits c length := by
  unfold restartLength lengthAgain
  cases length with
  | some n => rfl
  | none =>
    refine if_congr ?_ rfl rfl
    simp only [busStation, Bool.not_eq_true', Bool.and_eq_false_iff, bne_eq_false_iff_eq]

theorem ctr_start_warm (g : Settings) (c : Ctr) : c.start false g = { c with
    decls := c.decls.map fun d => { d with
      length := (lengthAgain g.station c.exits d.coil d.length).1, lq := (lengthAgain g.station c.exits d.coil d.length).2 }
    entries := c.entries.map fun e => { e with
      length := (lengthAgain g.station c.exits e.coil e.length).1, lq := (lengthAgain g.station c.exits e.coil e.length).2 }
    exits := c.exits.map (ExitRec.restart (g.finalHours * 3600000))
    slots := c.slots.map fun x => ⟨x.gen, none⟩ } := by
  unfold Ctr.start
  simp only [restartLength_eq]
  rfl

/-- LOADING reads an image that is not fatal (R179, R180). -/
theorem loadImage_starts {image : List (BitVec 16)} (h : imageFatal image = false) (s : State) :
    loadImage image s =
      configFaults (imageFaults image) (startBlocks (startIsCold image s.sup.trusted) image { s with sup := s.sup.trusted }) :=
  if_neg (Bool.eq_false_iff.1 h)

/-! ### The self-test (R29 to R32, R181) -/

/-- The PRESENCE START of a part that begins to run (R122). -/
def startFrame (s : State) (fault : Bool) : TxEntry :=
  ⟨⟨.presence, 63, 0, BitVec.ofNat 8 ((if s.sup.coldStart then 2 else 0) + if fault then 4 else 0) ::
    s.settings.channels.map fun d => BitVec.ofNat 8 d.quantity⟩, .rosStart, 0, 0, false, false⟩

theorem enterRun_eq (part : PartState) (s : State) : enterRun part s = { s with
    bus := { s.bus with rx := .hunt, queue := s.bus.queue ++ [startFrame s s.tsc.storeFault] }, sup := { s.sup with part } } := by
  have hhead : ∀ cold fault : Bool, beBytes 1 (bitOf false 1 + bitOf cold 2 + bitOf fault 4) =
      [BitVec.ofNat 8 ((if cold then 2 else 0) + if fault then 4 else 0)] := by decide
  have hframe : TxEntry.fresh (ownPresence s false s.sup.coldStart) .rosStart = startFrame s s.tsc.storeFault := by
    unfold ownPresence presenceBytes
    simp only [hhead]
    rfl
  rw [← hframe]
  unfold enterRun State.join State.startHead
  exact if_neg fun h : RxState.hunt = .idle => nomatch h

/-- A read-back that is not what was written (R29). -/
def Mismatch (s : State) (r : TestRead) : Prop := readMade s r = true ∧ readMatches r = false

theorem firstMismatch_none {s : State} {reads : List TestRead} (h : ∀ r ∈ reads, ¬ Mismatch s r) : firstMismatch s reads = none := by
  refine List.find?_eq_none.2 fun r hr hbad => h r hr ?_
  rwa [Bool.and_eq_true, Bool.not_eq_true'] at hbad

theorem firstMismatch_some {s : State} {pre post : List TestRead} {r : TestRead} (hpre : ∀ x ∈ pre, ¬ Mismatch s x) (hr : Mismatch s r) :
    firstMismatch s (pre ++ r :: post) = some r := by
  obtain ⟨hmade, hbad⟩ := hr
  have hnone : firstMismatch s pre = none := firstMismatch_none hpre
  unfold firstMismatch at hnone ⊢
  rw [List.find?_append, hnone, List.find?_cons_of_pos (by rw [hmade, hbad]; rfl)]
  rfl

/-- The self-test takes the slot of the read-back: it is in range. -/
theorem Mismatch.inRange {s : State} {r : TestRead} (h : Mismatch s r) : testSlot s.settings.storeCode (readSlot r) = true := by
  obtain ⟨hmade, -⟩ := h
  unfold readMade at hmade
  exact (Bool.and_eq_true_iff.1 hmade).1

theorem failSelfTest_eq {s : State} (hp : s.sup.part = .checking) {i : BitVec 20} (hi : testSlot s.settings.storeCode i = true) :
    failSelfTest i s = { s with
      tsc := { s.tsc with
        ring := [], flush := [], transfer := none, storeFault := true
        testMark := (ringAt s.tsc.ring i.toNat).map fun p => (i.toNat, p)
        chans := s.settings.channels.map fun d => .fresh d.index (d.openBin s.smp.odometer) }
      sup := { s.sup with
        part := .runDegraded, fault := some ⟨.storeFault, .tsc, none, none, s.ros.clock⟩, faultCount := satSucc 65535 s.sup.faultCount }
      bus := { s.bus with rx := .hunt, queue := s.bus.queue ++ [startFrame s true] } } := by
  have hmark : slotUnderTest s (some i) = (ringAt s.tsc.ring i.toNat).map fun p => (i.toNat, p) := if_pos ⟨hp, hi⟩
  unfold failSelfTest
  rw [hmark, enterRun_eq]
  rfl

end Sys2Proof.Machine

/-! PROOFS. `StartSequence`: the settle count, the image, and the self-test. -/

namespace Sys2Proof.Machine

theorem State.eq_of_blocks {s t : State} (settings : s.settings = t.settings) (smp : s.smp = t.smp) (tsc : s.tsc = t.tsc)
    (lfr : s.lfr = t.lfr) (ctr : s.ctr = t.ctr) (lch : s.lch = t.lch) (bus : s.bus = t.bus) (pse : s.pse = t.pse)
    (ros : s.ros = t.ros) (req : s.req = t.req) (con : s.con = t.con) (sup : s.sup = t.sup) (freeSeq : s.freeSeq = t.freeSeq)
    (pending : s.pending = t.pending) : s = t := by
  cases s
  cases t
  simp only at settings smp tsc lfr ctr lch bus pse ros req con sup freeSeq pending
  rw [settings, smp, tsc, lfr, ctr, lch, bus, pse, ros, req, con, sup, freeSeq, pending]

theorem tsc_start_eq (cold : Bool) (g : Settings) (odometer : Nat) (t : Tsc) : t.start cold g odometer =
    if cold = false ∧ t.intact = true then
      { t with ring := t.restored, transfer := none, mark := .localEval, storeFault := false, testMark := none }
    else { t.emptied g odometer with mark := .localEval, storeFault := false, intact := true, testMark := none } := by
  by_cases h : cold = false ∧ t.intact = true
  · obtain ⟨hcold, hintact⟩ := h
    rw [if_pos ⟨hcold, hintact⟩]
    unfold Tsc.start
    simp only [hcold, hintact, Bool.not_false, Bool.and_self, if_true]
  · rw [if_neg h]
    refine (Tsc.start_cases cold g odometer t).resolve_left fun ⟨hcold, hintact, _⟩ => h ⟨hcold, hintact⟩

theorem ctr_start_eq (cold : Bool) (g : Settings) (c : Ctr) :
    c.start cold g = if cold then { Ctr.reset with nextId := c.nextId } else { c with
      decls := c.decls.map fun d => { d with
        length := (lengthAgain g.station c.exits d.coil d.length).1, lq := (lengthAgain g.station c.exits d.coil d.length).2 }
      entries := c.entries.map fun e => { e with
        length := (lengthAgain g.station c.exits e.coil e.length).1, lq := (lengthAgain g.station c.exits e.coil e.length).2 }
      exits := c.exits.map (ExitRec.restart (g.finalHours * 3600000))
      slots := c.slots.map fun x => ⟨x.gen, none⟩ } := by
  cases cold with
  | true => rfl
  | false => exact ctr_start_warm g c

/-- REQ at a start is reset but for what a warm one keeps (R128, R144, R164). -/
theorem req_start_eq (cold : Bool) (r : Req) : r.start cold = { Req.reset with
    fetches := if cold then List.replicate 16 ⟨0, none⟩ else r.fetches.map fun x => ⟨x.gen, none⟩
    lastGiven := if cold then 15 else r.lastGiven
    queries := if cold then List.replicate 8 ⟨0, none⟩ else r.queries.map fun x => ⟨x.gen, none⟩
    collector := ⟨if cold then 0 else r.collector.gen, .idle, 0, 0, 0, []⟩ } := by
  cases cold <;> rfl

theorem mismatch_iff (s : State) (r : TestRead) : Mismatch s r ↔ match r with
    | .address i address read => (slotCount s.settings.storeCode - 16 ≤ i.toNat ∧ i.toNat < slotCount s.settings.storeCode) ∧
        read ≠ BitVec.ofNat 16 address
    | .complement i address read => (slotCount s.settings.storeCode - 16 ≤ i.toNat ∧ i.toNat < slotCount s.settings.storeCode) ∧
        read ≠ ~~~ BitVec.ofNat 16 address
    | .restored i same => (slotCount s.settings.storeCode - 16 ≤ i.toNat ∧ i.toNat < slotCount s.settings.storeCode) ∧
        (ringAt s.tsc.ring i.toNat).isSome ∧ same = false := by
  unfold Mismatch readMade
  rw [Bool.and_eq_true, testSlot_iff]
  cases r with
  | address i address read => simp [readMatches, readSlot]
  | complement i address read => simp [readMatches, readSlot]
  | restored i same => simp [readMatches, readSlot, and_assoc]

/-- Settles O55: the settle count, a fatal image and any other, and the two ends of the self-test. -/
theorem startSequence : Obligations.StartSequence := by
  intro s next kept
  refine ⟨?_, ?_, ?_⟩
  · intro hp
    exact commit_of_eq (s := s) (if_pos hp)
  · intro hp image word fatal
    have hfatal : imageFatal image = true ↔ fatal := imageFatal_iff image
    refine ⟨fun hf => ?_, fun hf => ?_⟩
    · refine commit_of_eq (s := s) ((if_pos hp).trans (congrArg some ?_))
      exact if_pos (hfatal.2 hf)
    · have hgood : imageFatal image = false := Bool.eq_false_iff.2 fun h => hf (hfatal.1 h)
      refine ⟨imageSettings image, s.tsc.start (startIsCold image s.sup.trusted) (imageSettings image)
        (s.smp.start (startIsCold image s.sup.trusted) (imageSettings image)).odometer, ?_⟩
      intro clamp outside faults pair checksum cold counted odometer again
      have hcold : startIsCold image s.sup.trusted = cold := startIsCold_trusted image s.sup
      have hfaults : imageFaults image = faults := imageFaults_eq image
      have hchecksum : imageChecksum image = checksum := by
        unfold imageChecksum Config.imageWords imageWord
        rfl
      clear_value checksum
      rw [hcold]
      refine ⟨?_, rfl, imageSettings_ascending image, (tableForm image 32).enabled, tsc_start_eq ..⟩
      refine commit_of_eq (s := s) ((if_pos hp).trans (congrArg some ?_))
      rw [loadImage_starts hgood, configFaults_exact, hcold, hfaults]
      refine State.eq_of_blocks rfl rfl rfl rfl (ctr_start_eq ..) rfl rfl rfl rfl (req_start_eq ..) rfl ?_ rfl rfl
      exact congrArg (Sup.withFaults faults 0) (decide_trusted hcold hchecksum)
  · intro hp start tested slot differs reads
    have hdiffers : ∀ r, Mismatch s r ↔ differs r := mismatch_iff s
    refine ⟨fun hall => ?_, fun pre r post hreads hpre hr => ?_⟩
    · refine commit_of_eq (s := s) ((if_pos hp).trans (congrArg some ?_))
      unfold endSelfTest passSelfTest
      rw [firstMismatch_none fun r hr hbad => hall r hr ((hdiffers r).1 hbad)]
      exact enterRun_eq ..
    · subst hreads
      have hbad := (hdiffers r).2 hr
      refine commit_of_eq (s := s) ((if_pos hp).trans (congrArg some ?_))
      unfold endSelfTest
      rw [firstMismatch_some (fun x hx hbad => hpre x hx ((hdiffers x).1 hbad)) hbad]
      exact failSelfTest_eq hp hbad.inRange

end Sys2Proof.Machine
